-- ==== Sys2Proof/Word.lean ====
section
/-! DEFINITION. The word types of the manual (Conventions; R184): bytes, halfwords and words. -/

namespace Sys2Proof

/-- A byte. -/
abbrev Byte := BitVec 8

/-- A halfword of 16 bits (R184). -/
abbrev Half := BitVec 16

/-- A word of 32 bits (Conventions). -/
abbrev Word := BitVec 32

/-- Byte `i` of a word, byte 0 the least significant (R184). -/
def Word.byte (w : Word) (i : Nat) : Byte := w.extractLsb' (8 * i) 8

/-- The word whose four bytes are given, the least significant first (R184). -/
def Word.ofBytes (b0 b1 b2 b3 : Byte) : Word :=
  b0.setWidth 32 ||| (b1.setWidth 32 <<< 8) ||| (b2.setWidth 32 <<< 16) ||| (b3.setWidth 32 <<< 24)

end Sys2Proof
end

