-- ==== Sys2Proof/Syntax.lean ====
section
/-! DEFINITION. The commands: one constructor of `Instr` per row of spec/opcode_table.json, with the operands each row
needs. An operand `dt` is the number of MCLK cycles that have passed since the command before (log 2). -/

namespace Sys2Proof

/-- One word of a host write with its four byte enables, enable `i` for byte `i` (R168). -/
structure WriteWord where
  data : Word
  enables : BitVec 4
deriving DecidableEq, Repr

/-- What a pass transaction does: a read of a number of words, or a write of words (R168). -/
inductive PassOp where
  | read (length : Nat)
  | write (words : List WriteWord)
deriving DecidableEq, Repr

/-- A pass transaction (R168). -/
structure PassTransaction where
  addr : Word
  op : PassOp
deriving DecidableEq, Repr

/-- A host write at an address; `waits`: it is left waiting for its grant (R171, log 7). -/
structure HostWrite where
  addr : Word
  words : List WriteWord
  waits : Bool
deriving DecidableEq, Repr

/-- A host read at an address; `waits`: it is left waiting for its grant (R171, log 7). -/
structure HostRead where
  addr : Word
  length : Nat
  waits : Bool
deriving DecidableEq, Repr

/-- A host write into the 64-byte block of a watched word, from word `start` of the block on (R170, R172). -/
structure BlockWrite where
  start : Fin 16
  words : List WriteWord
  waits : Bool
deriving DecidableEq, Repr

/-- The twelve verbs (R52). -/
inductive Verb where
  | startStream | stopStream | swapRing | switchReference | setRate | stopDomain
  | assignLane | laneCommand | setOutput | motorTarget | motorFree | mark
deriving DecidableEq, Repr

/-- A cue as the Cue Unit hands it to its owner (R57, R63): all but its verb. -/
structure CueBody where
  /-- the ring index it was taken from -/
  index : Byte
  /-- the NOW flag as read; what it asked for stands in `due` and `origin` (R55) -/
  now : Bool
  /-- the REPORT flag as read -/
  report : Bool
  domain : Fin 4
  target : Byte
  tag : Half
  /-- the due frame in the list (R55) -/
  due : Word
  /-- the lateness origin (R55) -/
  origin : Word
  arg0 : Word
  arg1 : Word
  arg2 : Word
  arg3 : Word
deriving DecidableEq, Repr

/-- The blocks that take a boundary; the spec puts no order among them (R73, log 9). -/
inductive BoundaryPart where
  | lane (l : Fin 8)
  | cues
  | output (o : Fin 4)
  | tick
deriving DecidableEq, Repr

/-- The order in which the edge of an input is taken: the domains in `first` take its boundary before its measurement is
judged (R94, log 10); `parts` is the order of the blocks within a boundary (log 9). -/
structure EdgeOrder where
  first : List (Fin 4)
  parts : List BoundaryPart
deriving DecidableEq, Repr

/-- A lane frame (R106), fields in wire order, codes as received. -/
structure LaneFrame where
  kind : Byte
  tag : Byte
  slotCount : Byte
  slots : List Word
  mark : Byte
  word : Word
  crc : Half
deriving DecidableEq, Repr

/-- A byte on a surface link with its ninth, framing bit, set on a kind byte (R202). -/
structure SurfaceByte where
  framing : Bool
  value : Byte
deriving DecidableEq, Repr

/-- The internal oscillators (R75). -/
inductive Osc where
  | int44 | int48
deriving DecidableEq, Repr

/-- The commands. -/
inductive Instr where
  -- host transactions
  | passTransaction (t : PassTransaction) (waits : Bool)
  | playbackRingWrite (w : HostWrite)
  | captureRingRead (r : HostRead)
  | cuePostMarkWrite (w : BlockWrite)
  | eventTakeMarkWrite (w : BlockWrite)
  | attentionMaskWrite (w : BlockWrite)
  | stampDomainWrite (p : Fin 2) (w : BlockWrite)
  | groupReferenceSelectWrite (p : Fin 2) (w : BlockWrite)
  | faderWindowWrite (p : Fin 2) (w : BlockWrite)
  | ladderBindingWrite (p : Fin 2) (w : BlockWrite)
  | encoderNotifyMaskWrite (p : Fin 2) (w : BlockWrite)
  | lampRowWrite (p : Fin 2) (w : BlockWrite)
  | thresholdWordWrite (l : Fin 8) (q : Fin 4) (w : BlockWrite)
  -- cues
  | cueTake (dt : Nat)
  | frameBoundary (d : Fin 4) (dt : Nat) (order : List BoundaryPart)
  | startStream (c : CueBody)
  | stopStream (c : CueBody)
  | swapRing (c : CueBody)
  | switchReference (c : CueBody) (dt : Nat)
  | setRate (c : CueBody)
  | stopDomain (c : CueBody) (dt : Nat)
  | assignLane (c : CueBody)
  | laneCommand (c : CueBody)
  | setOutput (c : CueBody)
  | motorTarget (c : CueBody)
  | motorFree (c : CueBody)
  | mark (c : CueBody)
  -- clocks
  | retrainCountdownEnd (l : Fin 8) (dt : Nat) (order : List BoundaryPart)
  /-- `first`: the domains that take the edge's boundary before they judge a measurement it ends (R94, log 10) -/
  | wordClockEdge (w : Fin 2) (dt : Nat) (order : EdgeOrder)
  | inputAbsent (w : Fin 2) (dt : Nat) (order : List BoundaryPart)
  | oscillatorRunning (o : Osc) (dt : Nat)
  | settleWindowEnd (d : Fin 4) (dt : Nat)
  | outputRise (o : Fin 4) (dt : Nat)
  | outputFall (o : Fin 4) (dt : Nat)
  | inputStatusPeriodic (dt : Nat)
  | surfaceCounterPeriodic (p : Fin 2) (dt : Nat)
  -- lanes, memory and streams
  | laneFrameReceived (l : Fin 8) (f : LaneFrame)
  | memoryArbitration
  | refreshInterval (dt : Nat)
  | streamFetch (st : Fin 32)
  | streamStore (st : Fin 32)
  | eventRecordWritten
  | meterTableWritten (l : Fin 8)
  | surfaceImageWritten (p : Fin 2)
  -- surfaces: the bytes after the kind byte, the checksum last (R202)
  | announce (p : Fin 2) (faders groups encoders ladders checksum : Byte) (dt : Nat)
  | buttons (p : Fin 2) (group states checksum : Byte) (dt : Nat)
  | faderReport (p : Fin 2) (index low high checksum : Byte) (dt : Nat)
  | encoderReport (p : Fin 2) (index delta checksum : Byte) (dt : Nat)
  | idleReport (p : Fin 2) (checksum : Byte) (dt : Nat)
  | surfaceSilenceTimeout (p : Fin 2) (dt : Nat)
  | surfaceCommandSent (p : Fin 2)
  -- sequences
  | pornAssert
  | pornRelease (msel : BitVec 2) (refsel : BitVec 1) (dt : Nat)
  | sdramBringUp (dt : Nat)
  | startUpScrubComplete
  | passPortOpen
  | hrstnAssert
  | hrstnRelease
  | hostResetScrubComplete
  | malformedSurfaceMessage (p : Fin 2) (bytes : List SurfaceByte)
deriving DecidableEq, Repr

end Sys2Proof
end

