-- ==== Sys2Proof/Config.lean ====
section
/-! DEFINITION. What the part fixes: its durations in MCLK cycles (MCLK is 100 MHz), its capacities, and the one value
the manual leaves open. -/

namespace Sys2Proof.Config

/-- R75: an internal oscillator is RUNNING 20 ms after it starts. -/
def oscillatorStart : Nat := 2000000

/-- R77: the settle window of selector `k` is 8 ms doubled `k` times. -/
def settleWindow (k : Nat) : Nat := 800000 * 2 ^ k

/-- R91: cycles without a rising edge that make an input ABSENT. -/
def absenceLimit : Nat := 10000

/-- R92: periods in one measurement block. -/
def measureBlock : Nat := 64

/-- R128: 250 ms of silence take a surface port DOWN. -/
def silenceLimit : Nat := 25000000

/-- R179: the wait before the SDRAM bring-up, 200 us. -/
def bringUpWait : Nat := 20000

/-- R177: the refresh pending count saturates here. -/
def refreshMax : Nat := 8

/-- R117: boundaries a FAULT lane waits before it trains again. -/
def retrainBoundaries : Nat := 1024

/-- R109: good echoes in a row that make a lane UP. -/
def trainingRun : Nat := 16

/-- R95: the input status records are written every 10 ms. -/
def statusPeriod : Nat := 1000000

/-- Arbitration points that a row waits through at most for the grant of its transaction (log 7). -/
def grantPoints : Nat := 16384

/-- R113: bad frames in a row that put an UP lane in FAULT. -/
def badRunLimit : Nat := 8

/-- R116: command words a control queue holds. -/
def controlDepth : Nat := 8

/-- R57: places of the pending cue list. -/
def pendingCues : Nat := 64

/-- R59: cues of one domain applied at one boundary. -/
def cuesPerBoundary : Nat := 8

/-- R27, R30: frames of lane staging in each direction. -/
def stagingFrames : Nat := 4

/-- R160: occupied slots at which an event is lost. -/
def eventLimit : Nat := 1023

/-- R179: scrub writes of 64 bytes over the control area. -/
def scrubBlocks : Nat := 16384

/-- R183: the size of the control area. -/
def controlBytes : Nat := 1048576

/-- R97 computes a half-period from the last good measurement of a domain that counts from a word clock input. The spec
states no value for a domain that has none (no run reaches one): that 64-period sum is a free value of the domain's
number (log 29). -/
opaque unmeasuredSum : Nat → Nat

end Sys2Proof.Config
end

