-- ==== Sys2Proof/Machine/State.lean ====
section
/-! DEFINITION. The state of the part as plain data, block by block (00_scope.md, "The blocks"), the queue of commands,
and the power-on state. -/

namespace Sys2Proof.Machine

/-- Why a command would stop the machine. The spec gives the part no such case (every ill-formed transaction, refused cue,
malformed report and lost event has a stated answer and the machine goes on), so there is no constructor. -/
inductive Fault where
deriving DecidableEq, Repr

/-- Why a command has no meaning. `notModelled` stands only for a row not reached yet (safe); no arm answers with it. -/
inductive Refusal where
  /-- raised by `exec` for a row without a meaning; safe -/
  | notModelled (mnemonic : String)
deriving DecidableEq, Repr

/-! ## Memory -/

/-- The SDRAM: cells in rising address order, none equal to what an unlisted address reads as (log 5). -/
abbrev Memory := List Host.Cell

/-! ## Named values (R185) -/

/-- The direction of a stream. -/
inductive Direction where
  | play | capture
deriving DecidableEq, Repr

/-- The starve policies of playback and the overrun policies of capture (R20). -/
inductive StreamPolicy where
  | keepTime | keepData | dropNew | reclaim
deriving DecidableEq, Repr

/-- The late-write policies (R12). -/
inductive LatePolicy where
  | land | block
deriving DecidableEq, Repr

/-- STOP_STREAM modes (R39). -/
inductive StopMode where
  | now | periodEnd
deriving DecidableEq, Repr

/-- The "how" of STREAM_STOPPED (R44, R185). -/
inductive StopHow where
  | now | periodEnd | whilePrimed | whileHalted
deriving DecidableEq, Repr

/-- Stream states (R21). -/
inductive StreamState where
  | idle | primed | running | starved | overflowing | halted
deriving DecidableEq, Repr

/-- States of a playback period (empty, filled, playing) and of a capture period (free, filling, ready) (R2). -/
inductive PeriodState where
  | empty | filled | playing | free | filling | ready
deriving DecidableEq, Repr

/-- Refusal reasons of cues (section 3.2, R185). -/
inductive Reason where
  | badVerb | badTarget | domainMismatch | wrongState | badStage | laneNotUp | slotConflict | ringOverlap | busy
  | controlFull | portDown
deriving DecidableEq, Repr

/-- Where a cue was refused (R68). -/
inductive RefusalPhase where
  | acceptance | application
deriving DecidableEq, Repr

/-- Run states of a domain (R71). -/
inductive RunState where
  | stopped | locked | holdover
deriving DecidableEq, Repr

/-- References (R71); NONE is `none : Option Source`. -/
inductive Source where
  | int44 | int48 | wci0 | wci1
deriving DecidableEq, Repr

/-- Families (R71). -/
inductive Family where
  | f441 | f48
deriving DecidableEq, Repr

/-- Multipliers and dividers 1, 2, 4 (R71, R96). -/
inductive Factor where
  | x1 | x2 | x4
deriving DecidableEq, Repr

/-- Candidate origins (R71). -/
inductive Origin where
  | switch | fallback
deriving DecidableEq, Repr

/-- Candidate phases (R71). -/
inductive CandidatePhase where
  | starting | settling | passed
deriving DecidableEq, Repr

/-- Causes of a loss or a failed qualification (R82, R79, R86). -/
inductive ClockCause where
  | absent | outOfTolerance | cancelled
deriving DecidableEq, Repr

/-- Oscillator states (R75); STARTING carries the MCLK time it started. -/
inductive OscState where
  | off | starting (since : Nat) | running
deriving DecidableEq, Repr

/-- Lane states (R101). -/
inductive LaneState where
  | idle | training | up | fault
deriving DecidableEq, Repr

/-- Causes of a bad frame (R112). -/
inductive BadCause where
  | missing | crc | format | tag
deriving DecidableEq, Repr

/-- Output states (R96). -/
inductive OutputState where
  | off | waiting | running | ending
deriving DecidableEq, Repr

/-- The internal start-up word (R166). -/
inductive StartWord where
  | init | ready | resetting
deriving DecidableEq, Repr

/-- Event classes (R156). -/
inductive EventClass where
  | routine | notice | fault
deriving DecidableEq, Repr

/-- The 31 kinds of event (R157). -/
inductive EventKind where
  | periodPlayed | periodCaptured | lateWrite | earlyRead
  | streamStarted | streamStopped | resumed | swapDone | starved | overflow | streamHalted | engineLate
  | cueDone | cueRefused | cueCancelled
  | referenceSwitched | referenceLost | qualifyFailed
  | laneUp | laneFault | converterStatus
  | surfaceUp | surfaceDown | buttonGroup | faderTouch | faderRelease | faderWindow | encoderMoved
  | meterOver | meterSilent | eventsLost
deriving DecidableEq, Repr

/-- Window states of a fader (R135). -/
inductive WindowState where
  | inside | outside | disabled
deriving DecidableEq, Repr

/-- Motor states (R136). -/
inductive MotorState where
  | free | driven | held
deriving DecidableEq, Repr

/-- An item of the dirty set (R129): a dirty motor item holds its kind. -/
inductive DirtyMark where
  | clean | dirty | target | release
deriving DecidableEq, Repr

/-- Meter modes (R151). -/
inductive MeterMode where
  | off | over | silent
deriving DecidableEq, Repr

/-- The three requesters of the rotation (R176). -/
inductive Requester where
  | pass | stream | record
deriving DecidableEq, Repr

/-- The two directions of a lane's staging (R176, R185). -/
inductive FlowDir where
  | outbound | inbound
deriving DecidableEq, Repr

/-- Installed sizes (R174). -/
inductive MemSize where
  | mib64 | mib128 | mib256
deriving DecidableEq, Repr

/-- Refresh intervals (R174). -/
inductive RefreshSel where
  | us78 | us39
deriving DecidableEq, Repr

/-- Where the part stands in its sequences (R178 to R182). -/
inductive Phase where
  /-- PORn asserted (R178) -/
  | held
  /-- R179 step 2 -/
  | bringUp
  /-- R179 step 3 -/
  | scrub
  /-- R179 step 4 -/
  | records
  /-- the Pass Port is open -/
  | opened
  /-- HRSTn asserted (R180) -/
  | hostReset
  /-- R181 step 1 -/
  | hostScrub
  /-- R181 step 2 -/
  | hostRecords
deriving DecidableEq, Repr

/-! ## Events and the Record requester's order -/

/-- An event record (R156); the class is a property of the kind (R157). -/
structure Event where
  kind : EventKind
  source : Nat
  stampDomain : Option (Fin 4)
  stampCount : Word
  d0 : Word
  d1 : Word
  flagA : Bool
  flagB : Bool
deriving DecidableEq, Repr

/-- The records the Report Unit writes besides events (R164, R45). -/
inductive RecordId where
  | identity | startWord | passCounters | report
  | domain (d : Fin 4) | lane (l : Fin 8) | output (o : Fin 4) | input (w : Fin 2) | live (st : Fin 32)
deriving DecidableEq, Repr

/-- What a request of the Record order is for (R175). -/
inductive RecordWork where
  | status (id : RecordId)
  | event (slot : BitVec 10) (cls : EventClass)
  /-- the post mark word, written over the record of that slot (R159) -/
  | posting (slot : BitVec 10) (cls : EventClass)
  | meterTable (l : Fin 8)
  /-- the changed words of a port's image (R131) -/
  | image (p : Fin 2)
  /-- every word of a port's image (R144) -/
  | wholeImage (p : Fin 2)
  /-- the Cue Unit's read of the record at its take mark (R49 step 1) -/
  | cueRead
  /-- the cue take mark word (R49 step 2) -/
  | cueMark
  /-- an owner's read of a stage entry (R20, R63) -/
  | stageRead
  /-- a write begun before a reset: it is completed with no further effect (R167 step 3, log 27) -/
  | orphan
deriving DecidableEq, Repr

/-- One write transaction of the Record requester: words in a row. -/
structure MemWrite where
  addr : Nat
  words : List Word
deriving DecidableEq, Repr

/-- One request of the Record order: its transactions still to be granted, and the events passed when it completes. -/
structure RecordItem where
  work : RecordWork
  begun : Bool
  writes : List MemWrite
  events : List Event
deriving DecidableEq, Repr

/-! ## Memory Controller and Pass Port -/

/-- The Memory Controller (R174 to R179). -/
structure MemController where
  size : MemSize
  refresh : RefreshSel
  releasedAt : Nat
  refreshTimer : Option Nat
  refreshPending : Nat
  lastOfThree : Requester
  laneTurn : Fin 8
  laneDir : Vector FlowDir 8
  scrubNext : Option Nat
  records : List RecordItem
deriving DecidableEq, Repr

/-- Responses (R169). -/
inductive Response where
  | okay | refused | noMemory | error
deriving DecidableEq, Repr

/-- A response as sent, with a read's data (R168). -/
structure Answer where
  response : Response
  data : List Word
deriving DecidableEq, Repr

/-- The Pass Port: the transaction in hand, the last answer and the pass counters (R171, R173). -/
structure PassPort where
  inHand : Option PassTransaction
  answer : Option Answer
  reads : Word
  writes : Word
  refused : Word
  noMemory : Half
  errors : Half
deriving DecidableEq, Repr

/-! ## Ring Watch -/

/-- One record of a period state list (R2). -/
structure PeriodRec where
  state : PeriodState
  reported : Bool
deriving DecidableEq, Repr

/-- A ring with its period state list (R1, R2); the period count is the list's length. -/
structure Ring where
  base : Nat
  channels : Nat
  frames : Nat
  periods : List PeriodRec
deriving DecidableEq, Repr

/-- A directory entry (R2). -/
structure RingEntry where
  dir : Direction
  notify : Bool
  late : LatePolicy
  current : Ring
  pendingRing : Option Ring
  retiring : Option Ring
deriving DecidableEq, Repr

/-! ## Stream Engine -/

/-- The taken geometry of a stream (R21). -/
structure Geometry where
  dir : Direction
  lane : Fin 8
  domain : Fin 4
  firstSlot : Nat
  channels : Nat
  base : Nat
  frames : Nat
  count : Nat
  policy : StreamPolicy
  late : Option LatePolicy
  notify : Bool
deriving DecidableEq, Repr

/-- The start record (R21). -/
structure StartRecord where
  frame : Word
  mark : Bool
deriving DecidableEq, Repr

/-- The stop-pending record (R21). -/
structure StopRecord where
  mode : StopMode
  last : Word
deriving DecidableEq, Repr

/-- The swap-pending record (R21). -/
structure SwapRecord where
  base : Nat
  frames : Nat
  count : Nat
deriving DecidableEq, Repr

/-- Where a stream starved: the period and the first zero frame (R26, R32, R44). -/
structure Starvation where
  period : Nat
  frame : Word
deriving DecidableEq, Repr

/-- The eight counters (section 2.11). -/
structure StreamCounters where
  lateWrites : Half
  earlyReads : Half
  slip : Word
  skipped : Half
  dropped : Word
  lost : Half
  substituted : Word
  engineLate : Word
deriving DecidableEq, Repr

/-- A stream's live context (R21). -/
structure Stream where
  state : StreamState
  geom : Option Geometry
  period : Nat
  frame : Nat
  start : Option StartRecord
  stamp : Option Word
  stop : Option StopRecord
  swap : Option SwapRecord
  resumeMark : Bool
  counters : StreamCounters
  /-- lane frame the engine will fetch or store next (R27, R30) -/
  next : Word
  /-- words of that frame already moved -/
  words : Nat
  /-- present while the stream is starved, PRIMED or not (R25, R32) -/
  starved : Option Starvation
  /-- under KEEP_TIME: the position has just crossed into a new period (R32) -/
  crossed : Bool
  /-- last lane frame carried or stored (R44) -/
  lastFrame : Option Word
  /-- a stop-pending record removed a swap (R41, R44) -/
  swapDropped : Bool
deriving DecidableEq, Repr

/-- A slot map of 64 entries (R23). -/
abbrev SlotMap := Vector (Option (Fin 32)) 64

/-- The Stream Engine (R21, R23). -/
structure StreamEngine where
  streams : Vector Stream 32
  playMaps : Vector SlotMap 8
  captureMaps : Vector SlotMap 8
deriving DecidableEq, Repr

/-! ## Cue Unit -/

/-- A cue with its verb (R57). -/
structure Cue where
  verb : Verb
  body : CueBody
deriving DecidableEq, Repr

/-- A cue record as read (R50, R196). -/
structure RawCue where
  verb : Byte
  now : Bool
  report : Bool
  domain : Byte
  target : Byte
  tag : Half
  due : Word
  arg0 : Word
  arg1 : Word
  arg2 : Word
  arg3 : Word
deriving DecidableEq, Repr

/-- The Cue Unit (R47, R57, R69). -/
structure CueUnit where
  takeMark : Byte
  postMark : Byte
  taking : Bool
  /-- the record read by the take in progress (R49 step 1) -/
  record : Option RawCue
  /-- the last post mark write left the post mark equal to the take mark (R48, log 48) -/
  drained : Bool
  list : List Cue
deriving DecidableEq, Repr

/-! ## Clock Block -/

/-- A candidate record (R71); `latest` is the latest measurement kept with it (R78). -/
structure Candidate where
  source : Source
  family : Family
  mult : Factor
  tickExp : Nat
  settle : Nat
  fallback : Option Source
  origin : Origin
  phase : CandidatePhase
  windowStart : Option Nat
  latest : Option Nat
deriving DecidableEq, Repr

/-- A SET_RATE waiting for its boundary (R85). -/
structure RateChange where
  mult : Factor
  tickExp : Nat
deriving DecidableEq, Repr

/-- A domain record (R71) with the timing of its boundaries (R72, R80, R83, R94). -/
structure Domain where
  run : RunState
  ref : Option Source
  family : Family
  mult : Factor
  count : Word
  tickExp : Nat
  settle : Nat
  fallback : Option Source
  lastGood : Option Nat
  candidate : Option Candidate
  rateChange : Option RateChange
  /-- MCLK time of the last boundary taken -/
  lastBoundary : Nat
  /-- MCLK time the holdover run in hand started (R72) -/
  holdStart : Nat
  /-- frame of that run in progress, 0 to 63 (R72) -/
  holdIndex : Nat
  /-- MCLK time of the switch whose first frame is in progress (R80, R81) -/
  afterSwitch : Option Nat
  /-- the boundary of the input's last edge is still to be taken (R94, log 10) -/
  edgeOwed : Bool
deriving DecidableEq, Repr

/-- A word clock input (R91, R92, R95). -/
structure WordInput where
  present : Bool
  lastEdge : Nat
  blockStart : Nat
  blockEdges : Nat
  latest : Option Nat
  stale : Bool
  absences : Half
  measurements : Word
deriving DecidableEq, Repr

/-- Output settings (R96). -/
structure OutputSettings where
  enable : Bool
  domain : Fin 4
  divider : Factor
deriving DecidableEq, Repr

/-- A word clock output (R96, R97). -/
structure WordOutput where
  state : OutputState
  line : Bool
  settings : OutputSettings
  pendingSettings : Option OutputSettings
  lastHalf : Option Nat
  lastFall : Nat
  passedOver : Half
  /-- MCLK time at which a rise waiting for its guard comes (R97) -/
  riseAt : Option Nat
  /-- half-period of the cycle in progress (R97) -/
  half : Nat
  /-- MCLK time at which the high time ends (R97) -/
  fallAt : Option Nat
deriving DecidableEq, Repr

/-- The Clock Block. -/
structure ClockBlock where
  domains : Vector Domain 4
  osc44 : OscState
  osc48 : OscState
  /-- MCLK time of the last 10 ms point of the input status records (R95, log 31) -/
  tenMs : Nat
  inputs : Vector WordInput 2
  outputs : Vector WordOutput 4
deriving DecidableEq, Repr

/-! ## Lane Interface -/

/-- What a staged outbound frame carries for one stream (R28): the ring and frame the words came from. -/
structure Carry where
  stream : Fin 32
  base : Nat
  period : Nat
  frame : Nat
  frames : Nat
deriving DecidableEq, Repr

/-- One place of outbound staging (R27). -/
structure OutPlace where
  slots : Vector Word 64
  carries : List Carry
deriving DecidableEq, Repr

/-- How an inbound frame stands: good with its slot words, bad, or lost to staging (R30, R31). -/
inductive InboundKind where
  | good (slots : List Word) | bad | lost
deriving DecidableEq, Repr

/-- An inbound frame to be stored (R30, R31). -/
structure InboundFrame where
  number : Word
  kind : InboundKind
deriving DecidableEq, Repr

/-- The lane counters (R101). -/
structure LaneCounters where
  good : Word
  badCrc : Word
  badMissing : Word
  badTag : Word
  badFormat : Word
  stray : Half
  faults : Half
  sent : Word
  dropped : Half
deriving DecidableEq, Repr

/-- A lane record (R101) with its staging. -/
structure Lane where
  state : LaneState
  domain : Option (Fin 4)
  trainingRun : Nat
  badRun : Nat
  countdown : Option Nat
  expected : Option Word
  queue : List Word
  lastStatus : Option Word
  counters : LaneCounters
  /-- place `n mod 4` holds outbound frame `n` (R27) -/
  outbound : Vector OutPlace 4
  inbound : List InboundFrame
  lateOut : Bool
  lateIn : Bool
  sent : Option LaneFrame
deriving DecidableEq, Repr

/-- The Lane Interface: the lanes, and those that have still to take the boundary in hand (none between steps). -/
structure LaneInterface where
  lanes : Vector Lane 8
  atBoundary : List (Fin 8)
deriving DecidableEq, Repr

/-! ## Surface Interface -/

/-- Announced counts (R123). -/
structure Announced where
  faders : Nat
  groups : Nat
  encoders : Nat
  ladders : Nat
deriving DecidableEq, Repr

/-- A fader (R123). -/
structure Fader where
  position : BitVec 10
  touched : Bool
  window : WindowState
deriving DecidableEq, Repr

/-- A motor (R136). -/
structure Motor where
  state : MotorState
  target : Option (BitVec 10)
deriving DecidableEq, Repr

/-- A group's mirror (R132). -/
structure GroupMirror where
  reference : Byte
  select : Byte
deriving DecidableEq, Repr

/-- A fader window's mirror (R132). -/
structure WindowMirror where
  low : BitVec 10
  high : BitVec 10
deriving DecidableEq, Repr

/-- A ladder binding's mirror (R132). -/
structure Binding where
  lane : Fin 8
  slot : Fin 64
  enable : Bool
deriving DecidableEq, Repr

/-- The port counters (R123). -/
structure PortCounters where
  taken : Word
  malformed : Half
  indexDiscards : Half
  unannounced : Half
  linkDrops : Half
  sent : Word
deriving DecidableEq, Repr

/-- A port's configuration mirrors (R132). -/
structure Mirrors where
  stampDomain : Word
  groups : Vector GroupMirror 16
  windows : Vector WindowMirror 16
  bindings : Vector Binding 16
  notify : BitVec 16
  lamps : Vector Byte 16
deriving DecidableEq, Repr

/-- A surface port (R123). -/
structure Port where
  up : Bool
  announced : Announced
  silence : Option Nat
  buttons : Vector Byte 16
  diverged : Vector Bool 16
  faders : Vector Fader 16
  motors : Vector Motor 16
  encoders : Vector Half 16
  ladders : Vector (BitVec 4) 16
  /-- item `3 i` is lamp row `i`, `3 i + 1` motor `i`, `3 i + 2` ladder `i` (R129) -/
  dirty : Vector DirtyMark 48
  /-- the item looked at first by the next draw (R129) -/
  roundRobin : Fin 48
  welcome : Bool
  /-- the bytes received of the message that is open; none is open where there are none (R124) -/
  incoming : List Byte
  /-- the bytes of the command being sent (R130, R202) -/
  inFlight : Option (List SurfaceByte)
  counters : PortCounters
  mirrors : Mirrors
deriving DecidableEq, Repr

/-! ## Meter Unit -/

/-- The contents of a closing (R148, R149): the header words and two words per slot. -/
structure Closing where
  header : List Word
  slots : List Word
deriving DecidableEq, Repr

/-- A lane window (R145), with the events held for its table write (R148). -/
structure LaneWindow where
  peaks : Vector (BitVec 23) 64
  good : Half
  closing : Word
  table : Option Closing
  events : List Event
deriving DecidableEq, Repr

/-- A slot watch (R145). -/
structure SlotWatch where
  mode : MeterMode
  threshold : BitVec 23
  run : Byte
  flag : Bool
  silence : Byte
deriving DecidableEq, Repr

/-- The Meter Unit (R145). -/
structure MeterUnit where
  windows : Vector LaneWindow 8
  watches : Vector (Vector SlotWatch 64) 8
deriving DecidableEq, Repr

/-! ## Report Unit -/

/-- One enable or one count per class (R158). -/
structure Mask where
  routine : Bool
  notice : Bool
  fault : Bool
deriving DecidableEq, Repr

/-- Unread records by class (R158). -/
structure Unread where
  routine : BitVec 10
  notice : BitVec 10
  fault : BitVec 10
deriving DecidableEq, Repr

/-- The Report Unit (R158, R163, R166). -/
structure ReportUnit where
  postMark : BitVec 10
  written : BitVec 10
  takeMark : BitVec 10
  classes : List EventClass
  unread : Unread
  lost : Half
  lostFaults : Half
  refusedTakes : Half
  mask : Mask
  attn : Bool
  startWord : StartWord
deriving DecidableEq, Repr

/-! ## The whole part -/

/-- The state of the part and the queue of commands. -/
structure State where
  mclk : Nat
  hrstn : Bool
  phase : Phase
  mem : Memory
  mc : MemController
  pp : PassPort
  rw : Vector (Option RingEntry) 32
  se : StreamEngine
  cu : CueUnit
  cb : ClockBlock
  li : LaneInterface
  si : Vector Port 2
  mu : MeterUnit
  ru : ReportUnit
  pending : List Instr
deriving DecidableEq, Repr

/-! ## The power-on values -/

/-- R21: an IDLE context with every optional part absent and every counter 0. -/
def Stream.powerOn : Stream :=
  { state := .idle, geom := none, period := 0, frame := 0, start := none, stamp := none, stop := none, swap := none,
    resumeMark := false, counters := ⟨0, 0, 0, 0, 0, 0, 0, 0⟩, next := 0, words := 0, starved := none, crossed := false,
    lastFrame := none, swapDropped := false }

/-- R46: every context IDLE, every slot map empty. -/
def StreamEngine.powerOn : StreamEngine :=
  { streams := Vector.replicate 32 Stream.powerOn, playMaps := Vector.replicate 8 (Vector.replicate 64 none),
    captureMaps := Vector.replicate 8 (Vector.replicate 64 none) }

/-- R89. -/
def Domain.powerOn : Domain :=
  { run := .stopped, ref := none, family := .f48, mult := .x1, count := 0, tickExp := 8, settle := 0, fallback := none,
    lastGood := none, candidate := none, rateChange := none, lastBoundary := 0, holdStart := 0, holdIndex := 0,
    afterSwitch := none, edgeOwed := false }

/-- R91, R95. -/
def WordInput.powerOn : WordInput :=
  { present := false, lastEdge := 0, blockStart := 0, blockEdges := 0, latest := none, stale := false, absences := 0,
    measurements := 0 }

/-- R96: the last fall is taken as power-on. -/
def WordOutput.powerOn (now : Nat) : WordOutput :=
  { state := .off, line := false, settings := ⟨false, 0, .x1⟩, pendingSettings := none, lastHalf := none,
    lastFall := now, passedOver := 0, riseAt := none, half := 0, fallAt := none }

/-- R89, R95, R96; the 10 ms of R95 are timed from `now` until PORn is released (log 31). -/
def ClockBlock.powerOn (now : Nat) : ClockBlock :=
  { domains := Vector.replicate 4 Domain.powerOn, osc44 := .off, osc48 := .off, tenMs := now,
    inputs := Vector.replicate 2 WordInput.powerOn, outputs := Vector.replicate 4 (WordOutput.powerOn now) }

/-- An empty place of outbound staging (R122). -/
def OutPlace.empty : OutPlace := { slots := Vector.replicate 64 0, carries := [] }

/-- R101, R122. -/
def Lane.powerOn : Lane :=
  { state := .idle, domain := none, trainingRun := 0, badRun := 0, countdown := none, expected := none, queue := [],
    lastStatus := none, counters := ⟨0, 0, 0, 0, 0, 0, 0, 0, 0⟩, outbound := Vector.replicate 4 OutPlace.empty,
    inbound := [], lateOut := true, lateIn := true, sent := none }

/-- Mirrors of zero words (R143). -/
def Mirrors.zero : Mirrors :=
  { stampDomain := 0, groups := Vector.replicate 16 ⟨0, 0⟩, windows := Vector.replicate 16 ⟨0, 0⟩,
    bindings := Vector.replicate 16 ⟨0, 0, false⟩, notify := 0, lamps := Vector.replicate 16 0 }

/-- R143. -/
def Port.powerOn : Port :=
  { up := false, announced := ⟨0, 0, 0, 0⟩, silence := none, buttons := Vector.replicate 16 0,
    diverged := Vector.replicate 16 false, faders := Vector.replicate 16 ⟨0, false, .inside⟩,
    motors := Vector.replicate 16 ⟨.free, none⟩, encoders := Vector.replicate 16 0, ladders := Vector.replicate 16 0,
    dirty := Vector.replicate 48 .clean, roundRobin := 0, welcome := false, incoming := [], inFlight := none,
    counters := ⟨0, 0, 0, 0, 0, 0⟩, mirrors := Mirrors.zero }

/-- R145: a mirror of zero, which is OFF, threshold 0, run 1. -/
def SlotWatch.powerOn : SlotWatch := { mode := .off, threshold := 0, run := 1, flag := false, silence := 0 }

/-- R145. -/
def MeterUnit.powerOn : MeterUnit :=
  { windows := Vector.replicate 8 ⟨Vector.replicate 64 0, 0, 0, none, []⟩,
    watches := Vector.replicate 8 (Vector.replicate 64 SlotWatch.powerOn) }

/-- R158: every mark and count 0, the mask clear; R166: the internal start-up word INIT at power-on. -/
def ReportUnit.powerOn : ReportUnit :=
  { postMark := 0, written := 0, takeMark := 0, classes := [], unread := ⟨0, 0, 0⟩, lost := 0, lostFaults := 0,
    refusedTakes := 0, mask := ⟨false, false, false⟩, attn := false, startWord := .init }

/-- R173, R176, R177. The straps are read at PORn release (log 6). -/
def MemController.powerOn : MemController :=
  { size := .mib64, refresh := .us78, releasedAt := 0, refreshTimer := none, refreshPending := 0,
    lastOfThree := .record, laneTurn := 7, laneDir := Vector.replicate 8 .inbound, scrubNext := none, records := [] }

/-- R173: every counter 0. -/
def PassPort.powerOn : PassPort :=
  { inHand := none, answer := none, reads := 0, writes := 0, refused := 0, noMemory := 0, errors := 0 }

/-- R69. -/
def CueUnit.powerOn : CueUnit :=
  { takeMark := 0, postMark := 0, taking := false, record := none, drained := false, list := [] }

/-- The power-on state of every block under PORn (R178), at MCLK time `now`. -/
def State.powerOn (now : Nat) (hrstn : Bool) (queue : List Instr) : State :=
  { mclk := now, hrstn := hrstn, phase := .held, mem := [], mc := MemController.powerOn, pp := PassPort.powerOn,
    rw := Vector.replicate 32 none, se := StreamEngine.powerOn, cu := CueUnit.powerOn, cb := ClockBlock.powerOn now,
    li := { lanes := Vector.replicate 8 Lane.powerOn, atBoundary := [] }, si := Vector.replicate 2 Port.powerOn,
    mu := MeterUnit.powerOn, ru := ReportUnit.powerOn, pending := queue }

/-- The machine right after power-on reset: the power-on state, PORn still asserted (R178, log 1). -/
def State.reset : State := State.powerOn 0 false []

end Sys2Proof.Machine
end

