-- ==== Sys2Proof/Machine/Ops.lean ====
section
/-! DEFINITION. Named operations: memory, counters, frame arithmetic, the time of MCLK, and one reader and one writer for
each indexed piece of the state. -/

namespace Sys2Proof.Machine

/-- What `exec` answers. -/
abbrev Result := Host.Outcome State Fault Refusal

/-! ## Counters and frame arithmetic -/

/-- Conventions, "Counters": a counter stops at its maximum value. -/
def satInc {w : Nat} (x : BitVec w) : BitVec w := if x = BitVec.allOnes w then x else x + 1

/-- A saturating counter raised by `n`. -/
def satAdd {w : Nat} (x : BitVec w) (n : Nat) : BitVec w :=
  if x.toNat + n < 2 ^ w then x + BitVec.ofNat w n else BitVec.allOnes w

/-- Terms, "reached": frame `f` is reached at count `c` when (c − f) mod 2^32 < 2^31. -/
def reached (f c : Word) : Bool := (c - f).toNat < 2147483648

/-- R27: frame `n` is one of the four frames of the fetch window at count `c`. -/
def inWindow (c n : Word) : Bool := (n - c).toNat < 4

/-- The place of outbound staging that holds lane frame `n` (R27). -/
def placeOf (n : Word) : Fin 4 := ⟨n.toNat % 4, Nat.mod_lt _ (by decide)⟩

/-! ## Memory -/

/-- What an address that is not listed reads as (log 5). -/
def Memory.unlisted : Byte := 0

/-- One byte of memory. -/
def Memory.readByte : Memory → Nat → Byte
  | [], _ => Memory.unlisted
  | (b, w) :: m, a => if a = b then w else if a < b then Memory.unlisted else Memory.readByte m a

/-- Writing one byte keeps the canonical form: a byte that equals what an unlisted address reads as is not listed. -/
def Memory.writeByte : Memory → Nat → Byte → Memory
  | [], a, v => if v = Memory.unlisted then [] else [(a, v)]
  | (b, w) :: m, a, v =>
    if a < b then (if v = Memory.unlisted then (b, w) :: m else (a, v) :: (b, w) :: m)
    else if a = b then (if v = Memory.unlisted then m else (a, v) :: m)
    else (b, w) :: Memory.writeByte m a v

/-- The canonical form: addresses strictly rising and no entry that equals an unlisted byte. -/
def Memory.wf : Memory → Bool
  | [] => true
  | [(_, v)] => v != Memory.unlisted
  | (a, v) :: (b, w) :: m => v != Memory.unlisted && decide (a < b) && Memory.wf ((b, w) :: m)

/-- A word, least significant byte at the lowest address (R184). -/
def Memory.readWord (m : Memory) (a : Nat) : Word :=
  Word.ofBytes (m.readByte a) (m.readByte (a + 1)) (m.readByte (a + 2)) (m.readByte (a + 3))

/-- `n` consecutive words rising from `a` (R168). -/
def Memory.readWords (m : Memory) (a : Nat) : Nat → List Word
  | 0 => []
  | n + 1 => m.readWord a :: m.readWords (a + 4) n

/-- The enabled bytes of a word are written (R168, R184). -/
def Memory.writeEnabled (m : Memory) (a : Nat) (w : WriteWord) : Memory :=
  let put (m : Memory) (i : Nat) : Memory := if w.enables.getLsbD i then m.writeByte (a + i) (w.data.byte i) else m
  put (put (put (put m 0) 1) 2) 3

/-- Consecutive words of a host write. -/
def Memory.writeEnabledWords (m : Memory) (a : Nat) : List WriteWord → Memory
  | [] => m
  | w :: ws => Memory.writeEnabledWords (m.writeEnabled a w) (a + 4) ws

/-- A whole word. -/
def Memory.writeWord (m : Memory) (a : Nat) (w : Word) : Memory := m.writeEnabled a ⟨w, 15#4⟩

/-- Consecutive whole words, as the part writes them. -/
def Memory.writeWords (m : Memory) (a : Nat) : List Word → Memory
  | [] => m
  | w :: ws => Memory.writeWords (m.writeWord a w) (a + 4) ws

/-- Zeros over the addresses from `lo` up to, not including, `hi`: an unlisted byte reads 0. -/
def Memory.clear (m : Memory) (lo hi : Nat) : Memory := m.filter (fun c => decide (c.1 < lo) || decide (hi ≤ c.1))

/-! ## The memory map (R174, R183) -/

/-- R174: the installed size in bytes. -/
def MemSize.bytes : MemSize → Nat
  | .mib64 => 67108864
  | .mib128 => 134217728
  | .mib256 => 268435456

/-- R174: MSEL 10 and 11 both give 256 MiB. -/
def MemSize.ofStrap (m : BitVec 2) : MemSize :=
  if m = 0 then .mib64 else if m = 1 then .mib128 else .mib256

/-- The first byte of the control area, the top 1 MiB (R183). -/
def MemSize.base (m : MemSize) : Nat := m.bytes - Config.controlBytes

/-- R174: the refresh interval in MCLK cycles. -/
def RefreshSel.cycles : RefreshSel → Nat
  | .us78 => 780
  | .us39 => 390

/-- The first byte of the control area. -/
def State.base (s : State) : Nat := s.mc.size.base

/-! ## Time -/

/-- `dt` MCLK cycles pass (log 2). -/
def State.elapse (s : State) (dt : Nat) : State := { s with mclk := s.mclk + dt }

/-- R178: while PORn is asserted the part holds its power-on state, so a command then has no effect. -/
def powered (s : State) (f : State → State) : Result := .next (if s.phase = .held then s else f s)

/-- R166, R167: the Report Unit discards every event passed to it during these phases. -/
def Phase.discardsEvents : Phase → Bool
  | .held | .bringUp | .scrub | .records | .hostReset | .hostScrub => true
  | .opened | .hostRecords => false

/-- R166, R167, R144, R155: record, image and table writes are held until a scrub has completed. -/
def Phase.holdsWrites : Phase → Bool
  | .held | .bringUp | .scrub | .hostReset | .hostScrub => true
  | .records | .opened | .hostRecords => false

/-! ## Readers and writers of the indexed state -/

/-- Every index below `n`, in rising order. -/
def indices (n : Nat) : List (Fin n) := List.finRange n

def State.stream (s : State) (i : Fin 32) : Stream := s.se.streams[i]
def State.setStream (s : State) (i : Fin 32) (x : Stream) : State :=
  { s with se := { s.se with streams := s.se.streams.set i x } }

def State.entry (s : State) (i : Fin 32) : Option RingEntry := s.rw[i]
def State.setEntry (s : State) (i : Fin 32) (e : Option RingEntry) : State := { s with rw := s.rw.set i e }

def State.domain (s : State) (d : Fin 4) : Domain := s.cb.domains[d]
def State.setDomain (s : State) (d : Fin 4) (x : Domain) : State :=
  { s with cb := { s.cb with domains := s.cb.domains.set d x } }

def State.input (s : State) (w : Fin 2) : WordInput := s.cb.inputs[w]
def State.setInput (s : State) (w : Fin 2) (x : WordInput) : State :=
  { s with cb := { s.cb with inputs := s.cb.inputs.set w x } }

def State.output (s : State) (o : Fin 4) : WordOutput := s.cb.outputs[o]
def State.setOutput (s : State) (o : Fin 4) (x : WordOutput) : State :=
  { s with cb := { s.cb with outputs := s.cb.outputs.set o x } }

def State.osc (s : State) : Osc → OscState
  | .int44 => s.cb.osc44
  | .int48 => s.cb.osc48
def State.setOsc (s : State) (o : Osc) (x : OscState) : State :=
  match o with
  | .int44 => { s with cb := { s.cb with osc44 := x } }
  | .int48 => { s with cb := { s.cb with osc48 := x } }

def State.lane (s : State) (l : Fin 8) : Lane := s.li.lanes[l]
def State.setLane (s : State) (l : Fin 8) (x : Lane) : State :=
  { s with li := { s.li with lanes := s.li.lanes.set l x } }

def State.port (s : State) (p : Fin 2) : Port := s.si[p]
def State.setPort (s : State) (p : Fin 2) (x : Port) : State := { s with si := s.si.set p x }

def State.window (s : State) (l : Fin 8) : LaneWindow := s.mu.windows[l]
def State.setWindow (s : State) (l : Fin 8) (x : LaneWindow) : State :=
  { s with mu := { s.mu with windows := s.mu.windows.set l x } }

def State.watch (s : State) (l : Fin 8) (i : Fin 64) : SlotWatch := s.mu.watches[l][i]
def State.setWatch (s : State) (l : Fin 8) (i : Fin 64) (x : SlotWatch) : State :=
  { s with mu := { s.mu with watches := s.mu.watches.set l (s.mu.watches[l].set i x) } }

/-- The slot map of a lane and direction (R23). -/
def State.slotMap (s : State) (dir : Direction) (l : Fin 8) : SlotMap :=
  match dir with
  | .play => s.se.playMaps[l]
  | .capture => s.se.captureMaps[l]
def State.setSlotMap (s : State) (dir : Direction) (l : Fin 8) (m : SlotMap) : State :=
  match dir with
  | .play => { s with se := { s.se with playMaps := s.se.playMaps.set l m } }
  | .capture => { s with se := { s.se with captureMaps := s.se.captureMaps.set l m } }

/-- A domain is running when it is LOCKED or in HOLDOVER (R71). -/
def Domain.running (x : Domain) : Bool := x.run != .stopped

/-- The number of a factor. -/
def Factor.value : Factor → Nat
  | .x1 => 1
  | .x2 => 2
  | .x4 => 4

/-- R71: the base rate of a family in Hz. -/
def Family.base : Family → Nat
  | .f441 => 44100
  | .f48 => 48000

/-- R71: the rate of a family and multiplier in Hz. -/
def rateOf (f : Family) (m : Factor) : Nat := f.base * m.value

/-- R103: slots per lane frame at a multiplier. -/
def slotCapacity : Factor → Nat
  | .x1 => 64
  | .x2 => 32
  | .x4 => 16

/-- R103: the capacity of a lane follows its domain's multiplier; a lane with no domain has none. -/
def State.capacity (s : State) (l : Fin 8) : Nat :=
  match (s.lane l).domain with
  | none => 0
  | some d => slotCapacity (s.domain d).mult

/-- R106: the rate announcement of a domain: byte 0 the family code, byte 1 the multiplier (R202). -/
def Domain.announcement (x : Domain) : Word :=
  Word.ofBytes (match x.family with | .f441 => 1 | .f48 => 2) (BitVec.ofNat 8 x.mult.value) 0 0

/-- The stamp of an event in domain `d`: NONE when the domain is STOPPED, with its frozen count (R156). -/
def State.stampOf (s : State) (d : Fin 4) : Option (Fin 4) × Word :=
  (if (s.domain d).running then some d else none, (s.domain d).count)

/-- R71: a stream of domain `d`: not IDLE, and it took the domain at its start or lies on a lane now assigned to it. -/
def State.isStreamOf (s : State) (d : Fin 4) (i : Fin 32) : Bool :=
  (s.stream i).state != .idle &&
    (match (s.stream i).geom with
     | none => false
     | some g => g.domain == d || (s.lane g.lane).domain == some d)

/-- R71: the domain's streams, in rising number. -/
def State.streamsOf (s : State) (d : Fin 4) : List (Fin 32) := (indices 32).filter (s.isStreamOf d)

/-- R71: the domain's lanes. -/
def State.lanesOf (s : State) (d : Fin 4) : List (Fin 8) := (indices 8).filter (fun l => (s.lane l).domain == some d)

/-- The states that keep a lane or a domain from being changed (R86, R104). -/
def StreamState.active : StreamState → Bool
  | .primed | .running | .starved | .overflowing => true
  | .idle | .halted => false

end Sys2Proof.Machine
end

