-- ==== Sys2Proof/Machine/Operands.lean ====
section
/-! DEFINITION. The operand forms: pass transactions (R168, R169), stage entries (R20, R76, R96, R186 to R188), cue records
(R50, R196), lane frames with their CRC (R106, R202) and surface messages (R124, R202). -/

namespace Sys2Proof

open Machine

/-! ## Pass transactions -/

/-- The number of words of a transaction (R168). -/
def PassTransaction.length (t : PassTransaction) : Nat :=
  match t.op with
  | .read n => n
  | .write ws => ws.length

/-- R168: the part takes the two low address bits as zero. -/
def PassTransaction.start (t : PassTransaction) : Nat := t.addr.toNat / 4 * 4

/-- The address of the last word, for a transaction of at least one word. -/
def PassTransaction.lastWord (t : PassTransaction) : Nat := t.start + 4 * (t.length - 1)

/-- R169, first test: 1 to 16 words within one 64-byte block. -/
def PassTransaction.wellShaped (t : PassTransaction) : Bool :=
  decide (1 ≤ t.length) && decide (t.length ≤ 16) && t.lastWord / 64 == t.start / 64

/-- R169, third test: a write with every byte enable of every word clear. -/
def PassTransaction.enablesNothing (t : PassTransaction) : Bool :=
  match t.op with
  | .read _ => false
  | .write ws => ws.all (fun w => w.enables == 0)

/-- The transaction of a ring write. -/
def HostWrite.transaction (w : HostWrite) : PassTransaction := ⟨w.addr, .write w.words⟩

/-- The transaction of a ring read. -/
def HostRead.transaction (r : HostRead) : PassTransaction := ⟨r.addr, .read r.length⟩

/-- The transaction of a write into the 64-byte block at `offset` of the control area. -/
def BlockWrite.transaction (w : BlockWrite) (s : State) (offset : Nat) : PassTransaction :=
  ⟨BitVec.ofNat 32 (s.base + offset + 4 * w.start.val), .write w.words⟩

/-- R185: the verb codes. -/
def Verb.ofCode (b : Byte) : Option Verb :=
  match b.toNat with
  | 1 => some .startStream | 2 => some .stopStream | 3 => some .swapRing | 4 => some .switchReference
  | 5 => some .setRate | 6 => some .stopDomain | 7 => some .assignLane | 8 => some .laneCommand
  | 9 => some .setOutput | 10 => some .motorTarget | 11 => some .motorFree | 12 => some .mark
  | _ => none

end Sys2Proof

namespace Sys2Proof.Machine

/-- Some byte enable of the word at `addr` is set, in a write that starts at `a`. -/
def touchesWord (ws : List WriteWord) (a addr : Nat) : Bool :=
  match ws with
  | [] => false
  | w :: rest => (a == addr && w.enables != 0) || touchesWord rest (a + 4) addr

/-! ## Codes the part reads (R185) -/

def Direction.ofCode (b : Byte) : Option Direction :=
  if b = 1 then some .play else if b = 2 then some .capture else none

def StreamPolicy.ofCode (dir : Direction) (b : Byte) : Option StreamPolicy :=
  match dir with
  | .play => if b = 1 then some .keepTime else if b = 2 then some .keepData else none
  | .capture => if b = 1 then some .dropNew else if b = 2 then some .reclaim else none

def LatePolicy.ofCode (b : Byte) : Option LatePolicy :=
  if b = 1 then some .land else if b = 2 then some .block else none

/-- R39: a mode value that names neither is taken as STOP_NOW. The whole word is read (log 46). -/
def StopMode.ofCode (w : Word) : StopMode := if w = 2 then .periodEnd else .now

def Source.ofCode (b : Byte) : Option Source :=
  if b = 1 then some .int44 else if b = 2 then some .int48 else if b = 3 then some .wci0
  else if b = 4 then some .wci1 else none

def Family.ofCode (b : Byte) : Option Family := if b = 1 then some .f441 else if b = 2 then some .f48 else none

/-- Multipliers and dividers are held as their value (R185). -/
def Factor.ofValue (b : Byte) : Option Factor :=
  if b = 1 then some .x1 else if b = 2 then some .x2 else if b = 4 then some .x4 else none

/-- A domain number 0 to 3 held in a byte. -/
def domainOf (b : Byte) : Option (Fin 4) := if h : b.toNat < 4 then some ⟨b.toNat, h⟩ else none

/-- A domain number 0 to 3 held in a word (R132, R185), all of whose bits count (log 46). -/
def domainOfWord (w : Word) : Option (Fin 4) := if h : w.toNat < 4 then some ⟨w.toNat, h⟩ else none

/-- A lane number 0 to 7. -/
def laneOf (b : Byte) : Option (Fin 8) := if h : b.toNat < 8 then some ⟨b.toNat, h⟩ else none

/-- A stream number 0 to 31. -/
def streamOf (b : Byte) : Option (Fin 32) := if h : b.toNat < 32 then some ⟨b.toNat, h⟩ else none

/-- An output number 0 to 3 (R52). -/
def outputOf (b : Byte) : Option (Fin 4) := domainOf b

/-- A surface port 0 or 1 (R52). -/
def portOf (w : Word) : Option (Fin 2) := if h : w.toNat < 2 then some ⟨w.toNat, h⟩ else none

/-- A fader, group, encoder, row or ladder index 0 to 15. -/
def indexOf (n : Nat) : Option (Fin 16) := if h : n < 16 then some ⟨n, h⟩ else none

/-- R185: ASSIGN_LANE's argument 0, a domain or NONE; any other value fails the range check. -/
def assignTarget (w : Word) : Option (Option (Fin 4)) :=
  if w = 4294967295 then some none else (domainOfWord w).map some

/-! ## Stage entries -/

/-- A stream stage entry as read (R186). -/
structure StreamStage where
  dir : Byte
  lane : Byte
  firstSlot : Byte
  channels : Byte
  base : Word
  frames : Half
  count : Byte
  policy : Byte
  late : Byte
  notify : Bool
deriving DecidableEq, Repr

/-- R186. -/
def State.streamStage (s : State) (st : Fin 32) : StreamStage :=
  let a := s.base + 0x2000 + 32 * st.val
  let w0 := s.mem.readWord a
  let w2 := s.mem.readWord (a + 8)
  let w3 := s.mem.readWord (a + 12)
  { dir := w0.byte 0, lane := w0.byte 1, firstSlot := w0.byte 2, channels := w0.byte 3,
    base := s.mem.readWord (a + 4), frames := w2.extractLsb' 0 16, count := w2.byte 2,
    policy := w3.byte 0, late := w3.byte 1, notify := w3.getLsbD 16 }

/-- R20: period frames 16 to 4096 and a multiple of 16; period count 2 to 16. -/
def StreamStage.shapeInRange (g : StreamStage) : Bool :=
  decide (16 ≤ g.frames.toNat) && decide (g.frames.toNat ≤ 4096) && g.frames.toNat % 16 == 0
    && decide (2 ≤ g.count.toNat) && decide (g.count.toNat ≤ 16)

/-- R3: a ring's base is a multiple of 64 and it ends at or below the control area; the sum does not wrap. -/
def ringFits (controlBase base channels frames count : Nat) : Bool :=
  base % 64 == 0 && decide (base + frames * channels * 4 * count ≤ controlBase)

/-- R20: the geometry a valid stage gives on a lane of domain `d`; `none` where the stage is invalid. -/
def StreamStage.geometry (g : StreamStage) (controlBase : Nat) (lane : Fin 8) (d : Fin 4) (capacity : Nat) :
    Option Geometry :=
  match Direction.ofCode g.dir with
  | none => none
  | some dir =>
    match StreamPolicy.ofCode dir g.policy with
    | none => none
    | some policy =>
      if dir = .play ∧ LatePolicy.ofCode g.late = none then none
      else if 1 ≤ g.channels.toNat ∧ g.channels.toNat ≤ 64 ∧ g.firstSlot.toNat + g.channels.toNat ≤ capacity
          ∧ g.shapeInRange ∧ ringFits controlBase g.base.toNat g.channels.toNat g.frames.toNat g.count.toNat then
        some { dir := dir, lane := lane, domain := d, firstSlot := g.firstSlot.toNat, channels := g.channels.toNat,
               base := g.base.toNat, frames := g.frames.toNat, count := g.count.toNat, policy := policy,
               late := (match dir with | .play => LatePolicy.ofCode g.late | .capture => none), notify := g.notify }
      else none

/-- A domain stage entry as read (R76, R187). -/
structure DomainStage where
  source : Byte
  fallback : Byte
  family : Byte
  mult : Byte
  settle : Byte
  tickExp : Byte
deriving DecidableEq, Repr

/-- R187. -/
def State.domainStage (s : State) (d : Fin 4) : DomainStage :=
  let a := s.base + 0x2400 + 16 * d.val
  let w0 := s.mem.readWord a
  let w1 := s.mem.readWord (a + 4)
  { source := w0.byte 0, fallback := w0.byte 1, family := w0.byte 2, mult := w0.byte 3,
    settle := w1.byte 0, tickExp := w1.byte 1 }

/-- R76: INT44 is not named with family 48, nor INT48 with family 44.1. -/
def Source.fits (x : Source) (f : Family) : Bool :=
  match x, f with
  | .int44, .f48 => false
  | .int48, .f441 => false
  | _, _ => true

/-- R71, R76: tick exponents 4 to 9. -/
def tickExpInRange (k : Nat) : Bool := decide (4 ≤ k) && decide (k ≤ 9)

/-- R76: the staged fallback: 0 is NONE; `none` where the code is invalid. -/
def fallbackOf (b : Byte) : Option (Option Source) := if b = 0 then some none else (Source.ofCode b).map some

/-- R76: a staged fallback fits the family. -/
def fallbackFits (fb : Option Source) (fam : Family) : Bool :=
  match fb with
  | none => true
  | some f => f.fits fam

/-- R76: what a valid stage gives a candidate of origin SWITCH, before its phase is set; `none` is BAD_STAGE. -/
def DomainStage.candidate (g : DomainStage) : Option Candidate :=
  match Source.ofCode g.source, fallbackOf g.fallback, Family.ofCode g.family, Factor.ofValue g.mult with
  | some src, some fb, some fam, some mult =>
    if src.fits fam ∧ fallbackFits fb fam ∧ g.settle.toNat ≤ 5
        ∧ tickExpInRange g.tickExp.toNat then
      some { source := src, family := fam, mult := mult, tickExp := g.tickExp.toNat, settle := g.settle.toNat,
             fallback := fb, origin := .switch, phase := .starting, windowStart := none, latest := none }
    else none
  | _, _, _, _ => none

/-- R85: the two fields SET_RATE reads; `none` is BAD_STAGE. -/
def DomainStage.rate (g : DomainStage) : Option RateChange :=
  match Factor.ofValue g.mult with
  | some m => if tickExpInRange g.tickExp.toNat then some ⟨m, g.tickExp.toNat⟩ else none
  | none => none

/-- What SET_OUTPUT's stage asks for: disable, settings with enable on, or an invalid entry (R96, R188). -/
inductive OutputStage where
  | disable
  | settings (x : OutputSettings)
  | invalid
deriving DecidableEq, Repr

/-- R96, R188. -/
def State.outputStage (s : State) (o : Fin 4) : OutputStage :=
  let w := s.mem.readWord (s.base + 0x2440 + 16 * o.val)
  if w.getLsbD 0 then
    match domainOf (w.byte 1), Factor.ofValue (w.byte 2) with
    | some d, some f => .settings ⟨true, d, f⟩
    | _, _ => .invalid
  else .disable

/-! ## Cue records -/

/-- R196: the record at ring index `i`. -/
def State.cueRecord (s : State) (i : Byte) : RawCue :=
  let a := s.base + 0x3000 + 32 * i.toNat
  let w0 := s.mem.readWord a
  { verb := w0.byte 0, now := w0.getLsbD 8, report := w0.getLsbD 9, domain := w0.byte 2, target := w0.byte 3,
    tag := (s.mem.readWord (a + 4)).extractLsb' 0 16, due := s.mem.readWord (a + 8),
    arg0 := s.mem.readWord (a + 16), arg1 := s.mem.readWord (a + 20), arg2 := s.mem.readWord (a + 24),
    arg3 := s.mem.readWord (a + 28) }

/-! ## Lane frames -/

/-- The bytes of a word in wire order (R202). -/
def wordBytes (w : Word) : List Byte := [w.byte 0, w.byte 1, w.byte 2, w.byte 3]

/-- One bit of the CRC register of R106, bits taken most significant first. -/
def crcBit (r : Half) : Half := if r.msb then (r <<< 1) ^^^ 0x1021#16 else r <<< 1

/-- One byte of the CRC of R106. -/
def crcByte (r : Half) (b : Byte) : Half :=
  crcBit (crcBit (crcBit (crcBit (crcBit (crcBit (crcBit (crcBit (r ^^^ (b.setWidth 16 <<< 8)))))))))

/-- R106: generator x^16 + x^12 + x^5 + 1, register at all ones, no final inversion. -/
def crcOf (bytes : List Byte) : Half := bytes.foldl crcByte 0xFFFF#16

end Sys2Proof.Machine

namespace Sys2Proof

open Machine

/-- R202: the bytes from the kind to the control or status word, in the order sent. -/
def LaneFrame.body (f : LaneFrame) : List Byte :=
  [f.kind, f.tag, f.slotCount] ++ f.slots.flatMap wordBytes ++ [f.mark] ++ wordBytes f.word

/-- R106: a received frame is correct when the CRC over its fields equals the one it carries. -/
def LaneFrame.crcCorrect (f : LaneFrame) : Bool := crcOf f.body == f.crc

/-- R202: the bytes on the wire: the marker, the fields, and the CRC most significant byte first. -/
def LaneFrame.wire (f : LaneFrame) : List Byte :=
  [0xC3, 0x5A] ++ f.body ++ [f.crc.extractLsb' 8 8, f.crc.extractLsb' 0 8]

/-- A frame the part sends carries its CRC; an absent control word is written as 0 (R202). -/
def LaneFrame.make (kind tag : Byte) (slots : List Word) (control : Option Word) : LaneFrame :=
  let f : LaneFrame :=
    { kind := kind, tag := tag, slotCount := BitVec.ofNat 8 slots.length, slots := slots,
      mark := if control.isSome then 1 else 0, word := control.getD 0, crc := 0 }
  { f with crc := crcOf f.body }

end Sys2Proof

namespace Sys2Proof.Machine

/-- Frame `n` carries tag n mod 256 (R106). -/
def tagOf (n : Word) : Byte := n.extractLsb' 0 8

/-! ## Surface messages -/

/-- R124: the sum of all bytes of a message, modulo 256. -/
def byteSum (bytes : List Byte) : Byte := bytes.foldl (· + ·) 0

/-- R124: a command as sent, its checksum making the sum 0. -/
def withChecksum (bytes : List Byte) : List Byte := bytes ++ [0 - byteSum bytes]

/-- A correct report with its fields (R124). -/
inductive Report where
  | announce (counts : Announced)
  | buttons (group : Nat) (states : Byte)
  | fader (index : Nat) (position : BitVec 10) (touched : Bool)
  | encoder (index : Nat) (delta : Byte)
  | idle
deriving DecidableEq, Repr

/-- R202: the length of a report kind; `none` names no report kind. -/
def reportLength (kind : Byte) : Option Nat :=
  match kind.toNat with
  | 1 => some 6
  | 2 => some 4
  | 3 => some 5
  | 4 => some 4
  | 5 => some 2
  | _ => none

/-- The fields of a report whose length and checksum are right (R124, R202); `none` where a field is out of range. -/
def reportFields (bytes : List Byte) : Option Report :=
  match bytes with
  | [k, a, b, c, d, _] =>
    if k = 1 ∧ a.toNat ≤ 16 ∧ b.toNat ≤ 16 ∧ c.toNat ≤ 16 ∧ d.toNat ≤ 16 then
      some (.announce ⟨a.toNat, b.toNat, c.toNat, d.toNat⟩)
    else none
  | [k, i, lo, hi, _] =>
    if k = 3 ∧ hi.extractLsb' 2 5 = 0 then
      some (.fader i.toNat (lo.setWidth 10 ||| ((hi.extractLsb' 0 2).setWidth 10 <<< 8)) (hi.getLsbD 7))
    else none
  | [k, i, x, _] =>
    if k = 2 then some (.buttons i.toNat x)
    else if k = 4 ∧ -64 ≤ x.toInt ∧ x.toInt ≤ 63 then some (.encoder i.toNat x)
    else none
  | [k, _] => if k = 5 then some .idle else none
  | _ => none

/-- R124, R202: a message, kind byte first, judged at its last expected byte; `none` is malformed. -/
def parseReport (bytes : List Byte) : Option Report :=
  match bytes with
  | [] => none
  | k :: _ =>
    match reportLength k with
    | none => none
    | some n =>
      if bytes.length < n then none
      else if byteSum (bytes.take n) ≠ 0 then none
      else reportFields (bytes.take n)

/-- What a received byte leaves of the open message, and the messages it ends, each judged; `none` is malformed (R124,
R202). A kind byte that names no report kind is judged at once and opens nothing (log 26). -/
def assembleByte (soFar : List Byte) (b : SurfaceByte) : List Byte × List (Option Report) :=
  if b.framing then
    let ended : List (Option Report) := if soFar.isEmpty then [] else [none]
    if (reportLength b.value).isSome then ([b.value], ended) else ([], ended ++ [none])
  else
    match soFar with
    | [] => ([], [])
    | k :: rest =>
      let bytes := k :: rest ++ [b.value]
      if bytes.length < (reportLength k).getD 0 then (bytes, []) else ([], [parseReport bytes])

/-- The bytes of a row, in the order received. -/
def assemble (soFar : List Byte) : List SurfaceByte → List Byte × List (Option Report)
  | [] => (soFar, [])
  | b :: rest =>
    let r := assembleByte soFar b
    let t := assemble r.1 rest
    (t.1, r.2 ++ t.2)

/-- R202: the framing bit is set on the kind byte of a message and clear on every other byte. -/
def framed : List Byte → List SurfaceByte
  | [] => []
  | k :: rest => ⟨true, k⟩ :: rest.map (⟨false, ·⟩)

/-- A surface command (R124). -/
inductive SurfaceCommand where
  | motor (index : Nat) (position : BitVec 10)
  | motorRelease (index : Nat)
  | lampRow (row : Nat) (states : Byte)
  | ladder (index : Nat) (level : BitVec 4)
  | welcome
deriving DecidableEq, Repr

/-- R202: the kind byte and the fields of a command. -/
def SurfaceCommand.fields : SurfaceCommand → List Byte
  | .motor i p => [0x81, BitVec.ofNat 8 i, p.extractLsb' 0 8, (p.extractLsb' 8 2).setWidth 8]
  | .motorRelease i => [0x82, BitVec.ofNat 8 i]
  | .lampRow r x => [0x83, BitVec.ofNat 8 r, x]
  | .ladder i v => [0x84, BitVec.ofNat 8 i, v.setWidth 8]
  | .welcome => [0x85]

/-- R124, R202: the bytes of a command as sent. -/
def SurfaceCommand.bytes (c : SurfaceCommand) : List SurfaceByte := framed (withChecksum c.fields)

end Sys2Proof.Machine
end

