-- ==== Sys2Proof/Machine/Flags.lean ====
section
/-! DEFINITION. The flag computations: ATTN (R163), conformity of a button group (R133), the window state of a fader
(R135), the tolerance of a measurement (R93), the ladder level of a peak (R150), the threshold mirror and the threshold
watch (R152, R153, R201). -/

namespace Sys2Proof.Machine

/-- R157: the class is a property of the kind. -/
def EventKind.cls : EventKind → EventClass
  | .periodPlayed | .periodCaptured | .cueDone | .buttonGroup | .faderTouch | .faderRelease | .faderWindow
  | .encoderMoved => .routine
  | .streamStarted | .streamStopped | .resumed | .swapDone | .referenceSwitched | .laneUp | .converterStatus
  | .surfaceUp | .meterOver | .meterSilent => .notice
  | .lateWrite | .earlyRead | .starved | .overflow | .streamHalted | .engineLate | .cueRefused | .cueCancelled
  | .referenceLost | .qualifyFailed | .laneFault | .surfaceDown | .eventsLost => .fault

/-- R163: ATTN is asserted while an enabled class has unread records. -/
def ReportUnit.attnLevel (r : ReportUnit) : Bool :=
  (r.mask.routine && r.unread.routine != 0) || (r.mask.notice && r.unread.notice != 0)
    || (r.mask.fault && r.unread.fault != 0)

/-- R158: unread plus reserved records, (post mark − take mark) mod 1024. -/
def ReportUnit.occupied (r : ReportUnit) : Nat := (r.postMark - r.takeMark).toNat

/-- R162: the unread count U, (written mark − take mark) mod 1024. -/
def ReportUnit.unreadCount (r : ReportUnit) : Nat := (r.written - r.takeMark).toNat

/-- One record more in a class's unread count (R159). -/
def Unread.add (u : Unread) (c : EventClass) : Unread :=
  match c with
  | .routine => { u with routine := u.routine + 1 }
  | .notice => { u with notice := u.notice + 1 }
  | .fault => { u with fault := u.fault + 1 }

/-- One record less (R162). -/
def Unread.sub (u : Unread) (c : EventClass) : Unread :=
  match c with
  | .routine => { u with routine := u.routine - 1 }
  | .notice => { u with notice := u.notice - 1 }
  | .fault => { u with fault := u.fault - 1 }

/-- R133: every selected button has the state its reference bit gives. -/
def groupConforms (states : Byte) (m : GroupMirror) : Bool := (states ^^^ m.reference) &&& m.select == 0

/-- R135. -/
def windowOf (m : WindowMirror) (p : BitVec 10) : WindowState :=
  if m.high < m.low then .disabled else if m.low ≤ p ∧ p ≤ m.high then .inside else .outside

/-- R93: |M − N| ≤ 500 ppm of N with N = 6,400,000,000 / rate, compared exactly. -/
def withinTolerance (f : Family) (m : Factor) (sum : Nat) : Bool :=
  let r := rateOf f m
  decide (6400000000 * 999500 ≤ sum * r * 1000000) && decide (sum * r * 1000000 ≤ 6400000000 * 1000500)

/-- R146: the magnitude of a slot word's upper three bytes, −8388608 read as 8388607. -/
def magnitude (w : Word) : BitVec 23 :=
  let v : BitVec 24 := w.extractLsb' 8 24
  if v.msb then (if v = 0x800000#24 then 0x7FFFFF#23 else (0 - v).setWidth 23) else v.setWidth 23

/-- R150: below 256 level 0, else the index of the highest set bit less 7. -/
def ladderLevel (p : BitVec 23) : BitVec 4 := if p < 256 then 0 else BitVec.ofNat 4 (p.toNat.log2 - 7)

/-- R201: the mirror a threshold word gives. An OFF or OVER word gives the run 1 (log 47). -/
def SlotWatch.ofWord (w : Word) : SlotWatch :=
  let field : Byte := w.extractLsb' 23 8
  let threshold : BitVec 23 := w.extractLsb' 0 23
  if w.msb then { mode := .silent, threshold := threshold, run := if field = 0 then 1 else field, flag := false, silence := 0 }
  else if field = 1 then { mode := .over, threshold := threshold, run := 1, flag := false, silence := 0 }
  else { mode := .off, threshold := threshold, run := 1, flag := false, silence := 0 }

/-- What a threshold watch reports (R152, R153). -/
inductive WatchReport where
  | nothing | over | silent
deriving DecidableEq, Repr

/-- R152, R153: the watch of one slot on its closed peak. -/
def SlotWatch.judge (x : SlotWatch) (peak : BitVec 23) : SlotWatch × WatchReport :=
  match x.mode with
  | .off => (x, .nothing)
  | .over =>
    if x.threshold ≤ peak then ({ x with flag := true }, if x.flag then .nothing else .over)
    else ({ x with flag := false }, .nothing)
  | .silent =>
    if peak < x.threshold then
      let n := satInc x.silence
      if x.run ≤ n ∧ x.flag = false then ({ x with silence := n, flag := true }, .silent)
      else ({ x with silence := n }, .nothing)
    else ({ x with silence := 0, flag := false }, .nothing)

/-- R124: the delta of an ENCODER report, −64 to +63, as a 16-bit signed number. -/
def deltaOf (b : Byte) : Half := b.signExtend 16

end Sys2Proof.Machine
end

