-- ==== Sys2Proof/Machine/Layout.lean ====
section
/-! DEFINITION. The records the part writes: the codes of R185 and the layouts of R189 to R195, R197, R198 and R200. -/

namespace Sys2Proof.Machine

/-! ## Codes (R185) -/

/-- One for a set flag. -/
def bit (b : Bool) : Nat := if b then 1 else 0

def StreamState.code : StreamState → Nat
  | .idle => 0 | .primed => 1 | .running => 2 | .starved => 3 | .overflowing => 4 | .halted => 5
def Direction.code : Direction → Nat
  | .play => 1 | .capture => 2
def FlowDir.code : FlowDir → Nat
  | .outbound => 1 | .inbound => 2
def StreamPolicy.code : StreamPolicy → Nat
  | .keepTime => 1 | .keepData => 2 | .dropNew => 1 | .reclaim => 2
def LatePolicy.code : LatePolicy → Nat
  | .land => 1 | .block => 2
def StopMode.code : StopMode → Nat
  | .now => 1 | .periodEnd => 2
def StopHow.code : StopHow → Nat
  | .now => 1 | .periodEnd => 2 | .whilePrimed => 3 | .whileHalted => 4
def PeriodState.code : PeriodState → Nat
  | .empty => 0 | .filled => 1 | .playing => 2 | .free => 0 | .filling => 1 | .ready => 2
def verbCode : Verb → Nat
  | .startStream => 1 | .stopStream => 2 | .swapRing => 3 | .switchReference => 4 | .setRate => 5 | .stopDomain => 6
  | .assignLane => 7 | .laneCommand => 8 | .setOutput => 9 | .motorTarget => 10 | .motorFree => 11 | .mark => 12
def Reason.code : Reason → Nat
  | .badVerb => 1 | .badTarget => 2 | .domainMismatch => 3 | .wrongState => 4 | .badStage => 5 | .laneNotUp => 6
  | .slotConflict => 7 | .ringOverlap => 8 | .busy => 9 | .controlFull => 10 | .portDown => 11
def RefusalPhase.code : RefusalPhase → Nat
  | .acceptance => 1 | .application => 2
def RunState.code : RunState → Nat
  | .stopped => 0 | .locked => 1 | .holdover => 2
def Source.code : Source → Nat
  | .int44 => 1 | .int48 => 2 | .wci0 => 3 | .wci1 => 4
/-- NONE is 0. -/
def refCode : Option Source → Nat
  | none => 0 | some x => x.code
def Family.code : Family → Nat
  | .f441 => 1 | .f48 => 2
def Origin.code : Origin → Nat
  | .switch => 1 | .fallback => 2
def CandidatePhase.code : CandidatePhase → Nat
  | .starting => 1 | .settling => 2 | .passed => 3
def ClockCause.code : ClockCause → Nat
  | .absent => 1 | .outOfTolerance => 2 | .cancelled => 3
def OscState.code : OscState → Nat
  | .off => 0 | .starting _ => 1 | .running => 2
def LaneState.code : LaneState → Nat
  | .idle => 0 | .training => 1 | .up => 2 | .fault => 3
def BadCause.code : BadCause → Nat
  | .missing => 1 | .crc => 2 | .format => 3 | .tag => 4
def OutputState.code : OutputState → Nat
  | .off => 0 | .waiting => 1 | .running => 2 | .ending => 3
def EventClass.code : EventClass → Nat
  | .routine => 1 | .notice => 2 | .fault => 3
def WindowState.code : WindowState → Nat
  | .inside => 0 | .outside => 1 | .disabled => 2
def MotorState.code : MotorState → Nat
  | .free => 0 | .driven => 1 | .held => 2
def MeterMode.code : MeterMode → Nat
  | .off => 0 | .over => 1 | .silent => 2
/-- R197. -/
def EventKind.code : EventKind → Nat
  | .periodPlayed => 1 | .periodCaptured => 2 | .lateWrite => 3 | .earlyRead => 4
  | .streamStarted => 5 | .streamStopped => 6 | .resumed => 7 | .swapDone => 8 | .starved => 9 | .overflow => 10
  | .streamHalted => 11 | .engineLate => 12
  | .cueDone => 13 | .cueRefused => 14 | .cueCancelled => 15
  | .referenceSwitched => 16 | .referenceLost => 17 | .qualifyFailed => 18
  | .laneUp => 19 | .laneFault => 20 | .converterStatus => 21
  | .surfaceUp => 22 | .surfaceDown => 23 | .buttonGroup => 24 | .faderTouch => 25 | .faderRelease => 26
  | .faderWindow => 27 | .encoderMoved => 28
  | .meterOver => 29 | .meterSilent => 30 | .eventsLost => 31

/-! ## Words from fields -/

/-- The word whose fields are given as (lowest bit, value); every other bit is 0 (R184). -/
def fields (l : List (Nat × Nat)) : Word := l.foldl (fun w p => w ||| (BitVec.ofNat 32 p.2 <<< p.1)) 0

/-- A record of `n` words whose tail is written as 0 (R184). -/
def padded (n : Nat) (l : List Word) : List Word := l ++ List.replicate (n - l.length) 0

/-- An absent optional field is written as 0 (R184). -/
def orZero (x : Option Word) : Word := x.getD 0

/-- The word of a natural number, truncated to 32 bits. -/
def nat32 (n : Nat) : Word := BitVec.ofNat 32 n

/-- One transaction for each 16 words (R175), in rising address order (log 60). -/
def transactions : Nat → Nat → List Word → List MemWrite
  | 0, _, _ => []
  | n + 1, a, ws => ⟨a, ws.take 16⟩ :: transactions n (a + 64) (ws.drop 16)

/-- R131, R175: the words, from `a` on, that memory does not hold yet, each row of them within one 64-byte block as one
transaction, in rising address order (log 60). -/
def changedWrites (m : Memory) (a : Nat) : List Word → List MemWrite
  | [] => []
  | w :: ws =>
    let rest := changedWrites m (a + 4) ws
    if m.readWord a = w then rest
    else
      match rest with
      | [] => [⟨a, [w]⟩]
      | x :: more => if x.addr = a + 4 ∧ (a + 4) % 64 ≠ 0 then ⟨a, w :: x.words⟩ :: more else ⟨a, [w]⟩ :: x :: more

/-! ## The live record (R189, R45) -/

/-- Period states, 2 bits each, period `i` at bits `2 i` and `2 i + 1` (R184). -/
def periodWord : Nat → List PeriodRec → Word
  | _, [] => 0
  | i, r :: rs => (BitVec.ofNat 32 r.state.code <<< i) ||| periodWord (i + 2) rs

/-- The record of a stream; an IDLE stream has no geometry and no domain, so those fields and the count read 0 (R45). -/
def State.liveRecord (s : State) (i : Fin 32) : List Word :=
  let x := s.stream i
  let c := x.counters
  let retiring := match s.entry i with
    | none => false
    | some e => e.retiring.isSome
  let periods := match s.entry i with
    | none => 0
    | some e => periodWord 0 e.current.periods
  let flags := [(25, bit x.start.isSome), (26, bit (x.start.any (·.mark))), (27, bit x.stamp.isSome),
    (28, bit x.stop.isSome), (29, bit x.swap.isSome), (30, bit retiring)]
  let head := match x.geom with
    | none => [fields [(0, x.state.code)], 0, 0, fields flags]
    | some g =>
      [fields [(0, x.state.code), (8, g.dir.code), (16, g.lane.val), (24, g.domain.val)],
       fields [(0, g.firstSlot), (8, g.channels), (16, g.policy.code), (24, (g.late.map (·.code)).getD 0)],
       nat32 g.base,
       fields ([(0, g.frames), (16, g.count), (24, bit g.notify)] ++ flags)]
  let swap := match x.swap with
    | none => [0, 0]
    | some w => [nat32 w.base, fields [(0, w.frames), (16, w.count)]]
  padded 32 (head ++
    [fields [(0, x.frame), (16, x.period)],
     orZero (x.start.map (·.frame)), orZero x.stamp,
     fields [(0, (x.stop.map (·.mode.code)).getD 0)], orZero (x.stop.map (·.last))] ++ swap ++
    [periods,
     fields [(0, c.lateWrites.toNat), (16, c.earlyReads.toNat)],
     fields [(0, c.skipped.toNat), (16, c.lost.toNat)],
     c.slip, c.dropped, c.substituted, c.engineLate,
     (match x.geom with | none => 0 | some g => (s.domain g.domain).count)])

/-! ## The status block (R190 to R194) -/

/-- R190: the identity record. -/
def State.identityRecord (s : State) : List Word :=
  [0x3064, 1,
   (match s.mc.size with | .mib64 => 64 | .mib128 => 128 | .mib256 => 256),
   (match s.mc.refresh with | .us78 => 78 | .us39 => 39)]

/-- R191. -/
def State.passRecord (s : State) : List Word :=
  padded 8 [s.pp.reads, s.pp.writes, s.pp.refused, fields [(0, s.pp.noMemory.toNat), (16, s.pp.errors.toNat)]]

/-- R191. -/
def State.reportRecord (s : State) : List Word :=
  let r := s.ru
  padded 16
    [fields [(0, r.takeMark.toNat), (16, r.written.toNat)],
     fields [(0, r.unread.routine.toNat), (16, r.unread.notice.toNat)],
     fields [(0, r.unread.fault.toNat), (16, r.occupied)],
     fields [(0, r.lost.toNat), (16, r.lostFaults.toNat)],
     fields [(0, r.refusedTakes.toNat), (16, bit r.mask.routine), (17, bit r.mask.notice), (18, bit r.mask.fault),
       (24, bit r.attn)]]

/-- R192. -/
def State.domainRecord (s : State) (d : Fin 4) : List Word :=
  let x := s.domain d
  let cand := match x.candidate with
    | none => [(0, 0)]
    | some c => [(0, c.source.code), (8, c.origin.code), (16, c.phase.code), (24, c.family.code)]
  padded 16
    [fields [(0, x.run.code), (8, refCode x.ref), (16, x.family.code), (24, x.mult.value)],
     fields [(0, x.tickExp), (8, x.settle), (16, refCode x.fallback), (24, bit x.lastGood.isSome),
       (25, bit x.candidate.isSome)],
     nat32 (x.lastGood.getD 0),
     fields cand,
     fields [(0, (x.candidate.map (·.mult.value)).getD 0), (8, s.cb.osc44.code), (16, s.cb.osc48.code)],
     x.count]

/-- R193. -/
def State.laneRecord (s : State) (l : Fin 8) : List Word :=
  let x := s.lane l
  let c := x.counters
  padded 16
    [fields [(0, x.state.code), (8, (x.domain.map (·.val)).getD 0), (16, s.capacity l), (24, bit x.domain.isSome),
       (25, bit x.countdown.isSome), (26, bit x.lastStatus.isSome)],
     fields [(0, x.trainingRun), (8, x.badRun), (16, x.queue.length)],
     fields [(0, x.countdown.getD 0), (16, c.stray.toNat)],
     orZero x.lastStatus, c.good, c.badCrc, c.badMissing, c.badTag, c.badFormat, c.sent,
     fields [(0, c.faults.toNat), (16, c.dropped.toNat)],
     (match x.domain with | none => 0 | some d => (s.domain d).count)]

/-- R194: output settings as one word. -/
def OutputSettings.word (x : OutputSettings) : Word :=
  fields [(0, bit x.enable), (8, x.domain.val), (16, x.divider.value)]

/-- R194. -/
def State.outputRecord (s : State) (o : Fin 4) : List Word :=
  let x := s.output o
  padded 8
    [fields [(0, x.state.code), (8, bit x.line), (16, bit x.pendingSettings.isSome), (17, bit x.lastHalf.isSome)],
     x.settings.word, orZero (x.pendingSettings.map (·.word)), nat32 (x.lastHalf.getD 0),
     fields [(0, x.passedOver.toNat)]]

/-- R194. -/
def State.inputRecord (s : State) (w : Fin 2) : List Word :=
  let x := s.input w
  padded 8
    [fields [(0, bit x.present), (8, bit x.latest.isSome), (9, bit x.stale)],
     nat32 (x.latest.getD 0), fields [(0, x.absences.toNat)], x.measurements]

/-- The offset of a record in the control area (R183, R190). -/
def RecordId.offset : RecordId → Nat
  | .identity => 0
  | .startWord => 0x10
  | .passCounters => 0x40
  | .report => 0x80
  | .domain d => 0x100 + 64 * d.val
  | .lane l => 0x200 + 64 * l.val
  | .output o => 0x400 + 32 * o.val
  | .input w => 0x480 + 32 * w.val
  | .live i => 0x800 + 128 * i.val

/-- The contents of a record as they stand. -/
def State.recordWords (s : State) : RecordId → List Word
  | .identity => s.identityRecord
  | .startWord => [1]
  | .passCounters => s.passRecord
  | .report => s.reportRecord
  | .domain d => s.domainRecord d
  | .lane l => s.laneRecord l
  | .output o => s.outputRecord o
  | .input w => s.inputRecord w
  | .live i => s.liveRecord i

/-- The transactions that write a record: two for a live record of 32 words, one for any other. -/
def State.recordWrites (s : State) (id : RecordId) : List MemWrite :=
  let n := match id with
    | .live _ => 2
    | _ => 1
  transactions n (s.base + id.offset) (s.recordWords id)

/-! ## The event record (R197) -/

/-- R197. -/
def Event.words (e : Event) : List Word :=
  [fields [(0, e.kind.code), (8, e.kind.cls.code), (12, (e.stampDomain.map (·.val)).getD 7), (16, e.source),
     (30, bit e.flagA), (31, bit e.flagB)],
   e.stampCount, e.d0, e.d1]

/-- The slot of an event record (R197). -/
def State.eventAddress (s : State) (slot : BitVec 10) : Nat := s.base + 0x5000 + 16 * slot.toNat

/-- The event post mark word (R183, R195). -/
def State.postMarkAddress (s : State) : Nat := s.base + 0x1804

/-- The cue take mark word (R183, R195). -/
def State.cueTakeAddress (s : State) : Nat := s.base + 0x1800

/-- An event without flags. -/
def Event.plain (k : EventKind) (source : Nat) (stamp : Option (Fin 4) × Word) (d0 d1 : Word) : Event :=
  { kind := k, source := source, stampDomain := stamp.1, stampCount := stamp.2, d0 := d0, d1 := d1,
    flagA := false, flagB := false }

/-! ## The surface image (R198) -/

/-- Bytes packed four to a word. -/
def packBytes : List Byte → List Word
  | a :: b :: c :: d :: rest => Word.ofBytes a b c d :: packBytes rest
  | [a, b, c] => [Word.ofBytes a b c 0]
  | [a, b] => [Word.ofBytes a b 0 0]
  | [a] => [Word.ofBytes a 0 0 0]
  | [] => []

/-- A halfword's two bytes. -/
def halfBytes (h : Half) : List Byte := [h.extractLsb' 0 8, h.extractLsb' 8 8]

/-- One bit per entry, entry `i` at bit `i` (R184). -/
def flagWord : Nat → List Bool → Word
  | _, [] => 0
  | i, b :: rest => (BitVec.ofNat 32 (bit b) <<< i) ||| flagWord (i + 1) rest

/-- The 64 words of a port's image (R198). -/
def Port.image (x : Port) : List Word :=
  let c := x.counters
  let fader (f : Fin 16) : List Word :=
    let a := x.faders[f]
    let m := x.motors[f]
    [fields [(0, a.position.toNat), (16, bit a.touched), (24, a.window.code)],
     fields [(0, m.state.code), (8, bit m.target.isSome), (16, (m.target.map (·.toNat)).getD 0)]]
  [fields [(0, bit x.up), (8, x.announced.faders), (16, x.announced.groups), (24, x.announced.encoders)],
   fields [(0, x.announced.ladders)],
   c.taken,
   fields [(0, c.malformed.toNat), (16, c.indexDiscards.toNat)],
   fields [(0, c.unannounced.toNat), (16, c.linkDrops.toNat)],
   c.sent,
   flagWord 0 x.diverged.toList,
   0] ++ packBytes x.buttons.toList ++ packBytes (x.ladders.toList.map (·.setWidth 8)) ++
  packBytes (x.encoders.toList.flatMap halfBytes) ++ List.replicate 8 0 ++ (indices 16).flatMap fader

/-- R183: the image of port `p`. -/
def State.imageAddress (s : State) (p : Fin 2) : Nat := s.base + 0x9000 + 256 * p.val

/-! ## The meter table (R200) -/

/-- R183, R200. -/
def State.meterAddress (s : State) (l : Fin 8) : Nat := s.base + 0xB000 + 1024 * l.val

/-- R183, R201: the threshold word of a slot. -/
def State.thresholdAddress (s : State) (l : Fin 8) (i : Fin 64) : Nat := s.base + 0xA000 + 4 * (64 * l.val + i.val)

/-- R183, R199: the surface configuration of port `p`. -/
def State.configAddress (s : State) (p : Fin 2) : Nat := s.base + 0x9800 + 512 * p.val

end Sys2Proof.Machine
end

