-- ==== Sys2Proof/Machine/Report.lean ====
section
/-! DEFINITION. The Report Unit and the Record requester's order (R156 to R167, R175): requests for records, events passed,
their writes, and what a completed write does. -/

namespace Sys2Proof.Machine

/-- R163: ATTN is evaluated. -/
def State.evalAttn (s : State) : State := { s with ru := { s.ru with attn := s.ru.attnLevel } }

/-- Replace the contents of the request for `id` whose write has not begun, if there is one (R165). -/
def replacePending (id : RecordId) (ws : List MemWrite) : List RecordItem → Option (List RecordItem)
  | [] => none
  | it :: rest =>
    if it.work = .status id ∧ it.begun = false then some ({ it with writes := ws } :: rest)
    else (replacePending id ws rest).map (it :: ·)

/-- R165: an owner asks for a record, its contents fixed at the request. Held requests of a reset are dropped: the
rewrite at the end of the scrub satisfies them (R167). -/
def State.request (s : State) (id : RecordId) : State :=
  if s.phase.holdsWrites then s
  else
    let ws := s.recordWrites id
    match replacePending id ws s.mc.records with
    | some l => { s with mc := { s.mc with records := l } }
    | none => { s with mc := { s.mc with records := s.mc.records ++ [⟨.status id, false, ws, []⟩] } }

/-- Requests in order. -/
def State.requestAll (s : State) (ids : List RecordId) : State := ids.foldl State.request s

/-- R159 step 1, step 2: the slot at the post mark is reserved and the record's write joins the Record order. -/
def State.reserve (s : State) (e : Event) : State :=
  { s with
    ru := { s.ru with postMark := s.ru.postMark + 1, classes := s.ru.classes ++ [e.kind.cls] },
    mc := { s.mc with records := s.mc.records ++
      [⟨.event s.ru.postMark e.kind.cls, false, [⟨s.eventAddress s.ru.postMark, e.words⟩], []⟩] } }

/-- R160: an event that finds 1023 slots occupied is lost, and the lost count is shown (R164), also where it is saturated
and so keeps its value (log 54). -/
def State.loseEvent (s : State) (e : Event) : State :=
  ({ s with ru := { s.ru with
      lost := satInc s.ru.lost,
      lostFaults := if e.kind.cls = .fault then satInc s.ru.lostFaults else s.ru.lostFaults } } : State).request .report

/-- An event is passed to the Report Unit (R159, R160; discarded during a start-up or a host reset, R166, R167). -/
def State.passEvent (s : State) (e : Event) : State :=
  if s.phase.discardsEvents then s
  else if Config.eventLimit ≤ s.ru.occupied then s.loseEvent e
  else s.reserve e

/-- Events in the order passed. -/
def State.passEvents (s : State) (es : List Event) : State := es.foldl State.passEvent s

/-- R159 step 3: the record in `slot` is complete, so the post mark word that posts it is asked for. -/
def State.requestPosting (s : State) (slot : BitVec 10) (c : EventClass) : State :=
  { s with mc := { s.mc with records := s.mc.records ++
    [⟨.posting slot c, false, [⟨s.postMarkAddress, [(slot + 1).setWidth 32]⟩], []⟩] } }

/-- R159 step 3 and step 4: the post mark word shows the oldest reserved record; the written mark advances over it, its
class has one unread more, and ATTN is evaluated (log 19). -/
def State.postRecord (s : State) (c : EventClass) : State :=
  ({ s with ru := { s.ru with written := s.ru.written + 1, unread := s.ru.unread.add c } } : State).evalAttn

/-- R161: EVENTS_LOST, raised where there is a slot for it; the report record that shows the counts returned to 0 is asked
for behind it (R164), and renews the one of the take mark write where that still waits (R165, log 55). -/
def State.raiseEventsLost (s : State) : State :=
  if s.ru.lost = 0 then s
  else
    let e := Event.plain .eventsLost 0 (none, 0) (s.ru.lost.setWidth 32) (s.ru.lostFaults.setWidth 32)
    (({ s with ru := { s.ru with lost := 0, lostFaults := 0 } } : State).passEvent e).request .report

/-- R162: a proposed take mark. Where an accepted advance frees space for EVENTS_LOST (R161), the spec does not order the
Report Unit's own two requests: the model asks for the report record first, and for the event record of EVENTS_LOST after
it (DESIGN CHOICE, log 55). -/
def State.takeMarkWritten (s : State) (t : BitVec 10) : State :=
  let a := (t - s.ru.takeMark).toNat
  if a = 0 then s.evalAttn.request .report
  else if a ≤ s.ru.unreadCount then
    let r := s.ru
    ((({ s with ru := { r with takeMark := t, classes := r.classes.drop a,
                               unread := (r.classes.take a).foldl Unread.sub r.unread } } : State).evalAttn).request
      .report).raiseEventsLost
  else ({ s with ru := { s.ru with refusedTakes := satInc s.ru.refusedTakes } } : State).request .report

/-- R163: the attention mask word as it now stands. -/
def State.maskWritten (s : State) (w : Word) : State :=
  (({ s with ru := { s.ru with mask := ⟨w.getLsbD 0, w.getLsbD 1, w.getLsbD 2⟩ } } : State).evalAttn).request .report

/-! ## Image and meter table writes (R131, R149) -/

/-- Add events to the request `w` whose write has not begun, if there is one. -/
def joinPending (w : RecordWork) (es : List Event) : List RecordItem → Option (List RecordItem)
  | [] => none
  | it :: rest =>
    if it.work = w ∧ it.begun = false then some ({ it with events := it.events ++ es } :: rest)
    else (joinPending w es rest).map (it :: ·)

/-- Events that wait for a write: those raised up to the moment the port opens at the end of a start-up are never written,
so none of them waits behind a write that completes later (R166). The Meter Unit raises none then, since every watch is OFF
until the host can write a threshold word (R145). -/
def State.heldEvents (s : State) (es : List Event) : List Event := if s.phase.discardsEvents then [] else es

/-- R131: the image of port `p` is to be written, and the events are passed when the write has completed. A change that
comes while an image request of the port still waits joins it, and its events are passed at that request's place (log 53).
Held from HRSTn until the scrub completes, and the events then discarded (R144); those of a start-up are discarded up to
the opening of the port, though the write itself is made (R166). -/
def State.requestImage (s : State) (p : Fin 2) (es : List Event) : State :=
  if s.phase.holdsWrites then s
  else
    match joinPending (.image p) (s.heldEvents es) s.mc.records with
    | some l => { s with mc := { s.mc with records := l } }
    | none => { s with mc := { s.mc with records := s.mc.records ++ [⟨.image p, false, [], s.heldEvents es⟩] } }

/-- R144: the whole image of port `p` is to be written. -/
def State.requestWholeImage (s : State) (p : Fin 2) : State :=
  if s.phase.holdsWrites then s
  else { s with mc := { s.mc with records := s.mc.records ++ [⟨.wholeImage p, false, [], []⟩] } }

/-- R149: the lane's pending table write is requested; its contents stand in the lane's window. -/
def State.requestMeter (s : State) (l : Fin 8) : State :=
  if s.phase.holdsWrites ∨ (s.window l).table = none then s
  else
    match joinPending (.meterTable l) [] s.mc.records with
    | some _ => s
    | none => { s with mc := { s.mc with records := s.mc.records ++ [⟨.meterTable l, false, [], []⟩] } }

/-- R149: nine transactions, the slot records first and the header last. -/
def Closing.writes (c : Closing) (a : Nat) : List MemWrite := transactions 8 (a + 64) c.slots ++ [⟨a, c.header⟩]

/-- An item's first transaction is granted: the contents of an image or a table write are fixed then. -/
def State.beginItem (s : State) (it : RecordItem) : RecordItem × State :=
  if it.begun then (it, s)
  else
    match it.work with
    | .image p => ({ it with begun := true, writes := changedWrites s.mem (s.imageAddress p) (s.port p).image }, s)
    | .wholeImage p => ({ it with begun := true, writes := transactions 4 (s.imageAddress p) (s.port p).image }, s)
    | .meterTable l =>
      match (s.window l).table with
      | none => ({ it with begun := true }, s)
      | some c =>
        ({ it with begun := true, writes := c.writes (s.meterAddress l), events := (s.window l).events },
         s.setWindow l { s.window l with table := none, events := [] })
    | _ => ({ it with begun := true }, s)

/-- R49 steps 1 and 2: the read of the record at the take mark is granted; the take mark advances, and its word is to be
written. -/
def State.readCue (s : State) : State :=
  let mark := s.cu.takeMark + 1
  { s with
    cu := { s.cu with takeMark := mark, record := some (s.cueRecord s.cu.takeMark) },
    mc := { s.mc with records := s.mc.records ++ [⟨.cueMark, false, [⟨s.cueTakeAddress, [mark.setWidth 32]⟩], []⟩] } }

/-- What the completion of an item's last transaction does. -/
def State.finishItem (s : State) (it : RecordItem) : State :=
  match it.work with
  | .event slot c => s.requestPosting slot c
  | .posting _ c => s.postRecord c
  | .image _ | .wholeImage _ | .meterTable _ => s.passEvents it.events
  | .cueRead => s.readCue
  | .status _ | .cueMark | .stageRead | .orphan => s

/-- A write transaction reaches memory. -/
def State.performWrite (s : State) (w : MemWrite) : State := { s with mem := s.mem.writeWords w.addr w.words }

/-- The next transaction of the Record order is granted. A request that has none, an image none of whose words has changed
or a read, is done at its grant (log 40). -/
def State.grantItem (s : State) : State :=
  match s.mc.records with
  | [] => s
  | it :: rest =>
    let b := s.beginItem it
    match b.1.writes with
    | [] => ({ b.2 with mc := { b.2.mc with records := rest } } : State).finishItem b.1
    | w :: ws =>
      let t := b.2.performWrite w
      if ws.isEmpty then ({ t with mc := { t.mc with records := rest } } : State).finishItem b.1
      else { t with mc := { t.mc with records := { b.1 with writes := ws } :: rest } }

/-- Every transaction of the item at the head of the Record order, each a grant to Record (R176). -/
def State.completeHead (s : State) : State :=
  match s.mc.records with
  | [] => s
  | it :: rest =>
    let b := s.beginItem it
    let t := b.1.writes.foldl State.performWrite b.2
    ({ t with mc := { t.mc with records := rest, lastOfThree := .record } } : State).finishItem b.1

/-- The first `n` items of the Record order. -/
def State.completeItems (s : State) : Nat → State
  | 0 => s
  | n + 1 => s.completeHead.completeItems n

/-- The items up to and including the first whose work is `p`; none where there is no such item (log 20). -/
def State.completeThrough (s : State) (p : RecordWork → Bool) : State :=
  match s.mc.records.findIdx? (fun it => p it.work) with
  | none => s
  | some i => s.completeItems (i + 1)

/-- The request is for the record of an event in `slot`, or for its posting (R159). -/
def RecordWork.isSlot (slot : BitVec 10) : RecordWork → Bool
  | .event n _ | .posting n _ => n == slot
  | _ => false

end Sys2Proof.Machine
end

