-- ==== Sys2Proof/Machine/CueMarks.lean ====
section
/-! DEFINITION. The marks of the cue ring and the beginning of a take (R47 to R49, R58). -/

namespace Sys2Proof.Machine

/-- R47: posted records not yet taken. -/
def CueUnit.backlog (x : CueUnit) : Nat := (x.postMark - x.takeMark).toNat

/-- R48, R49, R58: a take may begin: none is in progress, there is backlog, the post mark has not been brought to the take
mark since it was last written (log 48), and there is a free place. -/
def CueUnit.mayTake (x : CueUnit) : Bool :=
  !x.taking && x.backlog != 0 && !x.drained && decide (x.list.length < Config.pendingCues)

/-- R49: a take begins where it may: the read of its record joins the Record order. -/
def State.beginTake (s : State) : State :=
  if s.cu.mayTake then
    { s with
      cu := { s.cu with taking := true },
      mc := { s.mc with records := s.mc.records ++ [⟨.cueRead, false, [], []⟩] } }
  else s

/-- R49: the take in progress ends. -/
def State.endTake (s : State) : State := { s with cu := { s.cu with taking := false } }

/-- R48: the cue post mark word as it now stands. -/
def State.postMarkWritten (s : State) (w : Word) : State :=
  ({ s with cu := { s.cu with postMark := w.byte 0, drained := w.byte 0 == s.cu.takeMark } } : State).beginTake

end Sys2Proof.Machine
end

