-- ==== Sys2Proof/Machine/Surfaces.lean ====
section
/-! DEFINITION. The Surface Interface (R123 to R144): link, reports, dirty set, image, mirrors, groups, windows, motors,
encoders, lamp rows and ladders; the meanings of the surface commands. -/

namespace Sys2Proof.Machine

/-- R142: the stamp of a port's events. -/
def State.surfaceStamp (s : State) (p : Fin 2) : Option (Fin 4) × Word :=
  match domainOfWord (s.port p).mirrors.stampDomain with
  | none => (none, 0)
  | some d => s.stampOf d

/-- An event of port `p` (R142). -/
def State.surfaceEvent (s : State) (k : EventKind) (p : Fin 2) (d0 d1 : Word) : Event :=
  Event.plain k p.val (s.surfaceStamp p) d0 d1

/-! ## The dirty set (R129) -/

/-- Items of the dirty set in round-robin order. -/
def lampItem (i : Fin 16) : Fin 48 := ⟨3 * i.val, by omega⟩
def motorItem (i : Fin 16) : Fin 48 := ⟨3 * i.val + 1, by omega⟩
def ladderItem (i : Fin 16) : Fin 48 := ⟨3 * i.val + 2, by omega⟩

/-- R129: an item is marked; marks made while the port is DOWN are not kept. -/
def Port.mark (x : Port) (item : Fin 48) (m : DirtyMark) : Port :=
  if x.up then { x with dirty := x.dirty.set item m } else x

/-- Mark every item of one kind whose index is below a count. -/
def Port.markBelow (x : Port) (item : Fin 16 → Fin 48) (n : Nat) : Port :=
  (indices 16).foldl (fun x i => if i.val < n then x.mark (item i) .dirty else x) x

/-- The command an item sends with its value at the draw (R129, R140). -/
def Port.command (x : Port) (item : Fin 48) : SurfaceCommand :=
  let i : Fin 16 := ⟨item.val / 3, by omega⟩
  if item.val % 3 = 0 then .lampRow i.val x.mirrors.lamps[i]
  else if item.val % 3 = 2 then .ladder i.val x.ladders[i]
  else
    match x.dirty[item], x.motors[i].target with
    | .target, some t => .motor i.val t
    | _, _ => .motorRelease i.val

/-- The items in round-robin order from item `k` on. -/
def itemsFrom (k : Fin 48) : List (Fin 48) := (indices 48).map (fun i => i + k)

/-- R129: the draw of the next command, while the port is UP and nothing is in flight. -/
def Port.draw (x : Port) : Port :=
  if x.up = false ∨ x.inFlight.isSome then x
  else if x.welcome then { x with welcome := false, inFlight := some SurfaceCommand.welcome.bytes }
  else
    match (itemsFrom x.roundRobin).find? (fun i => x.dirty[i] != .clean) with
    | none => x
    | some item =>
      { x with dirty := x.dirty.set item .clean, roundRobin := item + 1, inFlight := some (x.command item).bytes }

/-- Replace a port's record and draw what can be drawn. -/
def State.putPort (s : State) (p : Fin 2) (x : Port) : State := s.setPort p x.draw

/-! ## Groups and windows -/

/-- R133: a group is re-evaluated; answers the port and whether the group has just diverged. -/
def Port.evalGroup (x : Port) (g : Fin 16) : Port × Bool :=
  let conforms := groupConforms x.buttons[g] x.mirrors.groups[g]
  ({ x with diverged := x.diverged.set g (!conforms) }, !conforms && !x.diverged[g])

/-- R133: BUTTON_GROUP. -/
def State.groupEvent (s : State) (p : Fin 2) (x : Port) (g : Fin 16) : Event :=
  let m := x.mirrors.groups[g]
  s.surfaceEvent .buttonGroup p (fields [(0, g.val), (8, x.buttons[g].toNat)])
    (fields [(0, m.reference.toNat), (8, m.select.toNat)])

/-- R135: the window state a fader has under its mirror. -/
def Port.setWindowState (x : Port) (f : Fin 16) : Port :=
  let a := x.faders[f]
  { x with faders := x.faders.set f { a with window := windowOf x.mirrors.windows[f] a.position } }

/-! ## Motors (R136) -/

/-- MOTOR_TARGET applied. -/
def Port.motorTo (x : Port) (f : Fin 16) (p : BitVec 10) : Port :=
  let m := x.motors[f]
  if m.state = .held ∨ (m.state = .free ∧ x.faders[f].touched) then
    { x with motors := x.motors.set f ⟨.held, some p⟩ }
  else ({ x with motors := x.motors.set f ⟨.driven, some p⟩ } : Port).mark (motorItem f) .target

/-- MOTOR_FREE applied. -/
def Port.motorFree (x : Port) (f : Fin 16) : Port :=
  if x.motors[f].state = .free then x
  else ({ x with motors := x.motors.set f ⟨.free, none⟩ } : Port).mark (motorItem f) .release

/-- Touch reported. -/
def Port.motorTouched (x : Port) (f : Fin 16) : Port :=
  match x.motors[f].state with
  | .free => { x with motors := x.motors.set f ⟨.held, none⟩ }
  | .driven => ({ x with motors := x.motors.set f ⟨.held, none⟩ } : Port).mark (motorItem f) .release
  | .held => x

/-- Release reported; answers whether a held target is sent. -/
def Port.motorReleased (x : Port) (f : Fin 16) : Port × Bool :=
  let m := x.motors[f]
  match m.state, m.target with
  | .held, some t => (({ x with motors := x.motors.set f ⟨.driven, some t⟩ } : Port).mark (motorItem f) .target, true)
  | .held, none => ({ x with motors := x.motors.set f ⟨.free, none⟩ }, false)
  | _, _ => (x, false)

/-- A motor cue applied to a port that is UP (R137); the image is written when a motor's state or target changed. -/
def State.applyMotor (s : State) (p : Fin 2) (x : Port) : State :=
  let changed := x.motors ≠ (s.port p).motors
  let t := s.putPort p x
  if changed then t.requestImage p [] else t

/-! ## The link -/

/-- R128: the port goes DOWN. -/
def State.goDown (s : State) (p : Fin 2) : State :=
  let x := s.port p
  let busy := x.motors.toList.countP (fun m => m.state != .free)
  let targets := x.motors.toList.countP (fun m => m.target.isSome)
  let e := s.surfaceEvent .surfaceDown p (nat32 busy) (nat32 targets)
  (s.setPort p { x with
    up := false, silence := none, motors := Vector.replicate 16 ⟨.free, none⟩,
    faders := x.faders.map (fun f => { f with touched := false }), dirty := Vector.replicate 48 .clean,
    welcome := false, counters := { x.counters with linkDrops := satInc x.counters.linkDrops } }).requestImage p [e]

/-- R128: the silence of a port has lasted at least `limit` cycles. -/
def State.silent (s : State) (p : Fin 2) (limit : Nat) : Bool :=
  match (s.port p).silence with
  | none => false
  | some t => (s.port p).up && decide (t + limit ≤ s.mclk)

/-- Log 13: a silence that ran out before this moment is taken first. -/
def State.expireSilence (s : State) (p : Fin 2) : State :=
  if s.silent p (Config.silenceLimit + 1) then s.goDown p else s

/-- R127: faders, lamp rows and ladders at or above the new counts. -/
def Port.dropBeyond (x : Port) (n : Announced) : Port :=
  { x with
    motors := Vector.ofFn (fun i => if i.val < n.faders then x.motors[i] else ⟨.free, none⟩)
    faders := Vector.ofFn (fun i => if i.val < n.faders then x.faders[i] else { x.faders[i] with touched := false })
    dirty := Vector.ofFn (fun k =>
      let bound := if k.val % 3 = 0 then n.groups else if k.val % 3 = 1 then n.faders else n.ladders
      if k.val / 3 < bound then x.dirty[k] else .clean) }

/-- R126 steps 2 to 4. -/
def Port.greet (x : Port) : Port :=
  let y := (({ x with welcome := true, roundRobin := 0 } : Port).markBelow lampItem x.announced.groups).markBelow
    ladderItem x.announced.ladders
  (indices 16).foldl (fun y i =>
    if i.val < x.announced.faders ∧ x.motors[i].state = .driven then y.mark (motorItem i) .target else y) y

/-- R125: a valid report raises the reports-taken counter and restarts the silence timer. -/
def Port.take (x : Port) (now : Nat) : Port :=
  { x with silence := some now, counters := { x.counters with taken := x.counters.taken + 1 } }

/-- R126, R127. -/
def State.takeAnnounce (s : State) (p : Fin 2) (n : Announced) : State :=
  let x := (s.port p).take s.mclk
  let again := x.up
  let y := if again then x.dropBeyond n else x
  let z := ({ y with up := true, announced := n } : Port).greet
  let d0 := fields [(0, n.faders), (8, n.groups), (16, n.encoders), (24, n.ladders)]
  let e := { s.surfaceEvent .surfaceUp p d0 0 with flagA := again }
  (s.putPort p z).requestImage p [e]

/-- R133: a taken BUTTONS report. -/
def State.takeButtons (s : State) (p : Fin 2) (g : Fin 16) (states : Byte) : State :=
  let x := (s.port p).take s.mclk
  if x.buttons[g] = states then s.putPort p x
  else
    let y := ({ x with buttons := x.buttons.set g states } : Port).evalGroup g
    let es := if y.2 then [s.groupEvent p y.1 g] else []
    (s.putPort p y.1).requestImage p es

/-- R134, position first: the port, and FADER_WINDOW where the window is left. -/
def State.moveFader (s : State) (p : Fin 2) (x : Port) (f : Fin 16) (pos : BitVec 10) : Port × List Event :=
  let old := x.faders[f]
  if old.position = pos then (x, [])
  else
    let y := ({ x with faders := x.faders.set f { old with position := pos } } : Port).setWindowState f
    let w := x.mirrors.windows[f]
    let e := s.surfaceEvent .faderWindow p (fields [(0, f.val), (16, pos.toNat)])
      (fields [(0, w.low.toNat), (16, w.high.toNat)])
    (y, if old.window = .inside ∧ y.faders[f].window = .outside then [e] else [])

/-- R134, then touch: the port, and FADER_TOUCH or FADER_RELEASE where the touch changed. -/
def State.touchFader (s : State) (p : Fin 2) (x : Port) (f : Fin 16) (touched : Bool) : Port × List Event :=
  let old := x.faders[f]
  if old.touched = touched then (x, [])
  else
    let y : Port := { x with faders := x.faders.set f { old with touched := touched } }
    let z := if touched then (y.motorTouched f, false) else y.motorReleased f
    let e := s.surfaceEvent (if touched then .faderTouch else .faderRelease) p
      (fields [(0, f.val), (16, old.position.toNat)]) (fields [(0, z.1.motors[f].state.code)])
    (z.1, [{ e with flagA := z.2 }])

/-- R134: a taken FADER report. -/
def State.takeFader (s : State) (p : Fin 2) (f : Fin 16) (pos : BitVec 10) (touched : Bool) : State :=
  let x := (s.port p).take s.mclk
  let a := s.moveFader p x f pos
  let b := s.touchFader p a.1 f touched
  let t := s.putPort p b.1
  if x.faders[f].position = pos ∧ x.faders[f].touched = touched then t else t.requestImage p (a.2 ++ b.2)

/-- R139: a taken ENCODER report. -/
def State.takeEncoder (s : State) (p : Fin 2) (e : Fin 16) (delta : Byte) : State :=
  let x := (s.port p).take s.mclk
  if delta = 0 then s.putPort p x
  else
    let n := x.encoders[e] + deltaOf delta
    let ev := s.surfaceEvent .encoderMoved p (fields [(0, e.val), (16, (deltaOf delta).toNat)]) (n.signExtend 32)
    (s.putPort p { x with encoders := x.encoders.set e n }).requestImage p
      (if x.mirrors.notify.getLsbD e.val then [ev] else [])

/-- R125: a report discarded for its index. -/
def State.discardIndex (s : State) (p : Fin 2) : State :=
  let x := s.port p
  s.setPort p { x with counters := { x.counters with indexDiscards := satInc x.counters.indexDiscards } }

/-- R124: a malformed report. -/
def State.discardMalformed (s : State) (p : Fin 2) : State :=
  let x := s.port p
  s.setPort p { x with counters := { x.counters with malformed := satInc x.counters.malformed } }

/-- R125: a report other than ANNOUNCE on a DOWN port. -/
def State.discardUnannounced (s : State) (p : Fin 2) : State :=
  let x := s.port p
  s.setPort p { x with counters := { x.counters with unannounced := satInc x.counters.unannounced } }

/-- R125: an indexed report on an UP port is taken when its index is below the announced count. -/
def State.takeIndexed (s : State) (p : Fin 2) (index count : Nat) (act : Fin 16 → State) : State :=
  match indexOf index with
  | some i => if index < count then act i else s.discardIndex p
  | none => s.discardIndex p

/-- R125: a report judged against the port's link state and announced counts. -/
def State.judgeReport (s : State) (p : Fin 2) : Report → State
  | .announce n => s.takeAnnounce p n
  | .buttons g x =>
    if (s.port p).up then s.takeIndexed p g (s.port p).announced.groups (fun i => s.takeButtons p i x)
    else s.discardUnannounced p
  | .fader f pos t =>
    if (s.port p).up then s.takeIndexed p f (s.port p).announced.faders (fun i => s.takeFader p i pos t)
    else s.discardUnannounced p
  | .encoder e delta =>
    if (s.port p).up then s.takeIndexed p e (s.port p).announced.encoders (fun i => s.takeEncoder p i delta)
    else s.discardUnannounced p
  | .idle => if (s.port p).up then s.putPort p ((s.port p).take s.mclk) else s.discardUnannounced p

/-- R124, R125: a message that has ended is judged. -/
def State.judgeMessage (p : Fin 2) (s : State) : Option Report → State
  | none => s.discardMalformed p
  | some r => s.judgeReport p r

/-- R124, R202: bytes arrive at port `p`, and each message they end is judged. -/
def State.receive (s : State) (p : Fin 2) (bytes : List SurfaceByte) : State :=
  let r := assemble (s.port p).incoming bytes
  r.2.foldl (State.judgeMessage p) (s.setPort p { s.port p with incoming := r.1 })

/-- The bytes of a row arrive at port `p`; a silence that ran out before them is taken first (log 13, log 26). -/
def State.surfaceMessage (s : State) (p : Fin 2) (bytes : List SurfaceByte) : State := (s.expireSilence p).receive p bytes

/-! ## Mirrors (R132) -/

/-- R133: a group's word. -/
def State.groupWritten (s : State) (p : Fin 2) (g : Fin 16) (w : Word) : State :=
  let x := s.port p
  let y := ({ x with mirrors := { x.mirrors with groups := x.mirrors.groups.set g ⟨w.byte 0, w.byte 1⟩ } } : Port).evalGroup g
  let t := s.setPort p y.1
  if y.1.diverged[g] = x.diverged[g] then t
  else t.requestImage p (if y.2 then [s.groupEvent p y.1 g] else [])

/-- R135: a fader window's word. -/
def State.windowWritten (s : State) (p : Fin 2) (f : Fin 16) (w : Word) : State :=
  let x := s.port p
  let m : WindowMirror := ⟨w.extractLsb' 0 10, w.extractLsb' 16 10⟩
  let y := ({ x with mirrors := { x.mirrors with windows := x.mirrors.windows.set f m } } : Port).setWindowState f
  let t := s.setPort p y
  if y.faders[f].window = x.faders[f].window then t else t.requestImage p []

/-- R199: a ladder binding's word. -/
def Binding.ofWord (w : Word) : Binding :=
  { lane := (w.extractLsb' 0 3).toFin, slot := (w.extractLsb' 8 6).toFin, enable := w.getLsbD 16 }

/-- R141: a ladder binding's word. -/
def State.bindingWritten (s : State) (p : Fin 2) (i : Fin 16) (w : Word) : State :=
  let x := s.port p
  let b := Binding.ofWord w
  let y : Port := { x with mirrors := { x.mirrors with bindings := x.mirrors.bindings.set i b } }
  if x.mirrors.bindings[i].enable ∧ b.enable = false then
    let z : Port := { y with ladders := y.ladders.set i 0 }
    let t := s.putPort p (if i.val < x.announced.ladders then z.mark (ladderItem i) .dirty else z)
    if x.ladders[i] = 0 then t else t.requestImage p []
  else s.setPort p y

/-- R140: a lamp row's word. -/
def State.lampWritten (s : State) (p : Fin 2) (r : Fin 16) (w : Word) : State :=
  let x := s.port p
  let y : Port := { x with mirrors := { x.mirrors with lamps := x.mirrors.lamps.set r (w.byte 0) } }
  s.putPort p (if r.val < x.announced.groups then y.mark (lampItem r) .dirty else y)

/-- R132: the word at byte `offset` of port `p`'s configuration as it now stands. -/
def State.configWritten (s : State) (p : Fin 2) (offset : Nat) (w : Word) : State :=
  let x := s.port p
  if offset = 0 then s.setPort p { x with mirrors := { x.mirrors with stampDomain := w } }
  else if offset = 4 then s.setPort p { x with mirrors := { x.mirrors with notify := w.extractLsb' 0 16 } }
  else
    match indexOf (offset % 64 / 4) with
    | none => s
    | some i =>
      match offset / 64 with
      | 1 => s.groupWritten p i w
      | 2 => s.windowWritten p i w
      | 3 => s.bindingWritten p i w
      | 4 => s.lampWritten p i w
      | _ => s

/-! ## Ladders at a tick (R141, R150) -/

/-- The levels of a lane's closing are handed to the ladders of port `p` bound to the lane. -/
def State.handLevelsTo (s : State) (l : Fin 8) (level : Fin 64 → BitVec 4) (p : Fin 2) : State :=
  let x := s.port p
  if x.up = false then s
  else
    let y := (indices 16).foldl (fun (y : Port) (i : Fin 16) =>
      let b := y.mirrors.bindings[i]
      if b.enable ∧ b.lane = l ∧ i.val < y.announced.ladders then
        ({ y with ladders := y.ladders.set i (level b.slot) } : Port).mark (ladderItem i) .dirty
      else y) x
    let t := s.putPort p y
    if y.ladders = x.ladders then t else t.requestImage p []

/-- R150: the levels of a lane's closing. -/
def State.handLevels (s : State) (l : Fin 8) (level : Fin 64 → BitVec 4) : State :=
  (indices 2).foldl (fun s p => s.handLevelsTo l level p) s

/-! ## Host reset (R144) -/

/-- R144 steps 1 and 2: the port's record after a host reset. -/
def Port.hostReset (x : Port) : Port :=
  let freed := (indices 16).foldl (fun (y : Port) i => y.motorFree i) x
  let y : Port := { freed with mirrors := Mirrors.zero, diverged := Vector.replicate 16 false,
                               ladders := Vector.replicate 16 0 }
  (indices 16).foldl Port.setWindowState y

/-- R144: both ports, and what can then be drawn. -/
def State.resetSurfaces (s : State) : State :=
  (indices 2).foldl (fun s p => s.putPort p (s.port p).hostReset) s

/-- R144, R181 step 2: each port's whole image is requested, and on an UP port the lamp rows and ladders are dirty;
port 0 before port 1 (log 59). -/
def State.restoreSurfaces (s : State) : State :=
  (indices 2).foldl (fun s p =>
    let x := s.port p
    (s.putPort p ((x.markBelow lampItem x.announced.groups).markBelow ladderItem x.announced.ladders)).requestWholeImage p) s

/-! ## The commands -/

/-- ANNOUNCE (R126, R127). -/
def execAnnounce (p : Fin 2) (faders groups encoders ladders checksum : Byte) (dt : Nat) (s : State) : Result :=
  powered (s.elapse dt) (fun s => s.surfaceMessage p (framed [1, faders, groups, encoders, ladders, checksum]))

/-- BUTTONS (R133). -/
def execButtons (p : Fin 2) (group states checksum : Byte) (dt : Nat) (s : State) : Result :=
  powered (s.elapse dt) (fun s => s.surfaceMessage p (framed [2, group, states, checksum]))

/-- FADER_REPORT (R134). -/
def execFaderReport (p : Fin 2) (index low high checksum : Byte) (dt : Nat) (s : State) : Result :=
  powered (s.elapse dt) (fun s => s.surfaceMessage p (framed [3, index, low, high, checksum]))

/-- ENCODER_REPORT (R139). -/
def execEncoderReport (p : Fin 2) (index delta checksum : Byte) (dt : Nat) (s : State) : Result :=
  powered (s.elapse dt) (fun s => s.surfaceMessage p (framed [4, index, delta, checksum]))

/-- IDLE_REPORT (R125). -/
def execIdleReport (p : Fin 2) (checksum : Byte) (dt : Nat) (s : State) : Result :=
  powered (s.elapse dt) (fun s => s.surfaceMessage p (framed [5, checksum]))

/-- MALFORMED_SURFACE_MESSAGE (R124). -/
def execMalformedSurfaceMessage (p : Fin 2) (bytes : List SurfaceByte) (s : State) : Result :=
  powered s (fun s => s.surfaceMessage p bytes)

/-- SURFACE_SILENCE_TIMEOUT (R128). -/
def execSurfaceSilenceTimeout (p : Fin 2) (dt : Nat) (s : State) : Result :=
  powered (s.elapse dt) (fun s => if s.silent p Config.silenceLimit then s.goDown p else s)

/-- SURFACE_COMMAND_SENT (R130). -/
def execSurfaceCommandSent (p : Fin 2) (s : State) : Result :=
  powered s (fun s =>
    let x := s.port p
    if x.inFlight.isSome then
      s.putPort p { x with inFlight := none, counters := { x.counters with sent := x.counters.sent + 1 } }
    else s)

/-- SURFACE_COUNTER_PERIODIC (R131). -/
def execSurfaceCounterPeriodic (p : Fin 2) (dt : Nat) (s : State) : Result :=
  powered (s.elapse dt) (fun s => s.requestImage p [])

end Sys2Proof.Machine
end

