-- ==== Sys2Proof/Machine/Meters.lean ====
section
/-! DEFINITION. The Meter Unit (R145 to R155): peaks, the closing of a window, the threshold watch. -/

namespace Sys2Proof.Machine

/-- R146: the peaks after a frame's slot words, slot `i` on. -/
def takePeaks (peaks : Vector (BitVec 23) 64) (i : Nat) : List Word → Vector (BitVec 23) 64
  | [] => peaks
  | w :: ws =>
    let next := if h : i < 64 then (if peaks[i] < magnitude w then peaks.set i (magnitude w) else peaks) else peaks
    takePeaks next (i + 1) ws

/-- R146: a good inbound DATA frame is taken into the lane's window. -/
def State.meterFrame (s : State) (l : Fin 8) (slots : List Word) : State :=
  let w := s.window l
  s.setWindow l { w with peaks := takePeaks w.peaks 0 slots, good := satInc w.good }

/-- R147: the window is cleared when the lane enters TRAINING or IDLE. -/
def State.clearWindow (s : State) (l : Fin 8) : State :=
  s.setWindow l { s.window l with peaks := Vector.replicate 64 0, good := 0 }

/-- The peak of a slot in the open window. -/
def State.peak (s : State) (l : Fin 8) (i : Fin 64) : BitVec 23 := (s.window l).peaks[i]

/-- R154: the event of a watch that reports. -/
def meterEvent (l : Fin 8) (d : Fin 4) (count closing : Word) (i : Fin 64) (peak : BitVec 23) (x : SlotWatch) :
    WatchReport → List Event
  | .nothing => []
  | .over =>
    [Event.plain .meterOver (64 * l.val + i.val) (some d, count)
      (fields [(0, l.val), (3, i.val), (9, closing.toNat)])
      (fields [(0, peak.toNat), (23, x.threshold.toNat / 16384)])]
  | .silent =>
    [Event.plain .meterSilent (64 * l.val + i.val) (some d, count)
      (fields [(0, l.val), (3, i.val), (9, closing.toNat)])
      (fields [(0, x.threshold.toNat), (24, x.silence.toNat)])]

/-- R148 step 5: the watch of each slot below the capacity, in slot order, with the events it raises. -/
def State.runWatches (s : State) (l : Fin 8) (d : Fin 4) (count closing : Word) (capacity : Nat) : State × List Event :=
  (indices 64).foldl (fun r i =>
    if i.val < capacity then
      let j := (r.1.watch l i).judge (s.peak l i)
      (r.1.setWatch l i j.1, r.2 ++ meterEvent l d count closing i (s.peak l i) j.1 j.2)
    else r) (s, [])

/-- R200: the two words of a slot record. -/
def State.slotRecord (s : State) (l : Fin 8) (i : Fin 64) : List Word :=
  let x := s.watch l i
  [fields [(0, (s.peak l i).toNat), (24, (ladderLevel (s.peak l i)).toNat)],
   fields [(0, x.mode.code), (8, bit x.flag), (16, x.silence.toNat)]]

/-- R148: the window of lane `l` closes at a tick of domain `d`. -/
def State.closeWindow (s : State) (d : Fin 4) (l : Fin 8) : State :=
  let w := s.window l
  let closing := w.closing + 1
  let count := (s.domain d).count
  let capacity := s.capacity l
  let r := if w.good = 0 then (s, []) else s.runWatches l d count closing capacity
  let header := [closing, fields [(0, d.val), (8, capacity), (16, (s.lane l).state.code)], count,
    fields [(0, w.good.toNat)]]
  let contents : Closing := { header := header, slots := (indices 64).flatMap (fun i => r.1.slotRecord l i) }
  let t := r.1.setWindow l { r.1.window l with closing := closing, table := some contents, events := w.events ++ r.2 }
  ((t.requestMeter l).handLevels l (fun i => ladderLevel (s.peak l i))).clearWindow l

/-- R148: each lane assigned to the domain, in rising number (log 44). -/
def State.closeWindows (s : State) (d : Fin 4) : State := (s.lanesOf d).foldl (fun s l => s.closeWindow d l) s

/-- R151: the threshold word of a slot as it now stands. -/
def State.thresholdWritten (s : State) (l : Fin 8) (i : Fin 64) (w : Word) : State := s.setWatch l i (SlotWatch.ofWord w)

/-- R155: the mirrors, flags and silence counts at host reset; events held with a table write are discarded (log 27). -/
def State.resetMeters (s : State) : State :=
  { s with mu := { s.mu with
      watches := Vector.replicate 8 (Vector.replicate 64 SlotWatch.powerOn),
      windows := s.mu.windows.map (fun w => { w with events := [] }) } }

/-- R155, R181 step 2: each lane's pending table write, if any, is requested, in rising lane number (log 59). -/
def State.restoreMeters (s : State) : State := (indices 8).foldl State.requestMeter s

end Sys2Proof.Machine
end

