-- ==== Sys2Proof/Machine/RingWatch.lean ====
section
/-! DEFINITION. Ring Watch (R1 to R19): ring geometry, the ring directory, and the host's and the engine's claims. -/

namespace Sys2Proof.Machine

/-! ## Geometry (R1) -/

/-- Period size in bytes. -/
def Ring.periodBytes (r : Ring) : Nat := r.frames * r.channels * 4

/-- Ring size in bytes. -/
def Ring.bytes (r : Ring) : Nat := r.periodBytes * r.periods.length

/-- The address is in the ring. -/
def Ring.contains (r : Ring) (a : Nat) : Bool := decide (r.base ≤ a) && decide (a < r.base + r.bytes)

/-- The period of an address in the ring (R9). -/
def Ring.periodOf (r : Ring) (a : Nat) : Nat := (a - r.base) / r.periodBytes

/-- The last word of period `p`. -/
def Ring.lastWord (r : Ring) (p : Nat) : Nat := r.base + (p + 1) * r.periodBytes - 4

/-- Two byte ranges share a byte (R4). -/
def rangesOverlap (a s b t : Nat) : Bool := decide (a < b + t) && decide (b < a + s)

/-- A ring whose periods are all EMPTY or FREE, every report flag clear (R4, R5). -/
def Ring.fresh (dir : Direction) (base channels frames count : Nat) : Ring :=
  { base := base, channels := channels, frames := frames,
    periods := List.replicate count ⟨match dir with | .play => .empty | .capture => .free, false⟩ }

/-! ## Parts of an entry -/

/-- The three rings an entry may hold (R2). -/
inductive RingPart where
  | current | pending | retiring
deriving DecidableEq, Repr

/-- The ring at a part. -/
def RingEntry.ring (e : RingEntry) : RingPart → Option Ring
  | .current => some e.current
  | .pending => e.pendingRing
  | .retiring => e.retiring

/-- Change the ring at a part. -/
def RingEntry.mapRing (e : RingEntry) (p : RingPart) (f : Ring → Ring) : RingEntry :=
  match p with
  | .current => { e with current := f e.current }
  | .pending => { e with pendingRing := e.pendingRing.map f }
  | .retiring => { e with retiring := e.retiring.map f }

/-- The rings an entry holds. -/
def RingEntry.rings (e : RingEntry) : List Ring := e.current :: (e.pendingRing.toList ++ e.retiring.toList)

/-- The record of period `p`. -/
def Ring.period (r : Ring) (p : Nat) : Option PeriodRec := r.periods[p]?

/-- Replace the record of period `p`. -/
def Ring.setPeriod (r : Ring) (p : Nat) (x : PeriodRec) : Ring := { r with periods := r.periods.set p x }

/-- R7: PLAYING, READY and FILLING periods are unfinished. -/
def PeriodState.unfinished : PeriodState → Bool
  | .playing | .ready | .filling => true
  | .empty | .filled | .free => false

/-- R7: a retiring ring with nothing unfinished is released. -/
def RingEntry.release (e : RingEntry) : RingEntry :=
  match e.retiring with
  | none => e
  | some r => if r.periods.any (·.state.unfinished) then e else { e with retiring := none }

/-- The period's record becomes `x`, and the retiring ring is tested (R7). -/
def State.setPeriod (s : State) (i : Fin 32) (part : RingPart) (p : Nat) (x : PeriodRec) : State :=
  match s.entry i with
  | none => s
  | some e => s.setEntry i (some ((e.mapRing part (·.setPeriod p x)).release))

/-! ## Finding a ring (R9) -/

/-- The part of an entry that contains the address. -/
def RingEntry.partOf (e : RingEntry) (a : Nat) : Option RingPart :=
  if e.current.contains a then some .current
  else if e.pendingRing.any (·.contains a) then some .pending
  else if e.retiring.any (·.contains a) then some .retiring
  else none

/-- A ring found by an address: the stream, the part, the ring and its direction. -/
structure Found where
  stream : Fin 32
  part : RingPart
  ring : Ring
  entry : RingEntry
deriving DecidableEq, Repr

/-- R9: the ring that contains an address; by R4 there is at most one. -/
def State.findRing (s : State) (a : Nat) : Option Found :=
  (indices 32).findSome? (fun i =>
    match s.entry i with
    | none => none
    | some e =>
      match e.partOf a with
      | none => none
      | some part => (e.ring part).map (fun r => ⟨i, part, r, e⟩))

/-- The stamp of a stream's events: the count of the domain it took at its start (R18, R44). -/
def State.streamStamp (s : State) (i : Fin 32) : Option (Fin 4) × Word :=
  match (s.stream i).geom with
  | none => (none, 0)
  | some g => s.stampOf g.domain

/-- R18: a period event. -/
def State.periodEvent (s : State) (k : EventKind) (i : Fin 32) (p : Nat) (d1 : Word) : State :=
  s.passEvent (Event.plain k i.val (s.streamStamp i) (fields [(0, p)]) d1)

/-! ## Host claims -/

/-- R11: the stream is STARVED, or PRIMED and starved. -/
def Stream.awaitsFill (x : Stream) : Bool := x.state == .starved || (x.state == .primed && x.starved.isSome)

/-- R11, R32: a fill notice that names a starved stream's resumption period, which is the period under its position. -/
def State.fillNotice (s : State) (i : Fin 32) (p : Nat) : State :=
  let x := s.stream i
  if x.awaitsFill ∧ x.period = p then s.setStream i { x with resumeMark := true } else s

/-- What a host write claim asks of the write. -/
inductive WriteVerdict where
  | lands | dropped
deriving DecidableEq, Repr

/-- R12: a late write. -/
def State.lateWrite (s : State) (f : Found) (p : Nat) (rec : PeriodRec) (addr : Nat) : State :=
  let x := s.stream f.stream
  let s := s.setStream f.stream { x with counters := { x.counters with lateWrites := satInc x.counters.lateWrites } }
  if rec.reported then s
  else (s.setPeriod f.stream f.part p { rec with reported := true }).periodEvent .lateWrite f.stream p (nat32 addr)

/-- R11, R12: a host write claim at first-word address `addr` on a ring found there. -/
def State.hostWriteClaim (s : State) (f : Found) (addr : Nat) (touchesLast : Bool) : State × WriteVerdict :=
  let p := f.ring.periodOf addr
  match f.ring.period p with
  | none => (s, .lands)
  | some rec =>
    match rec.state with
    | .empty =>
      if touchesLast then
        let t := s.setPeriod f.stream f.part p { rec with state := .filled }
        (if f.part = .current then t.fillNotice f.stream p else t, .lands)
      else (s, .lands)
    | .playing => (s.lateWrite f p rec addr, if f.entry.late = .block then .dropped else .lands)
    | _ => (s, .lands)

/-- R16: a host read claim. -/
def State.hostReadClaim (s : State) (f : Found) (addr : Nat) : State :=
  let p := f.ring.periodOf addr
  match f.ring.period p with
  | none => s
  | some rec =>
    match rec.state with
    | .ready => s.setPeriod f.stream f.part p { rec with state := .free }
    | .filling =>
      let x := s.stream f.stream
      let s := s.setStream f.stream { x with counters := { x.counters with earlyReads := satInc x.counters.earlyReads } }
      if rec.reported then s
      else (s.setPeriod f.stream f.part p { rec with reported := true }).periodEvent .earlyRead f.stream p (nat32 addr)
    | _ => s

/-! ## Engine claims -/

/-- R13: the begin claim on period `p` of the current ring; answers whether it is granted. -/
def State.beginClaim (s : State) (i : Fin 32) (p : Nat) : State × Bool :=
  match s.entry i with
  | none => (s, false)
  | some e =>
    match e.current.period p with
    | none => (s, false)
    | some rec =>
      match rec.state with
      | .filled => (s.setPeriod i .current p ⟨.playing, false⟩, true)
      | .playing => (s, true)
      | _ => (s, false)

/-- R13: the played claim on period `p` of the ring at `base`, current or retiring. -/
def State.playedClaim (s : State) (i : Fin 32) (base p : Nat) : State :=
  match s.entry i with
  | none => s
  | some e =>
    let part : RingPart := if e.current.base = base then .current else .retiring
    match e.ring part with
    | none => s
    | some r =>
      if r.base = base then
        match r.period p with
        | none => s
        | some rec =>
          if rec.state = .playing then
            let t := s.setPeriod i part p { rec with state := .empty }
            if e.notify then t.periodEvent .periodPlayed i p (nat32 base) else t
          else s
      else s

/-- The answers to a first-store claim (R15). -/
inductive StoreAnswer where
  | granted | reclaimed | refused
deriving DecidableEq, Repr

/-- R15: the first-store claim on period `p` of the current ring, under the stream's overrun policy. -/
def State.firstStoreClaim (s : State) (i : Fin 32) (p : Nat) (policy : StreamPolicy) : State × StoreAnswer :=
  match s.entry i with
  | none => (s, .refused)
  | some e =>
    match e.current.period p with
    | none => (s, .refused)
    | some rec =>
      match rec.state with
      | .free => (s.setPeriod i .current p ⟨.filling, false⟩, .granted)
      | .filling => (s, .granted)
      | .ready =>
        if policy = .reclaim then (s.setPeriod i .current p ⟨.filling, false⟩, .reclaimed) else (s, .refused)
      | _ => (s, .refused)

/-- R15: the last-store claim on period `p` of the current ring. -/
def State.lastStoreClaim (s : State) (i : Fin 32) (p : Nat) : State :=
  match s.entry i with
  | none => s
  | some e =>
    match e.current.period p with
    | none => s
    | some rec =>
      if rec.state = .filling then
        let t := s.setPeriod i .current p { rec with state := .ready }
        if e.notify then t.periodEvent .periodCaptured i p (nat32 e.current.base) else t
      else s

/-! ## The directory -/

/-- R4: some ring in the directory shares a byte with the range. -/
def State.overlapsRing (s : State) (base size : Nat) : Bool :=
  (indices 32).any (fun i =>
    match s.entry i with
    | none => false
    | some e => e.rings.any (fun r => rangesOverlap base size r.base r.bytes))

/-- R4: the ring of a START enters the directory; `none` is RING_OVERLAP. -/
def State.enterRing (s : State) (i : Fin 32) (g : Geometry) : Option State :=
  let r := Ring.fresh g.dir g.base g.channels g.frames g.count
  if s.overlapsRing r.base r.bytes then none
  else some (s.setEntry i (some
    { dir := g.dir, notify := g.notify, late := g.late.getD .land, current := r, pendingRing := none, retiring := none }))

/-- R5: place a stream's pending ring, or refuse. Where several of the three conditions fail, the reason is that of the
first in the order R5 lists them: BUSY, BAD_STAGE, RING_OVERLAP (log 43, the model's choice). -/
def State.placePending (s : State) (i : Fin 32) (base frames count : Nat) : Except Reason State :=
  match s.entry i with
  | none => .error .wrongState
  | some e =>
    if e.pendingRing.isSome ∨ e.retiring.isSome then .error .busy
    else
      let r := Ring.fresh e.dir base e.current.channels frames count
      if ringFits s.base base e.current.channels frames count = false then .error .badStage
      else if s.overlapsRing r.base r.bytes then .error .ringOverlap
      else .ok (s.setEntry i (some { e with pendingRing := some r }))

/-- R6: the wrap of a stream with a pending ring moves the rings; R7 is applied to the retiring ring. -/
def State.wrapRing (s : State) (i : Fin 32) : State :=
  match s.entry i with
  | none => s
  | some e =>
    match e.pendingRing with
    | none => s
    | some r => s.setEntry i (some (({ e with current := r, pendingRing := none, retiring := some e.current } : RingEntry).release))

/-- R8: the stream's entry is removed. -/
def State.removeEntry (s : State) (i : Fin 32) : State := s.setEntry i none

end Sys2Proof.Machine
end

