-- ==== Sys2Proof/Machine/PassPort.lean ====
section
/-! DEFINITION. The Pass Port (R168 to R173): classification, regions, ring judgement, watchers and answers. -/

namespace Sys2Proof.Machine

/-- R170, R183: the offset lies in a part-owned region: status block and live table, part marks, event ring and surface
images, meter table. -/
def partOwned (o : Nat) : Bool :=
  decide (o < 0x1840) || (decide (0x5000 ≤ o) && decide (o < 0x9200)) || (decide (0xB000 ≤ o) && decide (o < 0xD000))

/-- R170: the address lies in a part-owned region. -/
def State.partOwnedAt (s : State) (a : Nat) : Bool := decide (s.base ≤ a) && partOwned (a - s.base)

/-- R170, R172: the watcher of a touched word of the control area takes it as it now stands. -/
def State.watchWord (s : State) (o : Nat) (w : Word) : State :=
  if o = 0x1840 then s.postMarkWritten w
  else if o = 0x1880 then s.takeMarkWritten (w.extractLsb' 0 10)
  else if o = 0x1884 then s.maskWritten w
  else if 0x9800 ≤ o ∧ o < 0x9A00 then s.configWritten 0 (o - 0x9800) w
  else if 0x9A00 ≤ o ∧ o < 0x9C00 then s.configWritten 1 (o - 0x9A00) w
  else if 0xA000 ≤ o ∧ o < 0xA800 then
    let k := (o - 0xA000) / 4
    if h : k / 64 < 8 then s.thresholdWritten ⟨k / 64, h⟩ ⟨k % 64, Nat.mod_lt _ (by decide)⟩ w else s
  else s

/-- R172: the touched words of a write from address `a` on, in rising order. -/
def State.watchWords (s : State) (a : Nat) : List WriteWord → State
  | [] => s
  | w :: ws =>
    let t := if w.enables ≠ 0 ∧ s.base ≤ a then s.watchWord (a - s.base) (s.mem.readWord a) else s
    t.watchWords (a + 4) ws

/-- R169, R173: the counter a response raises. -/
def PassPort.count (x : PassPort) (r : Response) (isRead : Bool) : PassPort :=
  match r with
  | .okay => if isRead then { x with reads := x.reads + 1 } else { x with writes := x.writes + 1 }
  | .refused => { x with refused := satInc x.refused }
  | .noMemory => { x with noMemory := satInc x.noMemory }
  | .error => { x with errors := satInc x.errors }

/-- The transaction is a read. -/
def isRead (t : PassTransaction) : Bool :=
  match t.op with
  | .read _ => true
  | .write _ => false

/-- R171 stage 5, R173: the transaction is answered and counted. -/
def State.answer (s : State) (t : PassTransaction) (r : Response) (data : List Word) : State :=
  { s with pp := { s.pp.count r (isRead t) with answer := some ⟨r, data⟩ } }

/-- R169: a response given without a grant, with a read's data. -/
def State.ungranted (s : State) (t : PassTransaction) : Option (Response × List Word) :=
  if t.wellShaped = false then some (.error, [])
  else if s.mc.size.bytes ≤ t.start then some (.noMemory, if isRead t then List.replicate t.length 0 else [])
  else if t.enablesNothing then some (.okay, [])
  else if isRead t = false ∧ s.partOwnedAt t.start then some (.refused, [])
  else none

/-- R9, R16, R171: a read is performed: its data are taken, then its claim is. -/
def State.performRead (s : State) (t : PassTransaction) (n : Nat) : State :=
  let data := s.mem.readWords t.start n
  let u := match s.findRing t.start with
    | none => s
    | some f =>
      let last := f.ring.lastWord (f.ring.periodOf t.start)
      if f.entry.dir = Direction.capture ∧ t.start ≤ last ∧ last ≤ t.lastWord then s.hostReadClaim f t.start else s
  u.answer t .okay data

/-- R9 to R12, R171, R172: a write is performed: judged where it lies in a playback ring, then memory and its watchers. -/
def State.performPassWrite (s : State) (t : PassTransaction) (ws : List WriteWord) : State :=
  let judged : State × WriteVerdict := match s.findRing t.start with
    | none => (s, .lands)
    | some f =>
      if f.entry.dir = Direction.play then
        s.hostWriteClaim f t.start (touchesWord ws t.start (f.ring.lastWord (f.ring.periodOf t.start)))
      else (s, .lands)
  match judged.2 with
  | .dropped => judged.1.answer t .refused []
  | .lands =>
    let u : State := { judged.1 with mem := judged.1.mem.writeEnabledWords t.start ws }
    (u.watchWords t.start ws).answer t .okay []

/-- R171: the granted transaction is performed and answered. -/
def State.performPass (s : State) (t : PassTransaction) : State :=
  match t.op with
  | .read n => s.performRead t n
  | .write ws => s.performPassWrite t ws

/-- The grant to Pass (R176). -/
def State.grantPass (s : State) (t : PassTransaction) : State :=
  ({ s with mc := { s.mc with lastOfThree := .pass }, pp := { s.pp with inHand := none } } : State).performPass t

end Sys2Proof.Machine
end

