-- ==== Sys2Proof/Machine/Streams.lean ====
section
/-! DEFINITION. The Stream Engine (R20 to R46): positions, fetches, stores, starvation, overrun, swaps, stops and halts; the
meanings of STREAM_FETCH and STREAM_STORE. -/

namespace Sys2Proof.Machine

/-! ## Events and records -/

/-- A stream event (R44). -/
def State.streamEvent (s : State) (k : EventKind) (i : Fin 32) (d0 d1 : Word) : Event :=
  Event.plain k i.val (s.streamStamp i) d0 d1

/-- R44, R45: the live record is requested and the event then passed. -/
def State.reportStream (s : State) (i : Fin 32) (e : Event) : State := (s.request (.live i)).passEvent e

/-- Change a stream's context. -/
def State.mapStream (s : State) (i : Fin 32) (f : Stream → Stream) : State := s.setStream i (f (s.stream i))

/-- Change a lane's record. -/
def State.mapLane (s : State) (l : Fin 8) (f : Lane → Lane) : State := s.setLane l (f (s.lane l))

/-- R29, R31: ENGINE_LATE of a lane and direction, once between ticks. -/
def State.engineLate (s : State) (l : Fin 8) (dir : FlowDir) (n : Word) : State :=
  let x := s.lane l
  let stamp := match x.domain with
    | none => (none, 0)
    | some d => s.stampOf d
  let e := Event.plain .engineLate l.val stamp (fields [(0, dir.code)]) n
  match dir with
  | .outbound => if x.lateOut then (s.setLane l { x with lateOut := false }).passEvent e else s
  | .inbound => if x.lateIn then (s.setLane l { x with lateIn := false }).passEvent e else s

/-! ## Slots and staging -/

/-- Slot `j` belongs to the geometry. -/
def Geometry.holdsSlot (g : Geometry) (j : Nat) : Bool := decide (g.firstSlot ≤ j) && decide (j < g.firstSlot + g.channels)

/-- R42 step 1, R43: a playback stream's slots carry zero in every staged frame, and nothing more is noted of it. -/
def State.silence (s : State) (i : Fin 32) : State :=
  match (s.stream i).geom with
  | none => s
  | some g =>
    if g.dir = .capture then s
    else s.mapLane g.lane (fun x =>
      { x with outbound := x.outbound.map (fun pl =>
          { slots := Vector.ofFn (fun j => if g.holdsSlot j.val then 0 else pl.slots[j]),
            carries := pl.carries.filter (fun c => c.stream != i) }) })

/-- The staged frames that show count `c` and later: four, or three while the lane has still to let frame c − 1 leave at
the boundary in hand. -/
def State.windowDepth (s : State) (l : Fin 8) : Nat := if s.li.atBoundary.contains l then 3 else 4

/-- R41: the same for the staged frames beyond `last` at count `c`. -/
def State.silenceBeyond (s : State) (i : Fin 32) (c last : Word) : State :=
  match (s.stream i).geom with
  | none => s
  | some g =>
    s.mapLane g.lane (fun x =>
      { x with outbound := Vector.ofFn (fun (k : Fin 4) =>
          let pl := x.outbound[k]
          -- the frame in the window whose place is `k`
          let ahead := (k.val + 4 - c.toNat % 4) % 4
          if (last - c).toNat < ahead ∧ ahead < s.windowDepth g.lane then
            { slots := Vector.ofFn (fun j => if g.holdsSlot j.val then 0 else pl.slots[j]),
              carries := pl.carries.filter (fun c => c.stream != i) }
          else pl) })

/-- Words placed in the slots of staged frame `n` from slot `first` on. -/
def placeWords (slots : Vector Word 64) (first : Nat) : List Word → Vector Word 64
  | [] => slots
  | w :: ws => placeWords (if h : first < 64 then slots.set first w else slots) (first + 1) ws

/-- R23: the slots of a stream leave the map of its lane and direction. -/
def State.clearSlots (s : State) (i : Fin 32) : State :=
  match (s.stream i).geom with
  | none => s
  | some g => s.setSlotMap g.dir g.lane ((s.slotMap g.dir g.lane).map (fun x => if x = some i then none else x))

/-! ## Positions (R28, R38) -/

/-- R38: the wrap, with any pending swap; without one the position goes to period 0, whatever stop is pending (log 50). -/
def State.wrapStream (s : State) (i : Fin 32) : State :=
  let x := s.stream i
  match x.swap, x.geom with
  | some w, some g =>
    let t := (s.wrapRing i).setStream i
      { x with period := 0, frame := 0, swap := none,
               geom := some { g with base := w.base, frames := w.frames, count := w.count } }
    t.reportStream i (t.streamEvent .swapDone i (nat32 g.base) (nat32 w.base))
  | _, _ => s.setStream i { x with period := 0, frame := 0 }

/-- The position passes one frame (R28). -/
def State.advance (s : State) (i : Fin 32) : State :=
  let x := s.stream i
  match x.geom with
  | none => s
  | some g =>
    if x.frame + 1 < g.frames then s.setStream i { x with frame := x.frame + 1 }
    else if x.period + 1 < g.count then s.setStream i { x with period := x.period + 1, frame := 0 }
    else s.wrapStream i

/-- The engine goes on to the next lane frame. -/
def Stream.step (x : Stream) : Stream := { x with next := x.next + 1, words := 0 }

/-- The ring address of word `k` of the frame under the position (R1). -/
def Stream.address (x : Stream) (g : Geometry) (k : Nat) : Nat :=
  g.base + x.period * (g.frames * g.channels * 4) + (x.frame * g.channels + k) * 4

/-- Words from address `a` to the end of its 64-byte block, at most `r` (R27, R175). -/
def transactionWords (a r : Nat) : Nat := min r ((64 - a % 64) / 4)

/-! ## Becoming IDLE (R42) and halting (R43) -/

/-- An IDLE context keeps its counters (R42). -/
def Stream.idled (x : Stream) : Stream :=
  { Stream.powerOn with counters := x.counters, resumeMark := x.resumeMark }

/-- A capture stream has still to store inbound frame `n` (R30, R41). -/
def Stream.storesFrame (x : Stream) (n : Word) : Bool :=
  reached x.next n && (match x.stop with | none => true | some r => reached n r.last)

/-- The streams that lie on a lane in one direction. -/
def State.streamsOn (s : State) (l : Fin 8) (dir : Direction) : List (Fin 32) :=
  (indices 32).filter (fun i =>
    match (s.stream i).geom with
    | none => false
    | some g => g.lane == l && g.dir == dir)

/-- R30: a stream that delays the leaving of inbound frame `n`. -/
def State.delays (s : State) (n : Word) (i : Fin 32) : Bool :=
  let x := s.stream i
  (x.state == .running || x.state == .primed) && x.storesFrame n

/-- R42: steps 1 to 5. -/
def State.becomeIdle (s : State) (i : Fin 32) (how : StopHow) : State :=
  let x := s.stream i
  let e := { s.streamEvent .streamStopped i (fields [(0, how.code)]) (orZero x.lastFrame) with
    flagA := x.swapDropped || x.swap.isSome, flagB := x.lastFrame.isSome }
  ((((s.silence i).clearSlots i).removeEntry i).setStream i x.idled).reportStream i e

/-- R43: a stream on a lane that has entered FAULT. -/
def State.haltStream (s : State) (i : Fin 32) : State :=
  let x := s.stream i
  match x.geom with
  | none => s
  | some g =>
    if x.state.active then
      let t := (s.silence i).setStream i { x with state := .halted, words := 0 }
      t.reportStream i (t.streamEvent .streamHalted i (fields [(0, x.state.code)]) (nat32 g.lane.val))
    else s

/-! ## Overrun and stores (R30, R31, R35, R36) -/

/-- The last frame has been stored or dropped: IDLE, or the position passes it (R40, R41). -/
def State.frameDone (s : State) (i : Fin 32) (n : Word) : State :=
  let x := s.stream i
  match x.stop with
  | some r =>
    if r.last = n then s.becomeIdle i (match r.mode with | .now => .now | .periodEnd => .periodEnd)
    else (s.advance i).mapStream i Stream.step
  | none => (s.advance i).mapStream i Stream.step

/-- R35: an inbound frame is dropped. -/
def State.dropFrame (s : State) (i : Fin 32) (n : Word) : State :=
  (s.mapStream i (fun x => { x with counters := { x.counters with dropped := satInc x.counters.dropped } })).frameDone i n

/-- OVERFLOW (R35, R36). -/
def State.overflowEvent (s : State) (i : Fin 32) (n : Word) (reclaim : Bool) : Event :=
  { s.streamEvent .overflow i (fields [(0, (s.stream i).period)]) n with flagA := reclaim }

/-- RESUMED (R32, R35). -/
def State.resumedEvent (s : State) (i : Fin 32) (n : Word) : Event :=
  let x := s.stream i
  s.streamEvent .resumed i (fields [(0, x.frame), (16, x.period)]) n

/-- R30, R35, R36: before the first word of inbound frame `n` is stored; answers whether the store goes ahead. The live
record written at OVERFLOW, and at RESUMED, shows the position before that frame's advance (log 45). -/
def State.storeBegin (s : State) (i : Fin 32) (n : Word) : State × Bool :=
  let x := { s.stream i with next := n }
  let s := s.setStream i x
  match x.geom with
  | none => (s, false)
  | some g =>
    if x.frame ≠ 0 then
      if x.state = .overflowing then (s.dropFrame i n, false) else (s, true)
    else
      let r := s.firstStoreClaim i x.period g.policy
      match r.2 with
      | .granted =>
        if x.state = .overflowing then
          let t := r.1.setStream i { x with state := .running }
          (t.reportStream i (t.resumedEvent i n), true)
        else (r.1, true)
      | .reclaimed =>
        let t := r.1.setStream i { x with counters := { x.counters with lost := satInc x.counters.lost } }
        (t.passEvent (t.overflowEvent i n true), true)
      | .refused =>
        if x.state = .running then
          let t := r.1.setStream i { x with state := .overflowing }
          ((t.reportStream i (t.overflowEvent i n false)).dropFrame i n, false)
        else (r.1.dropFrame i n, false)

/-- R35: the OVERFLOWING streams of a lane take inbound frame `n` (log 25), in rising number (log 44). -/
def State.overflowTake (s : State) (l : Fin 8) (n : Word) : State :=
  (s.streamsOn l .capture).foldl (fun s i =>
    if (s.stream i).state = .overflowing ∧ (s.stream i).storesFrame n then (s.storeBegin i n).1 else s) s

/-- R30, R115: inbound frame `f` leaves staging unless a stream has still to store it. -/
def State.leaveInbound (l : Fin 8) (s : State) (f : InboundFrame) : State :=
  let t := s.overflowTake l f.number
  if (t.streamsOn l .capture).any (t.delays f.number) then t
  else t.mapLane l (fun x => { x with inbound := x.inbound.filter (· != f) })

/-- R115: every frame that can leave inbound staging leaves it, whatever stands before it. -/
def State.drainInbound (s : State) (l : Fin 8) : State := (s.lane l).inbound.foldl (State.leaveInbound l) s

/-- Draining the lane of a stream. -/
def State.drainLaneOf (s : State) (g : Option Geometry) : State :=
  match g with
  | none => s
  | some g => s.drainInbound g.lane

/-- The words of a stored frame: the stream's slots, or zeros for a bad or lost frame (R30, R31). -/
def InboundKind.words (k : InboundKind) (g : Geometry) : List Word :=
  match k with
  | .good slots => (List.range g.channels).map (fun c => (slots[g.firstSlot + c]?).getD 0)
  | .bad | .lost => List.replicate g.channels 0

/-- R30, R31: the counter a stored frame raises. -/
def InboundKind.count (k : InboundKind) (c : StreamCounters) : StreamCounters :=
  match k with
  | .good _ => c
  | .bad => { c with substituted := satInc c.substituted }
  | .lost => { c with dropped := satInc c.dropped }

/-- R30: every word of inbound frame `f` is stored. The live record of the setting of the start stamp is asked for with the
position before this frame's advance (log 45). -/
def State.storeEnd (s : State) (i : Fin 32) (f : InboundFrame) : State :=
  let x := s.stream i
  match x.geom with
  | none => s
  | some g =>
    let s1 := s.setStream i { x with
      counters := f.kind.count x.counters, stamp := some (x.stamp.getD f.number), lastFrame := some f.number }
    let s2 := if x.stamp.isNone then s1.request (.live i) else s1
    let s3 := if x.frame + 1 = g.frames then s2.lastStoreClaim i x.period else s2
    s3.frameDone i f.number

/-- The next `k` words of inbound frame `f` are stored (R30). -/
def State.storeWords (s : State) (i : Fin 32) (f : InboundFrame) (k : Nat) : State :=
  let x := s.stream i
  match x.geom with
  | none => s
  | some g =>
    let ws := ((f.kind.words g).drop x.words).take k
    let t := { s with mem := s.mem.writeWords (x.address g x.words) ws }
    if x.words + k < g.channels then t.setStream i { x with words := x.words + k } else t.storeEnd i f

/-- How much of a frame one step moves: the rest of it, or one transaction (R175). -/
inductive Extent where
  | whole | transaction
deriving DecidableEq, Repr

/-- The number of words a step moves. -/
def Extent.words (e : Extent) (a rest : Nat) : Nat :=
  match e with
  | .whole => rest
  | .transaction => transactionWords a rest

/-- R30: a capture stream stores the frame at the head of its lane's inbound staging. -/
def State.storeFrame (s : State) (i : Fin 32) (e : Extent) : State :=
  let x := s.stream i
  match x.geom with
  | none => s
  | some g =>
    match (s.lane g.lane).inbound with
    | [] => s
    | f :: _ =>
      if g.dir = .capture ∧ s.delays f.number i then
        let b := if x.words = 0 then
            s.storeBegin i f.number
          else (s, true)
        let t := if b.2 then
            let y := b.1.stream i
            b.1.storeWords i f (e.words (y.address g y.words) (g.channels - y.words))
          else b.1
        t.drainInbound g.lane
      else s

/-! ## Starvation and fetches (R28, R29, R32 to R34) -/

/-- R33, R34: a starved stream spends one lane frame. -/
def State.starveFrame (s : State) (i : Fin 32) : State :=
  let x := s.stream i
  match x.geom with
  | none => s
  | some g =>
    if g.policy = .keepData then
      s.setStream i ({ x with counters := { x.counters with slip := satInc x.counters.slip } } : Stream).step
    else
      (s.advance i).mapStream i (fun y => ({ y with crossed := decide (y.frame = 0) } : Stream).step)

/-- R33: at a fetch that finds the position just crossed into a new period, the period before counts as skipped. -/
def Stream.countSkipped (x : Stream) : Stream :=
  if x.crossed then { x with crossed := false, counters := { x.counters with skipped := satInc x.counters.skipped } }
  else x

/-- STARVED (R32). -/
def State.starvedEvent (s : State) (i : Fin 32) (r : Starvation) : Event :=
  s.streamEvent .starved i (fields [(0, r.period)]) r.frame

/-- R32: the claims before the fetch of the stream's next frame; answers whether words are to be fetched. A frame that
goes with zeros is done here. The live record written at STARVED shows the position and the slip count after that frame is
spent, and the one written at RESUMED the position before the fetched frame's advance (log 45). -/
def State.fetchBegin (s : State) (i : Fin 32) : State × Bool :=
  let x := s.stream i
  match x.starved with
  | none =>
    if x.frame ≠ 0 then (s, true)
    else
      let r := s.beginClaim i x.period
      if r.2 then (r.1, true)
      else
        let z : Starvation := ⟨x.period, x.next⟩
        let t := r.1.setStream i { x with starved := some z, state := if x.state = .running then .starved else x.state }
        let u := t.starveFrame i
        (if x.state = .running then u.reportStream i (u.starvedEvent i z) else u, false)
  | some _ =>
    if x.resumeMark ∨ x.crossed then
      let y := { x.countSkipped with resumeMark := false }
      let r := (s.setStream i y).beginClaim i x.period
      if r.2 then
        let t := r.1.setStream i { y with starved := none, state := if x.state = .starved then .running else x.state }
        (if x.state = .starved then t.reportStream i (t.resumedEvent i x.next) else t, true)
      else (r.1.starveFrame i, false)
    else (s.starveFrame i, false)

/-- R28: the frame's fetch is over: it is noted in staging what the frame carries, and the position advances. The live
record of the setting of the start stamp is asked for with the position before that advance (log 45). The position of a
stream that stops at its period's end passes the ring's last frame like any other (log 50). -/
def State.fetchEnd (s : State) (i : Fin 32) (carried : Bool) : State :=
  let x := s.stream i
  match x.geom with
  | none => s
  | some g =>
    let k := placeOf x.next
    let c : Carry := ⟨i, g.base, x.period, x.frame, g.frames⟩
    let s1 := s.mapLane g.lane (fun l =>
      { l with outbound := l.outbound.set k { l.outbound[k] with carries := l.outbound[k].carries ++ [c] } })
    let s2 := if carried ∧ x.stamp.isNone then
        (s1.setStream i { x with stamp := some x.next }).request (.live i)
      else s1
    (s2.advance i).mapStream i Stream.step

/-- R28: the next `k` words of the frame are placed in the stream's slots. -/
def State.fetchWords (s : State) (i : Fin 32) (k : Nat) : State :=
  let x := s.stream i
  match x.geom with
  | none => s
  | some g =>
    let ws := s.mem.readWords (x.address g x.words) k
    let pl := placeOf x.next
    let t := s.mapLane g.lane (fun l =>
      let place := { l.outbound[pl] with slots := placeWords l.outbound[pl].slots (g.firstSlot + x.words) ws }
      { l with outbound := l.outbound.set pl place })
    if x.words + k < g.channels then t.setStream i { x with words := x.words + k } else t.fetchEnd i true

/-- The states in which the engine makes fetches for a playback stream (R25, R28, R33, R34). -/
def StreamState.fetches : StreamState → Bool
  | .primed | .running | .starved => true
  | .idle | .overflowing | .halted => false

/-- R27: the earliest frame in outbound staging: the frame of the domain's count, or the one before while the lane has
still to let that leave at the boundary in hand. -/
def State.stagedFrom (s : State) (g : Geometry) : Word :=
  let c := (s.domain g.domain).count
  if s.li.atBoundary.contains g.lane then c - 1 else c

/-- R27, R41: the stream's next frame is in the fetch window and not beyond its last frame. -/
def State.mayFetch (s : State) (i : Fin 32) : Bool :=
  let x := s.stream i
  match x.geom with
  | none => false
  | some g =>
    g.dir == .play && x.state.fetches && inWindow (s.stagedFrom g) x.next &&
      (match x.stop with | none => true | some r => reached x.next r.last)

/-- R27: the frames of one lane are fetched in frame order. -/
def State.fetchInOrder (s : State) (i : Fin 32) : Bool :=
  let x := s.stream i
  match x.geom with
  | none => false
  | some g =>
    let c := s.stagedFrom g
    (s.streamsOn g.lane .play).all (fun j =>
      !s.mayFetch j || decide ((x.next - c).toNat ≤ ((s.stream j).next - c).toNat))

/-- R27: the stream's next frame is to be fetched now. -/
def State.fetchReady (s : State) (i : Fin 32) : Bool := s.mayFetch i && s.fetchInOrder i

/-- R28: a playback stream fetches its next frame. -/
def State.fetchFrame (s : State) (i : Fin 32) (e : Extent) : State :=
  let x := s.stream i
  match x.geom with
  | none => s
  | some g =>
    if s.fetchReady i then
      let b := if x.words = 0 then s.fetchBegin i else (s, true)
      if b.2 then
        let y := b.1.stream i
        b.1.fetchWords i (e.words (y.address g y.words) (g.channels - y.words))
      else b.1
    else s

/-- R29: lane frame `n` must leave staging before the stream's fetch for it has completed (log 15, log 16). -/
def State.leaveUnfetched (s : State) (l : Fin 8) (n : Word) (i : Fin 32) : State :=
  let x := s.stream i
  let due := x.state.fetches && x.next == n && (match x.stop with | none => true | some r => reached n r.last)
  if due then
    let b := if x.words = 0 then s.fetchBegin i else (s, true)
    if b.2 then
      let t := b.1.mapStream i (fun y => { y with counters := { y.counters with engineLate := satInc y.counters.engineLate } })
      (t.engineLate l .outbound n).fetchEnd i (x.words != 0)
    else b.1
  else s

/-- R28, R41: outbound frame `n` has left: what it carried is the stream's last frame so far, the played claims are
made, and a stream whose last frame it was becomes IDLE. The claims are made in the order in which the fetches were
noted, and streams become IDLE in rising number (log 44). -/
def State.frameLeft (s : State) (l : Fin 8) (n : Word) : State :=
  let carries := (s.lane l).outbound[placeOf n].carries
  let s1 := carries.foldl (fun s c => s.mapStream c.stream (fun x => { x with lastFrame := some n })) s
  let s2 := carries.foldl (fun s c => if c.frame + 1 = c.frames then s.playedClaim c.stream c.base c.period else s) s1
  let s3 := s2.mapLane l (fun x => { x with outbound := x.outbound.set (placeOf n) OutPlace.empty })
  (s3.streamsOn l .play).foldl (fun s i =>
    match (s.stream i).stop with
    | none => s
    | some r =>
      if r.last = n ∧ (s.stream i).state.active then
        s.becomeIdle i (match r.mode with | .now => .now | .periodEnd => .periodEnd)
      else s) s3

/-- R43, R117: every stream on a lane that has entered FAULT, playback streams first, each direction in rising number
(log 44). -/
def State.haltLane (s : State) (l : Fin 8) : State :=
  (((s.streamsOn l .play) ++ (s.streamsOn l .capture)).foldl State.haltStream s).drainInbound l

/-! ## The cues (R26, R37, R39 to R41) -/

/-- An owner's answer to a cue it applied. -/
inductive Outcome where
  | done (s : State)
  | refused (s : State) (r : Reason)

/-- R23: the stream's slots enter the map of its lane and direction. -/
def State.enterSlots (s : State) (i : Fin 32) (g : Geometry) : State :=
  let m := s.slotMap g.dir g.lane
  s.setSlotMap g.dir g.lane (Vector.ofFn (fun j => if g.holdsSlot j.val then some i else m[j]))

/-- R24 step 5: some slot of the geometry is named in the map of its lane and direction. -/
def State.slotsTaken (s : State) (g : Geometry) : Bool :=
  (indices 64).any (fun j => g.holdsSlot j.val && (s.slotMap g.dir g.lane)[j].isSome)

/-- R24 step 4: a change of family or multiplier stands before the domain. -/
def Domain.changing (x : Domain) : Bool :=
  x.candidate.any (fun c => c.family != x.family || c.mult != x.mult) || x.rateChange.any (fun r => r.mult != x.mult)

/-- R24: the checks of acceptance of a START_STREAM on lane `l` of domain `d`, and what acceptance does; `start` is the
start frame. -/
def State.acceptStart (s : State) (i : Fin 32) (stage : StreamStage) (l : Fin 8) (d : Fin 4) (start : Word) :
    Except Reason State :=
  if (s.stream i).state ≠ .idle then .error .wrongState
  else
    match stage.geometry s.base l d (s.capacity l) with
    | none => .error .badStage
    | some g =>
      if (s.lane l).state ≠ .up then .error .laneNotUp
      else if (s.domain d).changing then .error .busy
      else if s.slotsTaken g then .error .slotConflict
      else
        match s.enterRing i g with
        | none => .error .ringOverlap
        | some t =>
          .ok (((t.enterSlots i g).setStream i
            { Stream.powerOn with state := .primed, geom := some g, start := some ⟨start, true⟩, next := start }).request
              (.live i))

/-- R26: START_STREAM applied. -/
def State.applyStart (s : State) (i : Fin 32) : Outcome :=
  let x := s.stream i
  let y := { x with start := x.start.map (fun r => { r with mark := false }) }
  match x.state, x.geom with
  | .primed, some g =>
    let st : StreamState := match g.dir, x.starved with
      | .play, some _ => .starved
      | _, _ => .running
    let t := s.setStream i { y with state := st }
    let u := t.reportStream i (t.streamEvent .streamStarted i (fields [(0, g.dir.code), (8, st.code)])
      (orZero (x.start.map (·.frame))))
    match st, x.starved with
    | .starved, some z => .done (u.passEvent (u.starvedEvent i z))
    | _, _ => .done u
  | .halted, _ => .refused (s.setStream i y) .wrongState
  | _, _ => .refused s .wrongState

/-- R41: what staging and the position show of the stream from count `c` on: a lane frame, the frame of the period it
carries, and the period's frames. Where nothing is staged, they are reckoned on from the position (log 17). -/
def State.currentPeriod (s : State) (i : Fin 32) (g : Geometry) (c : Word) : Word × Nat × Nat :=
  let x := s.stream i
  let found := (List.range (s.windowDepth g.lane)).findSome? (fun k =>
    let n := c + BitVec.ofNat 32 k
    ((s.lane g.lane).outbound[placeOf n].carries.find? (fun r => r.stream == i)).map (fun r => (n, r.frame, r.frames)))
  found.getD (if reached x.next c then (c, (x.frame + (c - x.next).toNat) % g.frames, g.frames)
    else (x.next, x.frame, g.frames))

/-- R41: the last frame of a stream stopped at its period's end, at count `c`. Under KEEP_TIME the position passes one
frame a lane frame, starved or not (R33), so frame `c` belongs to the period before where the first frame shown is so near
its period's start (log 17). -/
def State.periodEndFrame (s : State) (i : Fin 32) (g : Geometry) (c : Word) : Word :=
  let x := s.stream i
  match g.dir with
  | .play =>
    let r := s.currentPeriod i g c
    if g.policy = .keepTime ∧ reached c r.1 ∧ r.2.1 < (r.1 - c).toNat then r.1 - BitVec.ofNat 32 (r.2.1 + 1)
    else r.1 + BitVec.ofNat 32 (r.2.2 - 1 - r.2.1)
  | .capture =>
    let f := (x.frame + (c - x.next).toNat) % g.frames
    c + BitVec.ofNat 32 (g.frames - 1 - f)

/-- R41: a stop-pending record is placed; a swap-pending record is removed. -/
def State.placeStop (s : State) (i : Fin 32) (mode : StopMode) (last : Word) : State :=
  (s.mapStream i (fun x => { x with stop := some ⟨mode, last⟩ })).request (.live i)

/-- R41: STOP_AT_PERIOD_END on a RUNNING stream. -/
def State.stopAtPeriodEnd (s : State) (i : Fin 32) (g : Geometry) : State :=
  let c := (s.domain g.domain).count
  let last := s.periodEndFrame i g c
  let t := s.mapStream i (fun x => { x with swap := none, swapDropped := x.swapDropped || x.swap.isSome })
  let u := t.placeStop i .periodEnd last
  match g.dir with
  | .play => u.silenceBeyond i c last
  | .capture => u.drainInbound g.lane

/-- R40: STOP_NOW on a RUNNING stream, the cue due at `due`. -/
def State.stopNow (s : State) (i : Fin 32) (g : Geometry) (due : Word) : State :=
  let x := s.stream i
  match g.dir with
  | .play => s.becomeIdle i .now
  | .capture =>
    let own := due - 1
    let last := match x.stop with
      | none => own
      | some r => if reached r.last own then r.last else own
    let t := s.placeStop i .now last
    (if reached (last + 1) x.next then t.becomeIdle i .now else t).drainInbound g.lane

/-- R39: STOP_STREAM applied; the cancelling of a START cue is the Cue Unit's. -/
def State.applyStop (s : State) (i : Fin 32) (mode : StopMode) (due : Word) : Outcome :=
  let x := s.stream i
  let how : StopHow := match mode with | .now => .now | .periodEnd => .periodEnd
  match x.state, x.geom with
  | .idle, _ => .refused s .wrongState
  | _, none => .refused s .wrongState
  | .primed, g => .done ((s.becomeIdle i .whilePrimed).drainLaneOf g)
  | .halted, g => .done ((s.becomeIdle i .whileHalted).drainLaneOf g)
  | .starved, g => .done ((s.becomeIdle i how).drainLaneOf g)
  | .overflowing, g => .done ((s.becomeIdle i how).drainLaneOf g)
  | .running, some g =>
    match mode with
    | .now => .done (s.stopNow i g due)
    | .periodEnd => if x.stop.isSome then .refused s .busy else .done (s.stopAtPeriodEnd i g)

/-! ## Host reset (R46) -/

/-- R46 steps 1 to 3, with staging zeroed and the late allowances granted (R29). -/
def State.resetStreams (s : State) : State :=
  { s with
    se := StreamEngine.powerOn
    li := { s.li with lanes := s.li.lanes.map (fun x =>
      { x with outbound := Vector.replicate 4 OutPlace.empty, inbound := [], lateOut := true, lateIn := true }) } }

/-! ## The commands -/

/-- R176: Stream is granted for lane `g.1` in direction `g.2`. -/
def State.serve (s : State) (g : Fin 8 × FlowDir) : State :=
  { s with mc := { s.mc with lastOfThree := .stream, laneTurn := g.1, laneDir := s.mc.laneDir.set g.1 g.2 } }

/-- R30: the frame at the head of the inbound staging of the stream's lane is to be stored for it. -/
def State.storeReady (s : State) (i : Fin 32) : Bool :=
  match (s.stream i).geom with
  | none => false
  | some g =>
    match (s.lane g.lane).inbound with
    | [] => false
    | f :: _ => g.dir == .capture && s.delays f.number i

/-- The lane of a stream, in a direction, is served. -/
def State.serveStream (s : State) (i : Fin 32) (dir : FlowDir) : State :=
  match (s.stream i).geom with
  | none => s
  | some g => s.serve (g.lane, dir)

/-- STREAM_FETCH (R28): the frame's transactions, each a grant to Stream. -/
def execStreamFetch (st : Fin 32) (s : State) : Result :=
  powered s (fun s => if s.fetchReady st then (s.serveStream st .outbound).fetchFrame st .whole else s)

/-- STREAM_STORE (R30): the frame's transactions, each a grant to Stream. -/
def execStreamStore (st : Fin 32) (s : State) : Result :=
  powered s (fun s => if s.storeReady st then (s.serveStream st .inbound).storeFrame st .whole else s)

end Sys2Proof.Machine
end

