-- ==== Sys2Proof/Machine/Arbiter.lean ====
section
/-! DEFINITION. The Memory Controller's arbiter (R175 to R177); the meaning of REFRESH_INTERVAL. -/

namespace Sys2Proof.Machine

/-! ## The Stream requester (R176) -/

/-- The stream whose fetch is the lane's next outbound work: the earliest frame, then the lowest stream number. -/
def State.nextFetch (s : State) (l : Fin 8) : Option (Fin 32) :=
  (s.streamsOn l .play).find? s.fetchReady

/-- The stream whose store is the lane's next inbound work. -/
def State.nextStore (s : State) (l : Fin 8) : Option (Fin 32) :=
  match (s.lane l).inbound with
  | [] => none
  | f :: _ => (s.streamsOn l .capture).find? (s.delays f.number)

/-- The lane has work outstanding in a direction. -/
def State.hasWork (s : State) (l : Fin 8) : FlowDir → Bool
  | .outbound => (s.nextFetch l).isSome
  | .inbound => (s.nextStore l).isSome

/-- R176: a stream that fetches: RUNNING, or PRIMED with its start frame inside the window. A PRIMED stream whose START is
applied late (R59) goes on fetching from its start frame (R25) after that frame has left the window: there the list of
R176 and its head ("that fetches") part, and the model judges the stream by its next frame, so its lane still counts
(DESIGN CHOICE, log 56). -/
def State.isFetching (s : State) (i : Fin 32) : Bool :=
  let x := s.stream i
  (x.state == .running || x.state == .primed) && s.mayFetch i

/-- R176: counting from the next frame to leave, fewer than 2 frames have every fetch completed. -/
def State.shortOutbound (s : State) (l : Fin 8) : Bool :=
  (s.streamsOn l .play).any (fun i =>
    s.isFetching i &&
      (match (s.stream i).geom with
       | none => false
       | some g => decide (((s.stream i).next - s.stagedFrom g).toNat < 2)))

/-- R176: more than 2 frames are in inbound staging, for a stream that stores. -/
def State.shortInbound (s : State) (l : Fin 8) : Bool :=
  decide (2 < (s.lane l).inbound.countP (fun f => f.kind != .lost)) && s.hasWork l .inbound

/-- R176: the lane is short. -/
def State.shortLane (s : State) (l : Fin 8) : Bool := s.shortOutbound l || s.shortInbound l

/-- The lanes in turn, starting after the lane last served. -/
def State.lanesInTurn (s : State) : List (Fin 8) := (indices 8).map (fun k => s.mc.laneTurn + 1 + k)

/-- R176 step 2: the direction that makes a lane short, outbound when both do. -/
def State.shortDir (s : State) (l : Fin 8) : FlowDir := if s.shortOutbound l then .outbound else .inbound

/-- R176 step 4: the direction not served last when both have work, else the one that has work. -/
def State.workDir (s : State) (l : Fin 8) : FlowDir :=
  match s.hasWork l .outbound, s.hasWork l .inbound with
  | true, true => if s.mc.laneDir[l] = .outbound then .inbound else .outbound
  | true, false => .outbound
  | false, _ => .inbound

/-- The lane and direction of an urgent Stream grant. -/
def State.urgentStream (s : State) : Option (Fin 8 × FlowDir) :=
  (s.lanesInTurn.find? s.shortLane).map (fun l => (l, s.shortDir l))

/-- The lane and direction of a Stream grant by rotation. -/
def State.streamWork (s : State) : Option (Fin 8 × FlowDir) :=
  (s.lanesInTurn.find? (fun l => s.hasWork l .outbound || s.hasWork l .inbound)).map (fun l => (l, s.workDir l))

/-- A grant to Stream: one transaction of the lane's next fetch or store. A grant at which a frame goes with zeros, or at
which a first-store claim is refused and the frame is dropped, moves nothing and counts as the grant (log 40). -/
def State.grantStream (s : State) (g : Fin 8 × FlowDir) : State :=
  let t := s.serve g
  match g.2 with
  | .outbound =>
    match s.nextFetch g.1 with
    | none => t
    | some i => t.fetchFrame i .transaction
  | .inbound =>
    match s.nextStore g.1 with
    | none => t
    | some i => t.storeFrame i .transaction

/-! ## Record and Refresh -/

/-- R179: 64 bytes of the control area are scrubbed. -/
def State.scrubBlock (s : State) (n : Nat) : State :=
  { s with mem := s.mem.clear (s.base + 64 * n) (s.base + 64 * n + 64), mc := { s.mc with scrubNext := some (n + 1) } }

/-- R175: Record has a transaction: a request of its order, or a scrub write. -/
def State.recordReady (s : State) : Bool :=
  !s.mc.records.isEmpty || s.mc.scrubNext.any (fun n => decide (n < Config.scrubBlocks))

/-- A grant to Record. -/
def State.grantRecord (s : State) : State :=
  let t : State := { s with mc := { s.mc with lastOfThree := .record } }
  if s.mc.records.isEmpty then
    match s.mc.scrubNext with
    | none => t
    | some n => t.scrubBlock n
  else t.grantItem

/-- R177: a grant to Refresh. -/
def State.grantRefresh (s : State) : State := { s with mc := { s.mc with refreshPending := s.mc.refreshPending - 1 } }

/-! ## The arbitration point -/

/-- One requester's grant by rotation, if it has a request. -/
def State.tryGrant (s : State) : Requester → Option State
  | .pass => s.pp.inHand.map s.grantPass
  | .stream => s.streamWork.map s.grantStream
  | .record => if s.recordReady then some s.grantRecord else none

/-- The circle Pass, Stream, Record, starting after the one last granted. -/
def rotation : Requester → List Requester
  | .pass => [.stream, .record, .pass]
  | .stream => [.record, .pass, .stream]
  | .record => [.pass, .stream, .record]

/-- R176: one arbitration point. -/
def State.arbitrate (s : State) : State :=
  if 4 ≤ s.mc.refreshPending then s.grantRefresh
  else
    match s.urgentStream with
    | some g => s.grantStream g
    | none =>
      if 1 ≤ s.mc.refreshPending then s.grantRefresh
      else ((rotation s.mc.lastOfThree).findSome? s.tryGrant).getD s

/-! ## Waiting for a grant -/

/-- R171, R176: arbitration points up to the grant of the transaction in hand, at most `n` of them (log 7). -/
def State.grantInTurn : Nat → State → State
  | 0, s => s
  | n + 1, s => if s.pp.inHand.isSome then s.arbitrate.grantInTurn n else s

/-- An owner's read of a stage entry stands in the Record order. -/
def State.readWaits (s : State) : Bool := s.mc.records.any (·.work == .stageRead)

/-- R175, R176: arbitration points up to the grant of the read of a stage entry that stands in the Record order, at most
`n` of them; the order before it is then completed (log 49). -/
def State.awaitRead : Nat → State → State
  | 0, s => s.completeThrough (· == .stageRead)
  | n + 1, s => if s.readWaits then s.arbitrate.awaitRead n else s

/-- R20, R63, R175: an owner's read of a stage entry joins the Record order and is granted in its turn; what the owner then
reads is memory as it stands at that grant. -/
def State.recordRead (s : State) : State :=
  ({ s with mc := { s.mc with records := s.mc.records ++ [⟨.stageRead, false, [], []⟩] } } : State).awaitRead
    Config.grantPoints

/-! ## The commands -/

/-- REFRESH_INTERVAL (R177). -/
def execRefreshInterval (dt : Nat) (s : State) : Result :=
  powered (s.elapse dt) (fun s =>
    match s.mc.refreshTimer with
    | none => s
    | some t =>
      if t + s.mc.refresh.cycles ≤ s.mclk then
        { s with mc := { s.mc with refreshTimer := some (t + s.mc.refresh.cycles),
                                   refreshPending := min Config.refreshMax (s.mc.refreshPending + 1) } }
      else s)

end Sys2Proof.Machine
end

