-- ==== Sys2Proof/Machine/Lanes.lean ====
section
/-! DEFINITION. The Lane Interface (R101 to R122): training, data frames, faults, the control queue and the lane's part of a
boundary; the meaning of LANE_FRAME_RECEIVED. -/

namespace Sys2Proof.Machine

/-- The stamp of a lane's events (R120). -/
def State.laneStamp (s : State) (l : Fin 8) : Option (Fin 4) × Word :=
  match (s.lane l).domain with
  | none => (none, 0)
  | some d => s.stampOf d

/-- R116: the queue is emptied, each word counting as dropped. -/
def Lane.emptyQueue (x : Lane) : Lane :=
  { x with queue := [], counters := { x.counters with dropped := satAdd x.counters.dropped x.queue.length } }

/-- R110: what every entry into TRAINING does; the queue is kept. -/
def Lane.training (x : Lane) : Lane :=
  { x with state := .training, trainingRun := 0, badRun := 0, countdown := none, expected := none, lastStatus := none }

/-- R104: the lane takes a domain. -/
def Lane.assigned (x : Lane) (d : Fin 4) : Lane :=
  { x.training.emptyQueue with domain := some d, lateOut := true, lateIn := true }

/-- R104: the lane becomes IDLE. -/
def Lane.unassigned (x : Lane) : Lane := { x.training.emptyQueue with state := .idle, domain := none }

/-- R117, R43: the lane enters FAULT on frame `n`. -/
def State.enterFault (s : State) (l : Fin 8) (cause : BadCause) (n : Word) : State :=
  let x := s.lane l
  let y := { x.emptyQueue with
    state := .fault, expected := none, countdown := some Config.retrainBoundaries, lastStatus := none }
  let t := (s.setLane l { y with counters := { y.counters with faults := satInc y.counters.faults } }).request (.lane l)
  let e := Event.plain .laneFault l.val (t.laneStamp l) (fields [(0, cause.code), (8, x.queue.length)]) n
  (t.passEvent e).haltLane l

/-- R30, R31, R112: inbound frame `n` is placed in staging, or lost to it. -/
def State.placeInbound (s : State) (l : Fin 8) (n : Word) (k : InboundKind) : State :=
  let held := (s.lane l).inbound.countP (fun f => f.kind != .lost)
  if held < Config.stagingFrames then
    (s.mapLane l (fun x => { x with inbound := x.inbound ++ [⟨n, k⟩] })).drainInbound l
  else
    ((s.mapLane l (fun x => { x with inbound := x.inbound ++ [⟨n, .lost⟩] })).engineLate l .inbound n).drainInbound l

/-- R112: the counter of a cause. -/
def LaneCounters.bad (c : LaneCounters) : BadCause → LaneCounters
  | .missing => { c with badMissing := satInc c.badMissing }
  | .crc => { c with badCrc := satInc c.badCrc }
  | .format => { c with badFormat := satInc c.badFormat }
  | .tag => { c with badTag := satInc c.badTag }

/-- R112, R113: an UP lane judges frame `n` bad; the 8th in a row is placed before the lane enters FAULT (log 61). -/
def State.judgeBad (s : State) (l : Fin 8) (cause : BadCause) (n : Word) : State :=
  let x := s.lane l
  let run := x.badRun + 1
  let t := (s.setLane l { x with badRun := run, counters := x.counters.bad cause }).placeInbound l n .bad
  if run = Config.badRunLimit then t.enterFault l cause n else t

/-- R114: the status word of a good frame. -/
def State.takeStatus (s : State) (l : Fin 8) (w : Word) : State :=
  let x := s.lane l
  if x.lastStatus = some w then s
  else
    let t := (s.setLane l { x with lastStatus := some w }).request (.lane l)
    let e := Event.plain .converterStatus l.val (t.laneStamp l) w (orZero x.lastStatus)
    t.passEvent { e with flagA := x.lastStatus.isNone }

/-- R112: an UP lane judges frame `n` good. An absent status word is not examined (log 23). -/
def State.judgeGood (s : State) (l : Fin 8) (n : Word) (f : LaneFrame) : State :=
  let x := s.lane l
  let s1 := (s.setLane l { x with badRun := 0, counters := { x.counters with good := x.counters.good + 1 } }).meterFrame l
    f.slots
  let s2 := if f.mark = 1 then s1.takeStatus l f.word else s1
  s2.placeInbound l n (.good f.slots)

/-- R112: the cause for which an arriving frame is bad, tested in order. -/
def frameCause (f : LaneFrame) (capacity : Nat) (n : Word) : Option BadCause :=
  if !f.crcCorrect then some .crc
  else if f.kind ≠ 1 ∨ f.slotCount.toNat ≠ capacity ∨ (f.mark ≠ 0 ∧ f.mark ≠ 1) then some .format
  else if f.tag ≠ tagOf n then some .tag
  else none

/-- R109: the frame is a good echo of TRAIN frame `n` with its announcement. -/
def isGoodEcho (f : LaneFrame) (n announcement : Word) : Bool :=
  f.crcCorrect && f.kind == 3 && f.slotCount == 0 && f.tag == tagOf n && f.mark == 1 && f.word == announcement

/-- R109: the 16th good echo in a row makes the lane UP. -/
def State.laneUp (s : State) (l : Fin 8) (d : Fin 4) (n : Word) : State :=
  let x := s.lane l
  let t := (s.setLane l { x with
    state := .up, trainingRun := Config.trainingRun, badRun := 0, lastStatus := none }).request (.lane l)
  let a := s.domain d
  t.passEvent (Event.plain .laneUp l.val (t.laneStamp l)
    (fields [(0, s.capacity l), (8, a.family.code), (16, a.mult.value)]) n)

/-- R109: a TRAINING lane of domain `d` judges the frame that arrived for `n`. -/
def State.judgeEcho (s : State) (l : Fin 8) (d : Fin 4) (n : Word) (f : LaneFrame) : State :=
  let x := s.lane l
  if isGoodEcho f n (s.domain d).announcement then
    if x.trainingRun + 1 = Config.trainingRun then s.laneUp l d n
    else s.setLane l { x with trainingRun := x.trainingRun + 1 }
  else s.setLane l { x with trainingRun := 0 }

/-- R107: an inbound frame arrives. -/
def State.frameArrives (s : State) (l : Fin 8) (f : LaneFrame) : State :=
  let x := s.lane l
  match x.state, x.expected, x.domain with
  | .idle, _, _ => s
  | .fault, _, _ => s
  | .training, some n, some d => (s.setLane l { x with expected := none }).judgeEcho l d n f
  | .up, some n, some _ =>
    let t := s.setLane l { x with expected := none }
    match frameCause f (s.capacity l) n with
    | none => t.judgeGood l n f
    | some c => t.judgeBad l c n
  | _, _, _ => s.setLane l { x with counters := { x.counters with stray := satInc x.counters.stray } }

/-! ## The lane's part of a boundary -/

/-- R107: the boundary closes an expectation still open. -/
def State.closeExpectation (s : State) (l : Fin 8) : State :=
  let x := s.lane l
  match x.expected with
  | none => s
  | some n =>
    let t := s.setLane l { x with expected := none }
    match x.state with
    | .up => t.judgeBad l .missing n
    | .training => t.setLane l { x with expected := none, trainingRun := 0 }
    | _ => t

/-- R117: a FAULT lane counts down and trains again at 0. -/
def State.countDown (s : State) (l : Fin 8) : State :=
  let x := s.lane l
  match x.countdown with
  | none => s
  | some k =>
    if k ≤ 1 then ((s.setLane l x.training).clearWindow l).request (.lane l)
    else s.setLane l { x with countdown := some (k - 1) }

/-- R108: the TRAIN frame `n` of a lane of domain `d`. -/
def State.trainFrame (s : State) (d : Fin 4) (n : Word) : LaneFrame :=
  LaneFrame.make 2 (tagOf n) [] (some (s.domain d).announcement)

/-- R111: the DATA frame `n` of a lane. -/
def State.dataFrame (s : State) (l : Fin 8) (n : Word) : LaneFrame :=
  let x := s.lane l
  LaneFrame.make 1 (tagOf n) (x.outbound[placeOf n].slots.toList.take (s.capacity l)) x.queue.head?

/-- R108, R111: what the lane puts on the wire as frame `n`. -/
def State.sendFrame (s : State) (l : Fin 8) (d : Fin 4) (n : Word) : State :=
  let x := s.lane l
  match x.state with
  | .training => s.setLane l { x with sent := some (s.trainFrame d n), expected := some n }
  | .up =>
    let sent := if x.queue.isEmpty then x.counters.sent else x.counters.sent + 1
    s.setLane l { x with sent := some (s.dataFrame l n), expected := some n, queue := x.queue.drop 1,
                         counters := { x.counters with sent := sent } }
  | _ => s

/-- R107, R108, R111, R117, R27 to R29: lane `l` takes the boundary of domain `d` in hand: it judges what is missing,
counts down or sends, and outbound frame c − 1 leaves staging, its late streams taken in rising number (log 44). -/
def State.laneBoundary (s : State) (d : Fin 4) (l : Fin 8) : State :=
  let n := (s.domain d).count - 1
  let wasFault := (s.lane l).state = .fault
  let s1 := s.closeExpectation l
  let s2 := if wasFault then s1.countDown l else s1
  let s3 := (s2.streamsOn l .play).foldl (fun s i => s.leaveUnfetched l n i) s2
  (s3.sendFrame l d n).frameLeft l n

/-- R73, R105: lane `l` takes the boundary in hand, if it has still to (log 36). -/
def State.takeLane (s : State) (d : Fin 4) (l : Fin 8) : State :=
  if s.li.atBoundary.contains l then
    let t := if (s.domain d).running then s.laneBoundary d l else s
    { t with li := { t.li with atBoundary := t.li.atBoundary.filter (· != l) } }
  else s

/-- R119: a stop or a change of rate of its domain sends the lane back to TRAINING. -/
def State.retrainLane (s : State) (l : Fin 8) : State :=
  let x := s.lane l
  let t := (s.setLane l x.training).clearWindow l
  if x.state = .training then t else t.request (.lane l)

/-- R119: every lane of the domain, in rising number (log 44). -/
def State.retrainLanes (s : State) (d : Fin 4) : State := (s.lanesOf d).foldl State.retrainLane s

/-- R119: at a change of rate the lanes have first judged the expectation that the boundary closes, in rising number
(log 44). -/
def State.closeExpectations (s : State) (d : Fin 4) : State := (s.lanesOf d).foldl State.closeExpectation s

/-! ## The cues -/

/-- R104: ASSIGN_LANE applied; a lane that has still to take the boundary in hand takes it first (log 36). -/
def State.applyAssign (s : State) (l : Fin 8) (target : Option (Fin 4)) : Outcome :=
  if ((s.streamsOn l .play) ++ (s.streamsOn l .capture)).any (fun i => (s.stream i).state.active) then
    .refused s .wrongState
  else
    let t := match (s.lane l).domain with
      | none => s
      | some d => s.takeLane d l
    let x := t.lane l
    match target with
    | some d => .done (((t.setLane l (x.assigned d)).clearWindow l).request (.lane l))
    | none =>
      if x.state = .idle then .done t
      else .done (((t.setLane l x.unassigned).clearWindow l).request (.lane l))

/-- R116: LANE_COMMAND applied. -/
def State.applyCommand (s : State) (l : Fin 8) (w : Word) : Outcome :=
  let x := s.lane l
  match x.state with
  | .training | .up =>
    if x.queue.length < Config.controlDepth then .done (s.setLane l { x with queue := x.queue ++ [w] })
    else .refused s .controlFull
  | .idle => .refused s .domainMismatch
  | .fault => .refused s .wrongState

/-- R122: every control queue is emptied at host reset. -/
def State.resetLanes (s : State) : State :=
  { s with li := { s.li with lanes := s.li.lanes.map Lane.emptyQueue } }

/-! ## The command -/

/-- LANE_FRAME_RECEIVED (R107). -/
def execLaneFrameReceived (l : Fin 8) (f : LaneFrame) (s : State) : Result := powered s (fun s => s.frameArrives l f)

end Sys2Proof.Machine
end

