-- ==== Sys2Proof/Machine/Outputs.lean ====
section
/-! DEFINITION. The word clock outputs (R96 to R100): cycles, settings and domain stops; the meanings of OUTPUT_RISE and
OUTPUT_FALL. -/

namespace Sys2Proof.Machine

/-- R97: the half-period H of a cycle that begins at a boundary of domain `d`. -/
def State.halfPeriod (s : State) (d : Fin 4) (divider : Factor) : Nat :=
  let x := s.domain d
  match x.run, x.ref with
  | .locked, some .int44 | .locked, some .int48 => divider.value * 100000000 / (2 * rateOf x.family x.mult)
  | _, _ => divider.value * x.lastGood.getD (Config.unmeasuredSum d.val) / 128

/-- R97: the line rises at time `t`. -/
def WordOutput.rise (x : WordOutput) (t : Nat) : WordOutput :=
  { x with line := true, riseAt := none, fallAt := some (t + x.half) }

/-- R97, R98: the line falls at time `t`; an ENDING output takes the settings staged for it, if any, and becomes OFF or
WAITING by the enable then in force. -/
def WordOutput.fall (x : WordOutput) (t : Nat) : WordOutput :=
  let y := { x with line := false, fallAt := none, lastFall := t, lastHalf := some x.half }
  if x.state = .ending then
    let settings := x.pendingSettings.getD x.settings
    { y with settings := settings, pendingSettings := none, state := if settings.enable then .waiting else .off }
  else y

/-- R100: the record is written at a change of state and at a placement or removal of pending settings. -/
def State.putOutput (s : State) (o : Fin 4) (x : WordOutput) : State :=
  let old := s.output o
  let t := s.setOutput o x
  if old.state ≠ x.state ∨ old.pendingSettings ≠ x.pendingSettings then t.request (.output o) else t

/-- A scheduled rise or fall whose time is at most `limit` happens. -/
def State.runEdges (s : State) (o : Fin 4) (limit : Nat) : State :=
  let x := s.output o
  let y := match x.riseAt with
    | none => x
    | some t => if t ≤ limit then x.rise t else x
  let z := match y.fallAt with
    | none => y
    | some t => if t ≤ limit then y.fall t else y
  s.putOutput o z

/-- Edges of the line due before time `t` are taken first (log 13). -/
def State.edgesBefore (s : State) (o : Fin 4) (t : Nat) : State := if t = 0 then s else s.runEdges o (t - 1)

/-- Edges of the line due before this moment. -/
def State.overdueEdges (s : State) (o : Fin 4) : State := s.edgesBefore o s.mclk

/-- R97: a cycle begins at time `t` with half-period `h`: the line rises at once or when its guard has run out. -/
def WordOutput.beginCycle (x : WordOutput) (t h : Nat) : WordOutput :=
  let g := match x.lastHalf with
    | none => h
    | some k => min k h
  let y := { x with state := .running, half := h }
  if x.lastFall + g ≤ t then y.rise t else { y with riseAt := some (x.lastFall + g) }

/-- R97: a boundary is passed over. -/
def WordOutput.passOver (x : WordOutput) : WordOutput := { x with passedOver := satInc x.passedOver }

/-- R97, R98: an aligned boundary of the settings in force, count `c`, at time `t`. -/
def State.alignedBoundary (s : State) (o : Fin 4) (d : Fin 4) (c : Word) (t : Nat) : WordOutput :=
  let x := s.output o
  match x.state with
  | .off => x
  | .ending => x.passOver
  | .waiting => x.beginCycle t (s.halfPeriod d x.settings.divider)
  | .running =>
    if x.line ∨ x.riseAt.isSome then x.passOver
    else
      match x.pendingSettings with
      | none => x.beginCycle t (s.halfPeriod d x.settings.divider)
      | some p =>
        let y := { x with settings := p, pendingSettings := none }
        if p.domain = d ∧ c.toNat % p.divider.value = 0 then y.beginCycle t (s.halfPeriod d p.divider)
        else { y with state := .waiting }

/-- R97: output `o` takes a boundary of domain `d` at the moment it is taken. -/
def State.outputBoundary (s : State) (d : Fin 4) (o : Fin 4) : State :=
  let t := (s.domain d).lastBoundary
  let s := s.edgesBefore o t
  let x := s.output o
  let c := (s.domain d).count
  if x.settings.domain = d ∧ c.toNat % x.settings.divider.value = 0 then s.putOutput o (s.alignedBoundary o d c t) else s

/-- R98: a SET_OUTPUT whose stage has enable off. -/
def WordOutput.disable (x : WordOutput) : WordOutput :=
  let off := { x with settings := { x.settings with enable := false }, pendingSettings := none }
  match x.state with
  | .off => x
  | .waiting => { off with state := .off }
  | .running => if x.line then { off with state := .ending } else { off with state := .off, riseAt := none }
  | .ending => off

/-- R98: a SET_OUTPUT whose stage has enable on. -/
def WordOutput.enableWith (x : WordOutput) (p : OutputSettings) : WordOutput :=
  match x.state with
  | .off => { x with settings := p, state := .waiting }
  | .waiting => { x with settings := p }
  | .running | .ending => { x with pendingSettings := if p = x.settings then none else some p }

/-- R96, R98: SET_OUTPUT with a valid stage; `none` is BAD_STAGE. -/
def State.applyOutputStage (s : State) (o : Fin 4) : Option State :=
  let t := s.overdueEdges o
  match s.outputStage o with
  | .invalid => none
  | .disable => some (t.putOutput o (t.output o).disable)
  | .settings p =>
    let y := (t.output o).enableWith p
    -- a placement that repeats the pending settings is written too
    let u := t.putOutput o y
    some (if y.pendingSettings.isSome then u.request (.output o) else u)

/-- R99: the domain of an output stops. -/
def WordOutput.domainStopped (x : WordOutput) : WordOutput :=
  match x.state with
  | .running =>
    if x.line then { x with state := .ending }
    else { x with state := .waiting, riseAt := none, settings := x.pendingSettings.getD x.settings, pendingSettings := none }
  | _ => x

/-- R99: every output set to the domain, in rising number (log 44). -/
def State.stopOutputs (s : State) (d : Fin 4) : State :=
  (indices 4).foldl (fun s o =>
    let t := s.overdueEdges o
    if (t.output o).settings.domain = d then t.putOutput o (t.output o).domainStopped else t) s

/-- R100: at a tick of the domain, the records of its outputs that are not OFF. -/
def State.requestOutputs (s : State) (d : Fin 4) : State :=
  (indices 4).foldl (fun s o =>
    if (s.output o).settings.domain = d ∧ (s.output o).state ≠ .off then s.request (.output o) else s) s

/-- OUTPUT_RISE (R97). -/
def execOutputRise (o : Fin 4) (dt : Nat) (s : State) : Result :=
  powered (s.elapse dt) (fun s =>
    match (s.output o).riseAt with
    | none => s
    | some t => if t ≤ s.mclk then s.putOutput o ((s.output o).rise t) else s)

/-- OUTPUT_FALL (R97, R98). -/
def execOutputFall (o : Fin 4) (dt : Nat) (s : State) : Result :=
  powered (s.elapse dt) (fun s =>
    match (s.output o).fallAt with
    | none => s
    | some t => if t ≤ s.mclk then s.putOutput o ((s.output o).fall t) else s)

end Sys2Proof.Machine
end

