-- ==== Sys2Proof/Machine/Clock.lean ====
section
/-! DEFINITION. The Clock Block (R71 to R95): oscillators, candidates, switches, losses, rate and stop; the meanings of
OSCILLATOR_RUNNING, SETTLE_WINDOW_END and INPUT_STATUS_PERIODIC. -/

namespace Sys2Proof.Machine

/-- The word clock input a source names. -/
def Source.input : Source → Option (Fin 2)
  | .wci0 => some 0
  | .wci1 => some 1
  | .int44 | .int48 => none

/-- The oscillator a source names. -/
def Source.osc : Source → Option Osc
  | .int44 => some .int44
  | .int48 => some .int48
  | .wci0 | .wci1 => none

/-- Change a domain's record. -/
def State.mapDomain (s : State) (d : Fin 4) (f : Domain → Domain) : State := s.setDomain d (f (s.domain d))

/-- R87: an event of domain `d`. -/
def State.domainEvent (s : State) (k : EventKind) (d : Fin 4) (d0 d1 : Word) : Event :=
  Event.plain k d.val (s.stampOf d) d0 d1

/-- R87, R88: the domain status record is requested and the event then passed. -/
def State.reportDomain (s : State) (d : Fin 4) (e : Event) : State := (s.request (.domain d)).passEvent e

/-! ## Oscillators (R75) -/

/-- R75: the oscillator is the current reference of a LOCKED domain or the source of a candidate. -/
def State.oscNeeded (s : State) (o : Osc) : Bool :=
  (indices 4).any (fun d =>
    let x := s.domain d
    (x.run == .locked && x.ref.any (fun r => r.osc == some o)) || x.candidate.any (fun c => c.source.osc == some o))

/-- R75: an oscillator starts when it becomes needed and stops when it is no longer needed. -/
def State.tendOsc (s : State) (o : Osc) : State :=
  match s.oscNeeded o, s.osc o with
  | true, .off => s.setOsc o (.starting s.mclk)
  | true, _ => s
  | false, _ => s.setOsc o .off

/-- Both oscillators. -/
def State.tendOscs (s : State) : State := (s.tendOsc .int44).tendOsc .int48

/-! ## Candidates (R76 to R79) -/

/-- R79: the candidate fails or is cancelled. -/
def State.failCandidate (s : State) (d : Fin 4) (cause : ClockCause) (measured : Nat) : State :=
  match (s.domain d).candidate with
  | none => s
  | some c =>
    let t := (s.mapDomain d (fun x => { x with candidate := none })).tendOscs
    t.reportDomain d (t.domainEvent .qualifyFailed d
      (fields [(0, c.source.code), (8, c.origin.code), (16, cause.code)]) (nat32 measured))

/-- R77: a candidate is created; its first phase depends on the source. -/
def State.createCandidate (s : State) (d : Fin 4) (c : Candidate) : State :=
  match c.source.osc with
  | some o =>
    let c' := if s.osc o = .running then { c with phase := .settling, windowStart := some s.mclk }
      else { c with phase := .starting, windowStart := none }
    ((s.mapDomain d (fun x => { x with candidate := some c' })).tendOscs).request (.domain d)
  | none =>
    let t := (s.mapDomain d (fun x => { x with
      candidate := some { c with phase := .settling, windowStart := some s.mclk } })).request (.domain d)
    match c.source.input with
    | none => t
    | some w => if (t.input w).present then t else t.failCandidate d .absent 0

/-- R76: SWITCH_REFERENCE applied. -/
def State.applySwitch (s : State) (d : Fin 4) : Outcome :=
  let s := s.recordRead
  let x := s.domain d
  if x.candidate.isSome then .refused s .busy
  else
    match (s.domainStage d).candidate with
    | none => .refused s .badStage
    | some c =>
      let sameRate := c.family == x.family && c.mult == x.mult
      if sameRate = false ∧ (s.streamsOf d).isEmpty = false then .refused s .wrongState
      else if x.run = .locked ∧ x.ref = some c.source ∧ sameRate then .done s
      else .done (s.createCandidate d c)

/-! ## Switching (R80, R81) -/

/-- R80 steps 1 to 5: the domain takes its candidate's reference; `restart` marks a switch from STOPPED. A rate change still
waiting is older than the candidate's values and is dropped (log 14). -/
def State.switchTo (s : State) (d : Fin 4) (c : Candidate) (at_ : Nat) (restart : Bool) : State :=
  let x := s.domain d
  let wci := c.source.input.isSome
  let y : Domain := { x with
    run := .locked, ref := some c.source, family := c.family, mult := c.mult, tickExp := c.tickExp, settle := c.settle,
    fallback := c.fallback, lastGood := if wci then c.latest else none, candidate := none, rateChange := none,
    afterSwitch := if wci then some at_ else none, edgeOwed := false, lastBoundary := at_ }
  let t := (s.setDomain d y).tendOscs
  let e := t.domainEvent .referenceSwitched d
    (fields [(0, refCode x.ref), (8, c.source.code), (16, c.origin.code)])
    (fields [(0, c.family.code), (8, c.mult.value), (16, c.tickExp)])
  t.reportDomain d { e with flagA := restart }

/-- R80: a running domain switches as a boundary is taken, at time `t`; the records of its lanes that train again stand
behind its own (log 51). -/
def State.switchAtBoundary (s : State) (d : Fin 4) (t : Nat) : State :=
  let x := s.domain d
  match x.candidate with
  | none => s
  | some c =>
    if c.phase = .passed then
      if c.family ≠ x.family ∨ c.mult ≠ x.mult then
        ((s.closeExpectations d).switchTo d c t false).retrainLanes d
      else s.switchTo d c t false
    else s

/-- R78, R81: the candidate passes; a STOPPED domain switches at once. -/
def State.passCandidate (s : State) (d : Fin 4) (c : Candidate) : State :=
  let passed := { c with phase := .passed }
  let t := (s.mapDomain d (fun x => { x with candidate := some passed })).request (.domain d)
  if (s.domain d).run = .stopped then t.switchTo d passed s.mclk true else t

/-- R77, R78: the time at which the settle window of a SETTLING candidate ends. -/
def Candidate.windowEnd (c : Candidate) : Option Nat :=
  if c.phase = .settling then c.windowStart.map (· + Config.settleWindow c.settle) else none

/-- R78: the settle window has ended. A word clock candidate with no measurement fails, detail 0. -/
def State.endWindow (s : State) (d : Fin 4) (c : Candidate) : State :=
  if c.source.input.isSome ∧ c.latest = none then s.failCandidate d .outOfTolerance 0 else s.passCandidate d c

/-- R78: the settle window of domain `d` ends if it has run out by `limit`. -/
def State.windowOver (s : State) (d : Fin 4) (limit : Nat) : State :=
  match (s.domain d).candidate with
  | none => s
  | some c =>
    match c.windowEnd with
    | none => s
    | some t => if t ≤ limit then s.endWindow d c else s

/-! ## Loss (R82 to R84) -/

/-- R82, R84: the domain loses its word clock reference; a fallback becomes a candidate where there is none. -/
def State.loseReference (s : State) (d : Fin 4) (cause : ClockCause) : State :=
  let x := s.domain d
  let taken := x.candidate.isNone && x.fallback.isSome
  let t := s.setDomain d { x with
    run := .holdover, holdStart := x.lastBoundary, holdIndex := 0, afterSwitch := none, edgeOwed := false }
  let e := t.domainEvent .referenceLost d (fields [(0, refCode x.ref), (8, cause.code)]) (nat32 (x.lastGood.getD 0))
  let u := t.reportDomain d { e with flagA := taken }
  match x.candidate, x.fallback with
  | none, some f =>
    u.createCandidate d { source := f, family := x.family, mult := x.mult, tickExp := x.tickExp, settle := x.settle,
                          fallback := x.fallback, origin := .fallback, phase := .starting, windowStart := none,
                          latest := none }
  | _, _ => u

/-- The domain is LOCKED on input `w`. -/
def State.lockedOn (s : State) (w : Fin 2) (d : Fin 4) : Bool :=
  (s.domain d).run == .locked && (s.domain d).ref.any (fun r => r.input == some w)

/-- The domain has a candidate on input `w`. -/
def State.candidateOn (s : State) (w : Fin 2) (d : Fin 4) : Bool :=
  (s.domain d).candidate.any (fun c => c.source.input == some w)

/-- R82, R91: input `w` is ABSENT: domain `d` loses it, and a candidate that was on it fails. -/
def State.inputLost (s : State) (w : Fin 2) (d : Fin 4) : State :=
  let had := s.candidateOn w d
  let t := if s.lockedOn w d then s.loseReference d .absent else s
  if had then t.failCandidate d .absent 0 else t

/-- R78, R79: the candidate of domain `d` judges a measurement. -/
def State.measureCandidate (s : State) (d : Fin 4) (m : Nat) : State :=
  match (s.domain d).candidate with
  | none => s
  | some c =>
    if withinTolerance c.family c.mult m then
      s.mapDomain d (fun x => { x with candidate := some { c with latest := some m } })
    else s.failCandidate d .outOfTolerance m

/-- R82, R92: domain `d` judges a measurement of input `w`. A settle window that ran out before is ended first. -/
def State.measured (s : State) (w : Fin 2) (m : Nat) (d : Fin 4) : State :=
  let s := if s.candidateOn w d then s.windowOver d (s.mclk - 1) else s
  let had := s.candidateOn w d
  let t := if s.lockedOn w d then
      if withinTolerance (s.domain d).family (s.domain d).mult m then
        s.mapDomain d (fun x => { x with lastGood := some m })
      else s.loseReference d .outOfTolerance
    else s
  if had then t.measureCandidate d m else t

/-! ## Rate and stop (R85, R86) -/

/-- R85: SET_RATE applied. On a STOPPED domain the values taken replace a change that waits (log 14). -/
def State.applyRate (s : State) (d : Fin 4) : Outcome :=
  let s := s.recordRead
  let x := s.domain d
  if x.candidate.isSome then .refused s .busy
  else
    match (s.domainStage d).rate with
    | none => .refused s .badStage
    | some r =>
      if (s.streamsOf d).isEmpty = false then .refused s .wrongState
      else if x.running ∧ x.ref.any (·.input.isSome) ∧ r.mult ≠ x.mult then .refused s .wrongState
      else if r.mult = x.mult ∧ r.tickExp = x.tickExp then .done s
      else if x.running then .done (s.setDomain d { x with rateChange := some r })
      else .done ((s.setDomain d { x with mult := r.mult, tickExp := r.tickExp, rateChange := none }).request (.domain d))

/-- R85: a waiting change is made as a boundary is taken; the records of its lanes stand behind its own (log 51). -/
def State.rateAtBoundary (s : State) (d : Fin 4) : State :=
  let x := s.domain d
  match x.rateChange with
  | none => s
  | some r =>
    let changed : Bool := r.mult != x.mult
    let t := if changed then s.closeExpectations d else s
    let u := (t.mapDomain d (fun x => { x with mult := r.mult, tickExp := r.tickExp, rateChange := none })).request (.domain d)
    if changed then u.retrainLanes d else u

/-- R86: STOP_DOMAIN applied; the records of the lanes stand before those of the outputs and the domain (log 51). -/
def State.applyStopDomain (s : State) (d : Fin 4) : Outcome :=
  if (s.streamsOf d).any (fun i => (s.stream i).state.active) then .refused s .wrongState
  else
    let t := s.failCandidate d .cancelled 0
    if (t.domain d).running then
      let u := (t.mapDomain d (fun x => { x with
        run := .stopped, afterSwitch := none, edgeOwed := false })).tendOscs
      .done (((u.retrainLanes d).stopOutputs d).request (.domain d))
    else .done t

/-! ## The commands -/

/-- OSCILLATOR_RUNNING (R75, R77): the candidates on it in rising domain number (log 44). -/
def execOscillatorRunning (o : Osc) (dt : Nat) (s : State) : Result :=
  powered (s.elapse dt) (fun s =>
    match s.osc o with
    | .starting t =>
      let at_ := t + Config.oscillatorStart
      if at_ ≤ s.mclk then
        (indices 4).foldl (fun s d =>
          match (s.domain d).candidate with
          | none => s
          | some c =>
            if c.source.osc = some o ∧ c.phase = .starting then
              (s.mapDomain d (fun x => { x with
                candidate := some { c with phase := .settling, windowStart := some at_ } })).request (.domain d)
            else s) (s.setOsc o .running)
      else s
    | _ => s)

/-- SETTLE_WINDOW_END (R78, R81). -/
def execSettleWindowEnd (d : Fin 4) (dt : Nat) (s : State) : Result :=
  powered (s.elapse dt) (fun s => s.windowOver d s.mclk)

/-- R95: 10 ms have passed since the last 10 ms point; the point moves on by whole periods (log 31). -/
def State.tenMsOver (s : State) : Option Nat :=
  let n := (s.mclk - s.cb.tenMs) / Config.statusPeriod
  if n = 0 then none else some (s.cb.tenMs + n * Config.statusPeriod)

/-- INPUT_STATUS_PERIODIC (R95, R164): the records of one 10 ms point in the order given here (log 44). -/
def execInputStatusPeriodic (dt : Nat) (s : State) : Result :=
  powered (s.elapse dt) (fun s =>
    match s.tenMsOver with
    | none => s
    | some t =>
      ({ s with cb := { s.cb with tenMs := t } } : State).requestAll [.input 0, .input 1, .passCounters, .report])

end Sys2Proof.Machine
end

