-- ==== Sys2Proof/Machine/Cues.lean ====
section
/-! DEFINITION. The Cue Unit (R47 to R70): taking, acceptance, the due arithmetic, the pending cue list, application and
outcomes; the meanings of CUE_TAKE and of the twelve verbs. -/

namespace Sys2Proof.Machine

/-! ## The list (R57) -/

/-- R57: a cue enters the list: before the first cue of its domain that its due frame does not reach. Where the due frames
of a domain span 2^31 or more, a cue that its due frame reaches may stand behind that one (log 52). -/
def insertCue (c : Cue) : List Cue → List Cue
  | [] => [c]
  | x :: xs =>
    if x.body.domain = c.body.domain ∧ reached x.body.due c.body.due = false then c :: x :: xs else x :: insertCue c xs

/-! ## Outcomes (R66 to R68) -/

/-- Detail word 0 of an outcome event. -/
def outcomeWord (tag : Half) (verb : Nat) : Word := fields [(0, tag.toNat), (16, verb)]

/-- R68: CUE_REFUSED. -/
def refusedEvent (index : Byte) (stamp : Option (Fin 4) × Word) (tag : Half) (verb : Nat) (r : Reason) (ph : RefusalPhase)
    (target : Byte) : Event :=
  Event.plain .cueRefused index.toNat stamp (outcomeWord tag verb)
    (fields [(0, r.code), (8, ph.code), (16, target.toNat)])

/-- R66, R68: the outcome of a cue applied with the lateness given. -/
def State.reportOutcome (s : State) (c : Cue) (late : Word) : Option Reason → State
  | some r =>
    s.passEvent (refusedEvent c.body.index (s.stampOf c.body.domain) c.body.tag (verbCode c.verb) r .application c.body.target)
  | none =>
    if c.body.report ∨ c.verb = .mark then
      s.passEvent (Event.plain .cueDone c.body.index.toNat (s.stampOf c.body.domain)
        (outcomeWord c.body.tag (verbCode c.verb)) late)
    else s

/-- The START_STREAM cue of stream `i` in the list (R67). -/
def State.pendingStart (s : State) (i : Fin 32) : Option Cue :=
  s.cu.list.find? (fun c => c.verb == .startStream && streamOf c.body.target == some i)

/-- R67: a STOP_STREAM taken from ring index `stop` cancels the START of a stream whose start record is marked. -/
def State.cancelStart (s : State) (i : Fin 32) (stop : Byte) : State :=
  let x := s.stream i
  if (x.state = .primed ∨ x.state = .halted) ∧ x.start.any (·.mark) then
    match s.pendingStart i with
    | none => s
    | some c =>
      ({ s with cu := { s.cu with list := s.cu.list.erase c } } : State).passEvent
        (Event.plain .cueCancelled c.body.index.toNat (s.stampOf c.body.domain)
          (outcomeWord c.body.tag (verbCode .startStream)) (fields [(0, i.val), (8, stop.toNat)]))
  else s

/-! ## Owners (R62 to R64) -/

/-- R53: the domain check of ASSIGN_LANE. -/
def State.assignMatches (s : State) (l : Fin 8) (d : Fin 4) (arg : Word) : Bool :=
  match (s.lane l).domain with
  | some e => e == d
  | none =>
    match assignTarget arg with
    | some (some e) => e == d
    | some none => true
    | none => false

/-- R62: the domain check repeated at application. -/
def State.applicationCheck (s : State) (c : Cue) : Bool :=
  match c.verb with
  | .stopStream | .swapRing =>
    match streamOf c.body.target with
    | none => true
    | some i => (s.stream i).state == .idle || (s.stream i).geom.any (fun g => g.domain == c.body.domain)
  | .laneCommand =>
    match laneOf c.body.target with
    | none => true
    | some l => (s.lane l).domain == some c.body.domain
  | .assignLane =>
    match laneOf c.body.target with
    | none => true
    | some l => s.assignMatches l c.body.domain c.body.arg0
  | _ => true

/-- R137: a motor cue at application. -/
def State.motorCue (s : State) (c : CueBody) (act : Port → Fin 16 → Port) : Outcome :=
  match portOf c.arg0 with
  | none => .refused s .badTarget
  | some p =>
    let x := s.port p
    if x.up = false then .refused s .portDown
    else
      match indexOf c.arg1.toNat with
      | none => .refused s .badTarget
      | some f => if f.val < x.announced.faders then .done (s.applyMotor p (act x f)) else .refused s .badTarget

/-- R37: SWAP_RING applied, with the stage entry as it then stands. -/
def State.applySwap (s : State) (i : Fin 32) : Outcome :=
  let s := s.recordRead
  let x := s.stream i
  let g' := s.streamStage i
  match x.geom with
  | none => .refused s .wrongState
  | some g =>
    if x.state = .idle ∨ x.state = .primed ∨ x.state = .halted ∨ x.stop.isSome then .refused s .wrongState
    else if x.swap.isSome then .refused s .busy
    else if Direction.ofCode g'.dir ≠ some g.dir ∨ laneOf g'.lane ≠ some g.lane ∨ g'.firstSlot.toNat ≠ g.firstSlot
        ∨ g'.channels.toNat ≠ g.channels ∨ g'.shapeInRange = false then .refused s .badStage
    else
      match s.placePending i g'.base.toNat g'.frames.toNat g'.count.toNat with
      | .error r => .refused s r
      | .ok t =>
        .done ((t.setStream i { x with swap := some ⟨g'.base.toNat, g'.frames.toNat, g'.count.toNat⟩ }).request (.live i))

/-- R96: SET_OUTPUT applied. -/
def State.applySetOutput (s : State) (o : Fin 4) : Outcome :=
  let t := s.recordRead
  match t.applyOutputStage o with
  | none => .refused t .badStage
  | some u => .done u

/-- A target that acceptance has found in range (R52). -/
def onTarget {n : Nat} (s : State) (t : Option (Fin n)) (f : Fin n → Outcome) : Outcome :=
  match t with
  | none => .refused s .badTarget
  | some x => f x

/-- R39, R67: STOP_STREAM applied, with the cancelling of a START. -/
def State.applyStopCue (s : State) (c : CueBody) (i : Fin 32) : Outcome :=
  (s.cancelStart i c.index).applyStop i (StopMode.ofCode c.arg0) c.due

/-- R63: the cue is handed to its owner. -/
def State.handOver (s : State) (c : Cue) : Outcome :=
  let b := c.body
  match c.verb with
  | .startStream => onTarget s (streamOf b.target) s.applyStart
  | .stopStream => onTarget s (streamOf b.target) (s.applyStopCue b)
  | .swapRing => onTarget s (streamOf b.target) s.applySwap
  | .switchReference => onTarget s (domainOf b.target) s.applySwitch
  | .setRate => onTarget s (domainOf b.target) s.applyRate
  | .stopDomain => onTarget s (domainOf b.target) s.applyStopDomain
  | .assignLane =>
    onTarget s (laneOf b.target) (fun l =>
      match assignTarget b.arg0 with
      | none => .refused s .badTarget
      | some t => s.applyAssign l t)
  | .laneCommand => onTarget s (laneOf b.target) (fun l => s.applyCommand l b.arg0)
  | .setOutput => onTarget s (outputOf b.target) s.applySetOutput
  | .motorTarget => s.motorCue b (fun x f => x.motorTo f (b.arg2.extractLsb' 0 10))
  | .motorFree => s.motorCue b Port.motorFree
  | .mark => .done s

/-- R59: a cue is applied whole: the domain check, its owner, its removal from the list and its outcome. A free place
may let a take begin (R58), whose read stands behind the outcome's record in the Record order (log 51). -/
def State.applyCue (s : State) (c : Cue) : State :=
  let late := (s.domain c.body.domain).count - c.body.origin
  let r : State × Option Reason :=
    if s.applicationCheck c then
      match s.handOver c with
      | .done t => (t, none)
      | .refused t r => (t, some r)
    else (s, some .domainMismatch)
  let t : State := { r.1 with cu := { r.1.cu with list := r.1.cu.list.erase c } }
  (t.reportOutcome c late r.2).beginTake

/-! ## Application at a boundary (R59 to R61) -/

/-- The first cue of the domain in list order whose due frame is reached. -/
def State.nextCue (s : State) (d : Fin 4) : Option Cue :=
  s.cu.list.find? (fun c => c.body.domain == d && reached c.body.due (s.domain d).count)

/-- R59 to R61: up to `room` more applications, or all that are reached once the domain is STOPPED. -/
def State.applyCues (s : State) (d : Fin 4) : Nat → Nat → State
  | 0, _ => s
  | fuel + 1, room =>
    if room = 0 ∧ (s.domain d).running then s
    else
      match s.nextCue d with
      | none => s
      | some c => (s.applyCue c).applyCues d fuel (room - 1)

/-- R59: the Cue Unit takes a boundary of domain `d`. -/
def State.cueBoundary (s : State) (d : Fin 4) : State :=
  s.applyCues d s.cu.list.length Config.cuesPerBoundary

/-- R61: the flush of a domain that has just been STOPPED. -/
def State.flushStopped (s : State) (d : Fin 4) : State :=
  if (s.domain d).running then s else s.applyCues d s.cu.list.length 0

/-! ## Acceptance (R51 to R56) -/

/-- R52: the target and arguments of a taken record are in range. -/
def State.targetOk (s : State) (v : Verb) (r : RawCue) : Bool :=
  let motor := match portOf r.arg0 with
    | none => false
    | some p => decide (r.arg1.toNat < if (s.port p).up then (s.port p).announced.faders else 16)
  match v with
  | .startStream | .stopStream | .swapRing => (streamOf r.target).isSome
  | .switchReference | .setRate | .stopDomain => (domainOf r.target).isSome
  | .assignLane => (laneOf r.target).isSome && (assignTarget r.arg0).isSome
  | .laneCommand => (laneOf r.target).isSome
  | .setOutput => (outputOf r.target).isSome
  | .motorTarget => motor && decide (r.arg2.toNat ≤ 1023)
  | .motorFree => motor
  | .mark => true

/-- The stage reading a START_STREAM's acceptance uses throughout (R20). -/
def State.stageOf (s : State) (r : RawCue) : Option (Fin 32 × StreamStage) :=
  (streamOf r.target).map (fun i => (i, s.streamStage i))

/-- R53: the cue's domain is the domain of its target. -/
def State.domainOk (s : State) (v : Verb) (r : RawCue) (d : Fin 4) : Bool :=
  match v with
  | .startStream =>
    match s.stageOf r with
    | none => false
    | some g =>
      match laneOf g.2.lane with
      | none => false
      | some l => (s.lane l).domain == some d
  | .stopStream | .swapRing =>
    match streamOf r.target with
    | none => false
    | some i => (s.stream i).state != .idle && (s.stream i).geom.any (fun g => g.domain == d)
  | .switchReference | .setRate | .stopDomain => domainOf r.target == some d
  | .laneCommand =>
    match laneOf r.target with
    | none => false
    | some l => (s.lane l).domain == some d
  | .assignLane =>
    match laneOf r.target with
    | none => false
    | some l => s.assignMatches l d r.arg0
  | .setOutput | .motorTarget | .motorFree | .mark => true

/-- R54: the Stream Engine's acceptance of a START_STREAM with its start frame. -/
def State.engineAccepts (s : State) (r : RawCue) (d : Fin 4) (start : Word) : Except Reason State :=
  match s.stageOf r with
  | none => .error .badTarget
  | some g =>
    match laneOf g.2.lane with
    | none => .error .domainMismatch
    | some l => s.acceptStart g.1 g.2 l d start

/-- R55, R56: an accepted cue is placed in the list, or applied at once on a STOPPED domain. -/
def State.placeCue (s : State) (index : Byte) (v : Verb) (r : RawCue) (d : Fin 4) : State :=
  let x := s.domain d
  let c := x.count
  let due := r.now || reached r.due c
  let body : CueBody :=
    { index := index, now := r.now, report := r.report, domain := d, target := r.target, tag := r.tag,
      due := if due then c + 1 else r.due,
      origin := if r.now then (if x.running then c + 1 else c) else r.due,
      arg0 := r.arg0, arg1 := r.arg1, arg2 := r.arg2, arg3 := r.arg3 }
  if due ∧ x.running = false then s.applyCue ⟨v, body⟩
  else { s with cu := { s.cu with list := insertCue ⟨v, body⟩ s.cu.list } }

/-- R51, R68: the refusal of a taken record. -/
def State.refuseRecord (s : State) (index : Byte) (r : RawCue) (why : Reason) : State :=
  let stamp := match domainOf r.domain with
    | none => (none, 0)
    | some d => s.stampOf d
  s.passEvent (refusedEvent index stamp r.tag r.verb.toNat why .acceptance r.target)

/-- R20, R175: the acceptance of a START_STREAM reads its stage entry first, once for every check (log 49). -/
def State.readStageFor (s : State) (v : Verb) : State := if v = .startStream then s.recordRead else s

/-- R51: the checks of a taken record, in order. -/
def State.acceptRecord (s : State) (index : Byte) (r : RawCue) : State :=
  match Verb.ofCode r.verb with
  | none => s.refuseRecord index r .badVerb
  | some v =>
    if s.targetOk v r = false then s.refuseRecord index r .badTarget
    else
      match domainOf r.domain with
      | none => s.refuseRecord index r .domainMismatch
      | some d =>
        let s := s.readStageFor v
        if s.domainOk v r d = false then s.refuseRecord index r .domainMismatch
        else if v = .startStream then
          let c := (s.domain d).count
          match s.engineAccepts r d (if r.now || reached r.due c then c + 1 else r.due) with
          | .error why => s.refuseRecord index r why
          | .ok t => t.placeCue index v r d
        else s.placeCue index v r d

/-- R49 steps 1 and 2: what the take in progress has still to read and write is granted in its turn. -/
def State.finishRead (s : State) : State := (s.completeThrough (· == .cueRead)).completeThrough (· == .cueMark)

/-- R49 step 3: the record read is checked, and the take ends. -/
def State.takeCue (s : State) : State :=
  let t := s.finishRead
  match t.cu.record with
  | none => t
  | some r =>
    (({ t with cu := { t.cu with record := none } } : State).acceptRecord (t.cu.takeMark - 1) r).endTake.beginTake

/-! ## The commands -/

/-- A verb row: the cue is applied once its due frame is reached, and not before (R57, log 18). -/
def State.applyIfReached (s : State) (c : Cue) : State :=
  if reached c.body.due (s.domain c.body.domain).count then s.applyCue c else s

/-- CUE_TAKE (R49). -/
def execCueTake (dt : Nat) (s : State) : Result := powered (s.elapse dt) (fun s => if s.cu.taking then s.takeCue else s)

/-- START_STREAM (R26). -/
def execStartStream (c : CueBody) (s : State) : Result := powered s (fun s => s.applyIfReached ⟨.startStream, c⟩)

/-- STOP_STREAM (R39). -/
def execStopStream (c : CueBody) (s : State) : Result := powered s (fun s => s.applyIfReached ⟨.stopStream, c⟩)

/-- SWAP_RING (R37). -/
def execSwapRing (c : CueBody) (s : State) : Result := powered s (fun s => s.applyIfReached ⟨.swapRing, c⟩)

/-- SWITCH_REFERENCE (R76). -/
def execSwitchReference (c : CueBody) (dt : Nat) (s : State) : Result :=
  powered (s.elapse dt) (fun s => s.applyIfReached ⟨.switchReference, c⟩)

/-- SET_RATE (R85). -/
def execSetRate (c : CueBody) (s : State) : Result := powered s (fun s => s.applyIfReached ⟨.setRate, c⟩)

/-- STOP_DOMAIN (R86), with the flush of R61 where it stops the domain. -/
def execStopDomain (c : CueBody) (dt : Nat) (s : State) : Result :=
  powered (s.elapse dt) (fun s =>
    let t := s.applyIfReached ⟨.stopDomain, c⟩
    if (s.domain c.domain).running then t.flushStopped c.domain else t)

/-- ASSIGN_LANE (R104). -/
def execAssignLane (c : CueBody) (s : State) : Result := powered s (fun s => s.applyIfReached ⟨.assignLane, c⟩)

/-- LANE_COMMAND (R116). -/
def execLaneCommand (c : CueBody) (s : State) : Result := powered s (fun s => s.applyIfReached ⟨.laneCommand, c⟩)

/-- SET_OUTPUT (R98). -/
def execSetOutput (c : CueBody) (s : State) : Result := powered s (fun s => s.applyIfReached ⟨.setOutput, c⟩)

/-- MOTOR_TARGET (R137). -/
def execMotorTarget (c : CueBody) (s : State) : Result := powered s (fun s => s.applyIfReached ⟨.motorTarget, c⟩)

/-- MOTOR_FREE (R137). -/
def execMotorFree (c : CueBody) (s : State) : Result := powered s (fun s => s.applyIfReached ⟨.motorFree, c⟩)

/-- MARK (R64). -/
def execMark (c : CueBody) (s : State) : Result := powered s (fun s => s.applyIfReached ⟨.mark, c⟩)

end Sys2Proof.Machine
end

