-- ==== Sys2Proof/Machine/Boundary.lean ====
section
/-! DEFINITION. Frame boundaries (R72 to R74), the catch-up of a loss (R83), the word clock inputs' edges and absence (R91 to
R94); the meanings of FRAME_BOUNDARY, RETRAIN_COUNTDOWN_END, WORD_CLOCK_EDGE and INPUT_ABSENT. -/

namespace Sys2Proof.Machine

/-- The parts of a boundary in the order used where none is given (log 9). -/
def defaultParts : List BoundaryPart :=
  (indices 8).map .lane ++ [.cues] ++ (indices 4).map .output ++ [.tick]

/-- R73: the spec puts no order among the blocks; the parts named come first, and the rest follow (log 9). -/
def partOrder (order : List BoundaryPart) : List BoundaryPart := (order ++ defaultParts).eraseDups

/-- R74: what fires at a tick of domain `d`. -/
def State.tick (s : State) (d : Fin 4) : State :=
  let s1 := s.request (.domain d)
  let s2 := (s1.streamsOf d).foldl (fun s i => s.request (.live i)) s1
  let s3 := (s2.lanesOf d).foldl (fun s l =>
    (s.mapLane l (fun x => { x with lateOut := true, lateIn := true })).request (.lane l)) s2
  (s3.closeWindows d).requestOutputs d

/-- One part of the boundary of domain `d`; a domain that a cue of this boundary has stopped gives its outputs nothing
more and has no tick (R74, R147, log 36). -/
def State.boundaryPart (d : Fin 4) (ticks : Bool) (s : State) : BoundaryPart → State
  | .lane l => s.takeLane d l
  | .cues => s.cueBoundary d
  | .output o => if (s.domain d).running then s.outputBoundary d o else s
  | .tick => if ticks ∧ (s.domain d).running then s.tick d else s

/-- R72: M, the cycles of a holdover run of 64 frames. -/
def Domain.runCycles (x : Domain) (d : Fin 4) : Nat := x.lastGood.getD (Config.unmeasuredSum d.val)

/-- R72: the count of domain `d` rises by 1 at time `t`, and a holdover run goes on by one frame; the next run starts M
cycles after it started. -/
def Domain.count1 (x : Domain) (d : Fin 4) (t : Nat) : Domain :=
  let y := { x with count := x.count + 1, lastBoundary := t, afterSwitch := none }
  if x.run = .holdover then
    if x.holdIndex + 1 < Config.measureBlock then { y with holdIndex := x.holdIndex + 1 }
    else { y with holdIndex := 0, holdStart := x.holdStart + x.runCycles d }
  else y

/-- A boundary of domain `d` is taken whole at time `t`: the count, a waiting rate change (R85), a switch (R80), then the
blocks in the order given (R73). -/
def State.takeBoundary (s : State) (d : Fin 4) (t : Nat) (order : List BoundaryPart) : State :=
  let s1 := s.mapDomain d (fun x => x.count1 d t)
  let s2 := (s1.rateAtBoundary d).switchAtBoundary d t
  let x := s2.domain d
  let ticks := x.count.toNat % 2 ^ x.tickExp == 0
  let s3 : State := { s2 with li := { s2.li with atBoundary := s2.lanesOf d } }
  let s4 := (partOrder order).foldl (State.boundaryPart d ticks) s3
  { s4 with li := { s4.li with atBoundary := [] } }

/-- R72: the time of the next holdover boundary. -/
def Domain.holdoverDue (x : Domain) (d : Fin 4) : Nat :=
  x.holdStart + (x.holdIndex + 1) * x.runCycles d / Config.measureBlock

/-- R80, R81: an edge at time `t` ends the frame that follows a switch at `t0` when it comes at least half a nominal frame
period after it. -/
def Domain.edgeEndsFrame (x : Domain) (t : Nat) : Bool :=
  match x.afterSwitch with
  | none => true
  | some t0 => decide (100000000 ≤ 2 * rateOf x.family x.mult * (t - t0))

/-- R72, R94: the time of a boundary that domain `d` may take now, and the domain's record with the edge accounted for
(log 10, log 11); `none` where no boundary is due. A domain LOCKED on an input takes one only for an edge that has come. -/
def State.boundaryDue (s : State) (d : Fin 4) : Option (Nat × Domain) :=
  let x := s.domain d
  match x.run with
  | .stopped => none
  | .holdover => if x.holdoverDue d ≤ s.mclk then some (x.holdoverDue d, x) else none
  | .locked =>
    match x.ref.bind Source.input with
    | none => some (s.mclk, x)
    | some w =>
      if x.edgeOwed then some ((s.input w).lastEdge, { x with edgeOwed := false }) else none

/-- A boundary of domain `d`, if one is due. -/
def State.boundary (s : State) (d : Fin 4) (order : List BoundaryPart) : State :=
  match s.boundaryDue d with
  | none => s
  | some b => (s.setDomain d b.2).takeBoundary d b.1 order

/-- R83: the boundaries that holdover timing places up to the moment of loss are taken at that moment, in order. A PASSED
candidate switches at the first of them (R84). R83 takes all that holdover timing places, R80 times the frame after a switch
from the new reference: the model ends the catch-up at the switch and takes the rest no more (DESIGN CHOICE, log 57). -/
def State.catchUp (s : State) (d : Fin 4) (moment : Nat) (order : List BoundaryPart) : Nat → State
  | 0 => s
  | fuel + 1 =>
    let x := s.domain d
    if x.run = .holdover ∧ x.holdoverDue d ≤ moment then
      (s.takeBoundary d moment order).catchUp d moment order fuel
    else s

/-- R83: how many boundaries the time up to the moment of loss can hold. -/
def State.catchUpFuel (s : State) (d : Fin 4) (moment : Nat) : Nat :=
  let x := s.domain d
  Config.measureBlock * (moment - x.holdStart) / x.runCycles d + 1

/-- R82, R83: after a step of domain `d` on `s` that may have lost its reference, the boundaries up to that moment. -/
def State.afterLoss (s : State) (d : Fin 4) (moment : Nat) (order : List BoundaryPart) (t : State) : State :=
  if (s.domain d).run = .locked ∧ (t.domain d).run = .holdover then t.catchUp d moment order (t.catchUpFuel d moment)
  else t

/-- R94: domain `d`, LOCKED on input `w`, takes the boundary it still owes the input's last edge. -/
def State.settleEdge (w : Fin 2) (order : List BoundaryPart) (s : State) (d : Fin 4) : State :=
  if s.lockedOn w d ∧ (s.domain d).edgeOwed then s.boundary d order else s

/-- R91: a PRESENT input becomes ABSENT; each domain takes its loss and its candidate's failure on its own, after the
boundary of the last edge (log 10). That the input's record (R95) is asked for first, and only then each domain's record with
its REFERENCE_LOST and QUALIFY_FAILED, is the model's choice (DESIGN CHOICE, log 58); so is the rising number of the domains
(log 44). -/
def State.goAbsent (s : State) (w : Fin 2) (order : List BoundaryPart) : State :=
  let s := (indices 4).foldl (State.settleEdge w order) s
  let x := s.input w
  let moment := x.lastEdge + Config.absenceLimit
  let t := (s.setInput w { x with present := false, absences := satInc x.absences, stale := x.latest.isSome,
                                  blockEdges := 0 }).request (.input w)
  (indices 4).foldl (fun s d => s.afterLoss d moment order (s.inputLost w d)) t

/-- R91: the input has had no edge for at least `limit` cycles. -/
def State.edgeless (s : State) (w : Fin 2) (limit : Nat) : Bool :=
  (s.input w).present && decide ((s.input w).lastEdge + limit ≤ s.mclk)

/-- R72, R80: an edge of input `w` now is a boundary of domain `d`. -/
def State.edgeMakesBoundary (s : State) (w : Fin 2) (d : Fin 4) : Bool :=
  s.lockedOn w d && (s.domain d).edgeEndsFrame s.mclk

/-- R94, "Boundary taken first": domain `d` takes the boundary of the edge that comes now. -/
def State.boundaryFirst (w : Fin 2) (order : List BoundaryPart) (s : State) (d : Fin 4) : State :=
  if s.edgeMakesBoundary w d then s.takeBoundary d s.mclk order else s

/-- R94, "Measurement taken first": domain `d` has still to take the boundary of the edge that comes now. -/
def State.oweBoundary (w : Fin 2) (s : State) (d : Fin 4) : State :=
  if s.edgeMakesBoundary w d then s.mapDomain d (fun x => { x with edgeOwed := true, afterSwitch := none }) else s

/-- R92: a rising edge on a PRESENT input restarts the absence count; the 64th of a block completes a measurement, which
every domain judges, in rising number (log 44). -/
def State.countEdge (s : State) (w : Fin 2) (order : List BoundaryPart) : State :=
  let x := s.input w
  if x.blockEdges + 1 < Config.measureBlock then
    s.setInput w { x with lastEdge := s.mclk, blockEdges := x.blockEdges + 1 }
  else
    let m := s.mclk - x.blockStart
    let t := s.setInput w { x with lastEdge := s.mclk, blockStart := s.mclk, blockEdges := 0, latest := some m,
                                   stale := false, measurements := x.measurements + 1 }
    (indices 4).foldl (fun s d => s.afterLoss d s.mclk order (s.measured w m d)) t

/-- R92, R94: a rising edge on a PRESENT input. The domains in `first` take its boundary before the measurement is judged,
the others owe it and take it with their FRAME_BOUNDARY; each has taken that of the edge before (log 10). Domains that
take one edge take it in rising number (log 44). -/
def State.presentEdge (s : State) (w : Fin 2) (first : List (Fin 4)) (order : List BoundaryPart) : State :=
  let s0 := (indices 4).foldl (State.settleEdge w order) s
  let early := (indices 4).filter (first.contains ·)
  let late := (indices 4).filter (!first.contains ·)
  late.foldl (State.oweBoundary w) ((early.foldl (State.boundaryFirst w order) s0).countEdge w order)

/-- R91, R92: a rising edge on input `w`. An absence that ran out before it is taken first (log 13). -/
def State.risingEdge (s : State) (w : Fin 2) (first : List (Fin 4)) (order : List BoundaryPart) : State :=
  let t := if s.edgeless w (Config.absenceLimit + 1) then s.goAbsent w order else s
  if (t.input w).present then t.presentEdge w first order
  else
    (t.setInput w { t.input w with present := true, lastEdge := t.mclk, blockStart := t.mclk, blockEdges := 0 }).request
      (.input w)

/-! ## The commands -/

/-- FRAME_BOUNDARY (R72). -/
def execFrameBoundary (d : Fin 4) (dt : Nat) (order : List BoundaryPart) (s : State) : Result :=
  powered (s.elapse dt) (fun s => s.boundary d order)

/-- RETRAIN_COUNTDOWN_END (R117): the boundary of the lane's domain that ends its countdown. -/
def execRetrainCountdownEnd (l : Fin 8) (dt : Nat) (order : List BoundaryPart) (s : State) : Result :=
  powered (s.elapse dt) (fun s =>
    match (s.lane l).state, (s.lane l).countdown, (s.lane l).domain with
    | .fault, some 1, some d => s.boundary d order
    | _, _, _ => s)

/-- WORD_CLOCK_EDGE (R92). -/
def execWordClockEdge (w : Fin 2) (dt : Nat) (order : EdgeOrder) (s : State) : Result :=
  powered (s.elapse dt) (fun s => s.risingEdge w order.first order.parts)

/-- INPUT_ABSENT (R91). -/
def execInputAbsent (w : Fin 2) (dt : Nat) (order : List BoundaryPart) (s : State) : Result :=
  powered (s.elapse dt) (fun s => if s.edgeless w Config.absenceLimit then s.goAbsent w order else s)

end Sys2Proof.Machine
end

