-- ==== Sys2Proof/Machine/Transactions.lean ====
section
/-! DEFINITION. What becomes of a transaction that the bridge presents (R168, R169, R171, R176); the meanings of the host's
transactions. -/

namespace Sys2Proof.Machine

/-- R168, R169, R171: the bridge presents a transaction. With the port closed or a transaction in hand it waits at the
bridge, of which the part holds no record (log 8). One that needs a grant is in hand from then on; left `waiting`, it is
granted by a later row, and otherwise at the arbitration points that follow at once (log 7). -/
def State.passTake (s : State) (t : PassTransaction) (waiting : Bool) : State :=
  if s.phase ≠ .opened ∨ s.pp.inHand.isSome then s
  else
    match s.ungranted t with
    | some r => s.answer t r.1 r.2
    | none =>
      let u : State := { s with pp := { s.pp with inHand := some t } }
      if waiting then u else u.grantInTurn Config.grantPoints

/-! ## The commands -/

/-- A write into the block at `offset` of the control area. -/
def State.blockTake (s : State) (offset : Nat) (w : BlockWrite) : State := s.passTake (w.transaction s offset) w.waits

/-- PASS_TRANSACTION (R169). -/
def execPassTransaction (t : PassTransaction) (waits : Bool) (s : State) : Result := powered s (fun s => s.passTake t waits)

/-- PLAYBACK_RING_WRITE (R11). -/
def execPlaybackRingWrite (w : HostWrite) (s : State) : Result := powered s (fun s => s.passTake w.transaction w.waits)

/-- CAPTURE_RING_READ (R16). -/
def execCaptureRingRead (r : HostRead) (s : State) : Result := powered s (fun s => s.passTake r.transaction r.waits)

/-- CUE_POST_MARK_WRITE (R48). -/
def execCuePostMarkWrite (w : BlockWrite) (s : State) : Result := powered s (fun s => s.blockTake 0x1840 w)

/-- EVENT_TAKE_MARK_WRITE (R162): the take mark word begins its block. -/
def execEventTakeMarkWrite (w : BlockWrite) (s : State) : Result := powered s (fun s => s.blockTake 0x1880 w)

/-- ATTENTION_MASK_WRITE (R163): the mask word is the second of its block. -/
def execAttentionMaskWrite (w : BlockWrite) (s : State) : Result := powered s (fun s => s.blockTake 0x1880 w)

/-- STAMP_DOMAIN_WRITE (R132). -/
def execStampDomainWrite (p : Fin 2) (w : BlockWrite) (s : State) : Result :=
  powered s (fun s => s.blockTake (0x9800 + 512 * p.val) w)

/-- GROUP_REFERENCE_SELECT_WRITE (R133). -/
def execGroupReferenceSelectWrite (p : Fin 2) (w : BlockWrite) (s : State) : Result :=
  powered s (fun s => s.blockTake (0x9840 + 512 * p.val) w)

/-- FADER_WINDOW_WRITE (R135). -/
def execFaderWindowWrite (p : Fin 2) (w : BlockWrite) (s : State) : Result :=
  powered s (fun s => s.blockTake (0x9880 + 512 * p.val) w)

/-- LADDER_BINDING_WRITE (R141). -/
def execLadderBindingWrite (p : Fin 2) (w : BlockWrite) (s : State) : Result :=
  powered s (fun s => s.blockTake (0x98C0 + 512 * p.val) w)

/-- ENCODER_NOTIFY_MASK_WRITE (R139). -/
def execEncoderNotifyMaskWrite (p : Fin 2) (w : BlockWrite) (s : State) : Result :=
  powered s (fun s => s.blockTake (0x9800 + 512 * p.val) w)

/-- LAMP_ROW_WRITE (R140). -/
def execLampRowWrite (p : Fin 2) (w : BlockWrite) (s : State) : Result :=
  powered s (fun s => s.blockTake (0x9900 + 512 * p.val) w)

/-- THRESHOLD_WORD_WRITE (R151): slots `16 q` to `16 q + 15` of lane `l`. -/
def execThresholdWordWrite (l : Fin 8) (q : Fin 4) (w : BlockWrite) (s : State) : Result :=
  powered s (fun s => s.blockTake (0xA000 + 256 * l.val + 64 * q.val) w)

end Sys2Proof.Machine
end

