-- ==== Sys2Proof/Machine/Sequences.lean ====
section
/-! DEFINITION. Power-on, start-up and host reset (R166, R167, R178 to R182); the meanings of the reset pins' commands and
of the sequences' but for the opening of the Pass Port. -/

namespace Sys2Proof.Machine

/-- The records rewritten after a scrub, in order (R166, R167); the start-up word comes last. The rules order their numbered
items; that the domain, lane, output and input records of item 2 stand in the order in which it names the kinds, each kind
in rising number, is the model's choice, and so is the pass counters record before the report record of item 3 (DESIGN
CHOICE, log 59). -/
def rewriteOrder : List RecordId :=
  [.identity] ++ (indices 4).map .domain ++ (indices 8).map .lane ++ (indices 4).map .output ++ (indices 2).map .input ++
    [.passCounters, .report]

/-- R179, R181: the scrub has written zeros over the whole control area, each write a grant to Record. -/
def State.scrubbed (s : State) (next : Phase) : State :=
  { s with mem := s.mem.clear s.base s.mc.size.bytes, phase := next, mc := { s.mc with scrubNext := none, records := [], lastOfThree := .record } }

/-- R167: a write whose transactions have begun is completed with no further effect; the others are abandoned. -/
def abandon (l : List RecordItem) : List RecordItem :=
  (l.filter (·.begun)).map (fun it => { it with work := .orphan, events := [] })

/-- R167: the Report Unit at host reset. -/
def ReportUnit.hostReset : ReportUnit := { ReportUnit.powerOn with startWord := .resetting }

/-- R180 steps 3 to 5: the pass counters clear and the blocks reset; the Memory Controller carries on. -/
def State.resetBlocks (s : State) : State :=
  let t : State := { s with
    phase := .hostReset, rw := Vector.replicate 32 none, cu := CueUnit.powerOn, ru := ReportUnit.hostReset,
    pp := { PassPort.powerOn with answer := s.pp.answer },
    mc := { s.mc with scrubNext := none, records := abandon s.mc.records } }
  ((t.resetStreams).resetLanes.resetSurfaces).resetMeters

/-- R180 step 1: the transaction in hand completes: it waits for its grant like any other (R176, log 7). -/
def State.finishInHand (s : State) : State :=
  let u := s.grantInTurn Config.grantPoints
  match u.pp.inHand with
  | none => u
  | some t => u.grantPass t

/-- PORN_ASSERT (R178). -/
def execPornAssert (s : State) : Result := .next (State.powerOn s.mclk s.hrstn s.pending)

/-- PORN_RELEASE (R174, R179 step 1); the 10 ms of R95 are timed from it (log 31). -/
def execPornRelease (msel : BitVec 2) (refsel : BitVec 1) (dt : Nat) (s : State) : Result :=
  let t := s.elapse dt
  .next (if s.phase = .held then
    { t with phase := .bringUp, cb := { t.cb with tenMs := t.mclk }, mc := { t.mc with
        size := MemSize.ofStrap msel, refresh := if refsel = 0 then .us78 else .us39, releasedAt := t.mclk } }
  else t)

/-- SDRAM_BRING_UP (R179 step 2, R177). -/
def execSdramBringUp (dt : Nat) (s : State) : Result :=
  powered (s.elapse dt) (fun s =>
    if s.phase = .bringUp ∧ s.mc.releasedAt + Config.bringUpWait ≤ s.mclk then
      { s with phase := .scrub, mc := { s.mc with
          refreshTimer := some s.mclk, refreshPending := 0, scrubNext := some 0 } }
    else s)

/-- START_UP_SCRUB_COMPLETE (R166, R179 steps 3 and 4, log 21); the image of port 0 before that of port 1 (log 59). -/
def execStartUpScrubComplete (s : State) : Result :=
  powered s (fun s =>
    if s.phase = .scrub then
      let t := (s.scrubbed .records).requestAll rewriteOrder
      ((t.requestImage 0 []).requestImage 1 []).request .startWord
    else s)

/-- HRSTN_ASSERT (R179, R180, R182). -/
def execHrstnAssert (s : State) : Result :=
  let t : State := { s with hrstn := true }
  .next (match s.phase with
    | .opened => t.finishInHand.resetBlocks
    | .hostReset | .hostScrub | .hostRecords => t.resetBlocks
    | .held | .bringUp | .scrub | .records => t)

/-- HRSTN_RELEASE (R181). -/
def execHrstnRelease (s : State) : Result :=
  let t : State := { s with hrstn := false }
  .next (if s.phase = .hostReset then { t with phase := .hostScrub, mc := { t.mc with scrubNext := some 0 } } else t)

/-- HOST_RESET_SCRUB_COMPLETE (R167, R181 steps 1 and 2); the blocks' requests stand in this order (log 51). -/
def execHostResetScrubComplete (s : State) : Result :=
  powered s (fun s =>
    if s.phase = .hostScrub then
      (((s.scrubbed .hostRecords).restoreSurfaces.restoreMeters).requestAll rewriteOrder).request .startWord
    else s)

end Sys2Proof.Machine
end

