-- ==== Sys2Proof/Machine/Opening.lean ====
section
/-! DEFINITION. The opening of the Pass Port at the end of a start-up or of a host reset (R166, R179, R181); the meanings of
the commands at which the write of READY may complete: PASS_PORT_OPEN, MEMORY_ARBITRATION, EVENT_RECORD_WRITTEN,
METER_TABLE_WRITTEN and SURFACE_IMAGE_WRITTEN. -/

namespace Sys2Proof.Machine

/-- The records of a start-up or of a host reset are being written, and the port opens when READY is (R179, R181). -/
def Phase.opens : Phase → Bool
  | .records | .hostRecords => true
  | .held | .bringUp | .scrub | .opened | .hostReset | .hostScrub => false

/-- The request is for the start-up word, READY (R166). -/
def RecordWork.isReady (w : RecordWork) : Bool := w == .status .startWord

/-- R179 step 5, R181 step 3: the port opens; with HRSTn asserted at that moment of a start-up the host reset follows
instead (R179). -/
def State.openPort (s : State) : State :=
  if s.phase = .records ∧ s.hrstn = true then s.resetBlocks
  else { s with phase := .opened, ru := { s.ru with startWord := .ready } }

/-- R181 step 3: READY is written, and with it all that was asked for before it; the port opens at that moment, and what
stands behind READY stays in the Record order (log 22). -/
def State.writeReady (s : State) : State :=
  if s.phase.opens then (s.completeThrough RecordWork.isReady).openPort else s

/-- R181 step 3: the port opens where READY has left the Record order. -/
def State.openWhenReady (s : State) : State :=
  if s.phase.opens ∧ s.mc.records.any (·.work.isReady) = false then s.openPort else s

/-- READY stands before the first request whose work is `p`. -/
def readyBefore (p : RecordWork → Bool) (l : List RecordItem) : Bool :=
  match l.findIdx? (·.work.isReady), l.findIdx? (fun it => p it.work) with
  | some r, some i => decide (r < i)
  | _, _ => false

/-- A completion row: the items up to and including the first whose work is `p` (log 20). Where READY stands before it, the
port opens at READY's write, before that item's (R181, log 22). -/
def State.completeRow (s : State) (p : RecordWork → Bool) : State :=
  (if readyBefore p s.mc.records then s.writeReady else s).completeThrough p

/-! ## The commands -/

/-- PASS_PORT_OPEN (R179 step 5, R181 step 3). -/
def execPassPortOpen (s : State) : Result := powered s State.writeReady

/-- MEMORY_ARBITRATION (R176); the port opens where the grant was READY's. -/
def execMemoryArbitration (s : State) : Result := powered s (fun s => s.arbitrate.openWhenReady)

/-- EVENT_RECORD_WRITTEN (R159): the oldest reserved record is written, and then posted. -/
def execEventRecordWritten (s : State) : Result :=
  powered s (fun s =>
    let slot := s.ru.written
    (s.completeRow (·.isSlot slot)).completeRow (·.isSlot slot))

/-- METER_TABLE_WRITTEN (R148, R149). -/
def execMeterTableWritten (l : Fin 8) (s : State) : Result := powered s (fun s => s.completeRow (· == .meterTable l))

/-- SURFACE_IMAGE_WRITTEN (R131). -/
def execSurfaceImageWritten (p : Fin 2) (s : State) : Result :=
  powered s (fun s => s.completeRow (fun w => w == .image p || w == .wholeImage p))

end Sys2Proof.Machine
end

