-- ==== Sys2Proof/Machine/Dispatch.lean ====
section
/-! DEFINITION. One arm per command, each a direct call of its meaning. -/

namespace Sys2Proof.Machine

def exec (i : Instr) (s : State) : Host.Outcome State Fault Refusal :=
  match i with
  | .passTransaction t waits => Sys2Proof.Machine.execPassTransaction t waits s
  | .playbackRingWrite w => Sys2Proof.Machine.execPlaybackRingWrite w s
  | .captureRingRead r => Sys2Proof.Machine.execCaptureRingRead r s
  | .cuePostMarkWrite w => Sys2Proof.Machine.execCuePostMarkWrite w s
  | .eventTakeMarkWrite w => Sys2Proof.Machine.execEventTakeMarkWrite w s
  | .attentionMaskWrite w => Sys2Proof.Machine.execAttentionMaskWrite w s
  | .stampDomainWrite p w => Sys2Proof.Machine.execStampDomainWrite p w s
  | .groupReferenceSelectWrite p w => Sys2Proof.Machine.execGroupReferenceSelectWrite p w s
  | .faderWindowWrite p w => Sys2Proof.Machine.execFaderWindowWrite p w s
  | .ladderBindingWrite p w => Sys2Proof.Machine.execLadderBindingWrite p w s
  | .encoderNotifyMaskWrite p w => Sys2Proof.Machine.execEncoderNotifyMaskWrite p w s
  | .lampRowWrite p w => Sys2Proof.Machine.execLampRowWrite p w s
  | .thresholdWordWrite l q w => Sys2Proof.Machine.execThresholdWordWrite l q w s
  | .cueTake dt => Sys2Proof.Machine.execCueTake dt s
  | .frameBoundary d dt order => Sys2Proof.Machine.execFrameBoundary d dt order s
  | .startStream c => Sys2Proof.Machine.execStartStream c s
  | .stopStream c => Sys2Proof.Machine.execStopStream c s
  | .swapRing c => Sys2Proof.Machine.execSwapRing c s
  | .switchReference c dt => Sys2Proof.Machine.execSwitchReference c dt s
  | .setRate c => Sys2Proof.Machine.execSetRate c s
  | .stopDomain c dt => Sys2Proof.Machine.execStopDomain c dt s
  | .assignLane c => Sys2Proof.Machine.execAssignLane c s
  | .laneCommand c => Sys2Proof.Machine.execLaneCommand c s
  | .setOutput c => Sys2Proof.Machine.execSetOutput c s
  | .motorTarget c => Sys2Proof.Machine.execMotorTarget c s
  | .motorFree c => Sys2Proof.Machine.execMotorFree c s
  | .mark c => Sys2Proof.Machine.execMark c s
  | .retrainCountdownEnd l dt order => Sys2Proof.Machine.execRetrainCountdownEnd l dt order s
  | .wordClockEdge w dt order => Sys2Proof.Machine.execWordClockEdge w dt order s
  | .inputAbsent w dt order => Sys2Proof.Machine.execInputAbsent w dt order s
  | .oscillatorRunning o dt => Sys2Proof.Machine.execOscillatorRunning o dt s
  | .settleWindowEnd d dt => Sys2Proof.Machine.execSettleWindowEnd d dt s
  | .outputRise o dt => Sys2Proof.Machine.execOutputRise o dt s
  | .outputFall o dt => Sys2Proof.Machine.execOutputFall o dt s
  | .inputStatusPeriodic dt => Sys2Proof.Machine.execInputStatusPeriodic dt s
  | .surfaceCounterPeriodic p dt => Sys2Proof.Machine.execSurfaceCounterPeriodic p dt s
  | .laneFrameReceived l f => Sys2Proof.Machine.execLaneFrameReceived l f s
  | .memoryArbitration => Sys2Proof.Machine.execMemoryArbitration s
  | .refreshInterval dt => Sys2Proof.Machine.execRefreshInterval dt s
  | .streamFetch st => Sys2Proof.Machine.execStreamFetch st s
  | .streamStore st => Sys2Proof.Machine.execStreamStore st s
  | .eventRecordWritten => Sys2Proof.Machine.execEventRecordWritten s
  | .meterTableWritten l => Sys2Proof.Machine.execMeterTableWritten l s
  | .surfaceImageWritten p => Sys2Proof.Machine.execSurfaceImageWritten p s
  | .announce p faders groups encoders ladders checksum dt => Sys2Proof.Machine.execAnnounce p faders groups encoders ladders checksum dt s
  | .buttons p group states checksum dt => Sys2Proof.Machine.execButtons p group states checksum dt s
  | .faderReport p index low high checksum dt => Sys2Proof.Machine.execFaderReport p index low high checksum dt s
  | .encoderReport p index delta checksum dt => Sys2Proof.Machine.execEncoderReport p index delta checksum dt s
  | .idleReport p checksum dt => Sys2Proof.Machine.execIdleReport p checksum dt s
  | .surfaceSilenceTimeout p dt => Sys2Proof.Machine.execSurfaceSilenceTimeout p dt s
  | .surfaceCommandSent p => Sys2Proof.Machine.execSurfaceCommandSent p s
  | .pornAssert => Sys2Proof.Machine.execPornAssert s
  | .pornRelease msel refsel dt => Sys2Proof.Machine.execPornRelease msel refsel dt s
  | .sdramBringUp dt => Sys2Proof.Machine.execSdramBringUp dt s
  | .startUpScrubComplete => Sys2Proof.Machine.execStartUpScrubComplete s
  | .passPortOpen => Sys2Proof.Machine.execPassPortOpen s
  | .hrstnAssert => Sys2Proof.Machine.execHrstnAssert s
  | .hrstnRelease => Sys2Proof.Machine.execHrstnRelease s
  | .hostResetScrubComplete => Sys2Proof.Machine.execHostResetScrubComplete s
  | .malformedSurfaceMessage p bytes => Sys2Proof.Machine.execMalformedSurfaceMessage p bytes s

end Sys2Proof.Machine
end

