-- ==== Sys2Proof/Safety.lean ====
section
/-! DEFINITION. What counts as a safe run: no command stops the block, and the state keeps the laws that the manual states of
the part. -/

namespace Sys2Proof.Machine

/-- The step answers a next state. -/
def completes (s : State) : Prop := ∃ t, step s = .next t

/-- A property that every step keeps. -/
def keptByStep (p : State → Prop) : Prop := ∀ s t, p s → step s = .next t → p t

/-- R57: the pending cue list never holds more than 64 cues, and a take in progress has a free place for its cue. -/
def CueUnit.bounded (x : CueUnit) : Prop :=
  x.list.length ≤ Config.pendingCues ∧ (x.taking = true → x.list.length < Config.pendingCues)

/-- R57: the due frames of each domain's cues lie within half the circle of frame numbers, so that "reached" orders them. -/
def State.duesTogether (s : State) : Prop :=
  ∀ d, ∃ b : Word, ∀ c ∈ s.cu.list, c.body.domain = d → reached b c.body.due = true

/-- R57: the list is ordered within each domain by due frame. -/
def State.cuesOrdered (s : State) : Prop :=
  s.cu.list.Pairwise (fun x y => x.body.domain = y.body.domain → reached x.body.due y.body.due = true)

/-- The request is for an event record whose slot is reserved, or for its posting (R159). -/
def RecordItem.isEvent (it : RecordItem) : Bool :=
  match it.work with
  | .event _ _ | .posting _ _ => true
  | _ => false

/-- R158: the reserved records, which are not posted yet. -/
def State.reservedRecords (s : State) : Nat := s.mc.records.countP (·.isEvent)

/-- R158 to R160: the class record names each unread and each reserved record, which together never exceed 1023; none is
reserved while a scrub holds the writes back. -/
def State.ringSound (s : State) : Prop :=
  s.ru.classes.length = s.ru.occupied ∧ s.ru.unreadCount + s.reservedRecords = s.ru.classes.length ∧
    (s.phase.holdsWrites = true → s.reservedRecords = 0)

/-- R163: ATTN is asserted exactly while an enabled class has unread records. -/
def ReportUnit.attnRight (x : ReportUnit) : Prop := x.attn = x.attnLevel

/-- What every step keeps: memory in canonical form, the refresh count of R177, the cue list of R57, the event ring of R160
and the level of ATTN (R163). -/
structure State.Sound (s : State) : Prop where
  memory : s.mem.wf = true
  refresh : s.mc.refreshPending ≤ Config.refreshMax
  cues : s.cu.bounded
  ring : s.ringSound
  attn : s.ru.attnRight

/-- R3: the ring is not empty, is aligned and ends at or below the first byte of the control area. -/
def Ring.fitsBelow (r : Ring) (controlBase : Nat) : Prop := r.base % 64 = 0 ∧ r.base + r.bytes ≤ controlBase

/-- R3, R4: the rings of two streams never share a byte, and no ring reaches into the control area; under PORn there is no
ring at all (R19). -/
structure State.RingsApart (s : State) : Prop where
  apart : ∀ i j e f, i ≠ j → s.entry i = some e → s.entry j = some f →
    ∀ r ∈ e.rings, ∀ q ∈ f.rings, rangesOverlap r.base r.bytes q.base q.bytes = false
  within : ∀ i e, s.entry i = some e → ∀ r ∈ e.rings, r.fitsBelow s.base
  held : s.phase = .held → ∀ i, s.entry i = none

/-- R136: a TARGET is pending only for a DRIVEN motor, a DRIVEN motor's fader is untouched, and a DOWN port has nothing
pending (R129). -/
structure Port.Interlocked (x : Port) : Prop where
  target : ∀ f : Fin 16, x.dirty[motorItem f] = .target → x.motors[f].state = .driven
  driven : ∀ f : Fin 16, x.motors[f].state = .driven → x.faders[f].touched = false
  down : x.up = false → ∀ k : Fin 48, x.dirty[k] = .clean

/-- R136: both ports. -/
def State.Interlocked (s : State) : Prop := ∀ p, (s.port p).Interlocked

/-! ## Frames -/

/-- `t` differs from `s` at most in the Record order and the Report Unit. -/
structure ReportOnly (s t : State) : Prop where
  mclk : t.mclk = s.mclk
  hrstn : t.hrstn = s.hrstn
  phase : t.phase = s.phase
  mem : t.mem = s.mem
  pp : t.pp = s.pp
  rw : t.rw = s.rw
  se : t.se = s.se
  cu : t.cu = s.cu
  cb : t.cb = s.cb
  li : t.li = s.li
  si : t.si = s.si
  mu : t.mu = s.mu
  pending : t.pending = s.pending
  mc : t.mc = { s.mc with records := t.mc.records }

/-- What the Stream Engine's work may change: memory, the directory, the streams and slot maps, the lanes' staging and late
allowances, the Record order and the Report Unit; nothing else of the state. -/
structure EngineOnly (s t : State) : Prop where
  mclk : t.mclk = s.mclk
  hrstn : t.hrstn = s.hrstn
  phase : t.phase = s.phase
  pp : t.pp = s.pp
  cu : t.cu = s.cu
  cb : t.cb = s.cb
  si : t.si = s.si
  mu : t.mu = s.mu
  pending : t.pending = s.pending
  mc : t.mc = { s.mc with records := t.mc.records }
  atBoundary : t.li.atBoundary = s.li.atBoundary
  lanes : ∀ l, t.lane l = { s.lane l with
    outbound := (t.lane l).outbound, inbound := (t.lane l).inbound, lateOut := (t.lane l).lateOut,
    lateIn := (t.lane l).lateIn }

end Sys2Proof.Machine
end

