-- ==== Sys2Proof/Certificates/Slice0/Obligations.lean ====
section
/-! DEFINITION. The statements for the provers. -/

open Sys2Proof Sys2Proof.Machine

/-! ## The machine -/

/-- A step takes the command at the front of the queue and runs it on the state with the queue's rest. -/
def Obligations.StepRunsFrontCommand : Prop :=
  ∀ (c : Instr) (rest : List Instr) (s : State), s.pending = c :: rest → step s = exec c { s with pending := rest }

/-- The commands that reach the part while PORn is asserted (R178). -/
def Sys2Proof.Instr.reachesHeld : Instr → Bool
  | .pornAssert | .pornRelease _ _ _ | .hrstnAssert | .hrstnRelease => true
  | _ => false

/-- With an empty queue the block idles (the model's choice, log 3). R178: under PORn every other command leaves all
but the time as it was. -/
def Obligations.NothingHappensWithoutCause : Prop :=
  (∀ s : State, s.pending = [] → step s = .next s) ∧
  (∀ (c : Instr) (s : State), s.phase = .held → c.reachesHeld = false →
    ∃ n, exec c s = .next { s with mclk := s.mclk + n })

/-- Every command is answered by a next state, and no command touches the queue. That a row whose event is not due is
answered too, with nothing changed but the time, is the model's choice (log 4). -/
def Obligations.EveryCommandIsAnswered : Prop :=
  ∀ (c : Instr) (s : State), ∃ t, exec c s = .next t ∧ t.pending = s.pending

/-- R178 with the power-on values of R19, R46, R69, R75, R89, R91, R95, R96, R101, R122, R143, R145, R158, R166, R173,
R176 and R177: whatever the part was doing, PORN_ASSERT leaves it in its power-on state. The values of the fields that
no rule gives a power-on value for are the model's choice (log 32). -/
def Obligations.PornAssertGivesPowerOnState : Prop :=
  ∀ s : State, ∃ t, exec .pornAssert s = .next t ∧ t.phase = .held ∧ t.mclk = s.mclk ∧ t.hrstn = s.hrstn ∧
    (∀ d, (t.domain d).run = .stopped ∧ (t.domain d).ref = none ∧ (t.domain d).family = .f48 ∧
      (t.domain d).mult = .x1 ∧ (t.domain d).count = 0 ∧ (t.domain d).tickExp = 8 ∧ (t.domain d).settle = 0 ∧
      (t.domain d).fallback = none ∧ (t.domain d).lastGood = none ∧ (t.domain d).candidate = none ∧
      (t.domain d).rateChange = none ∧ (t.domain d).edgeOwed = false ∧ (t.domain d).afterSwitch = none) ∧
    (∀ o, t.osc o = .off) ∧
    (∀ w, (t.input w).present = false ∧ (t.input w).latest = none ∧ (t.input w).stale = false ∧
      (t.input w).absences = 0 ∧ (t.input w).measurements = 0) ∧
    (∀ o, (t.output o).state = .off ∧ (t.output o).line = false ∧ (t.output o).settings.enable = false ∧
      (t.output o).settings.domain = 0 ∧ (t.output o).settings.divider = .x1 ∧ (t.output o).pendingSettings = none ∧
      (t.output o).lastHalf = none ∧ (t.output o).lastFall = s.mclk ∧ (t.output o).passedOver = 0 ∧
      (t.output o).riseAt = none ∧ (t.output o).fallAt = none) ∧
    (∀ l, t.lane l = {
      state := .idle, domain := none, trainingRun := 0, badRun := 0, countdown := none, expected := none, queue := [],
      lastStatus := none, counters := ⟨0, 0, 0, 0, 0, 0, 0, 0, 0⟩, lateOut := true, lateIn := true, sent := none,
      outbound := Vector.replicate 4 ⟨Vector.replicate 64 0, []⟩, inbound := [] }) ∧
    (∀ i, t.stream i = {
      state := .idle, geom := none, period := 0, frame := 0, start := none, stamp := none, stop := none, swap := none,
      resumeMark := false, counters := ⟨0, 0, 0, 0, 0, 0, 0, 0⟩, next := 0, words := 0, starved := none,
      crossed := false, lastFrame := none, swapDropped := false }) ∧
    (∀ dir l, t.slotMap dir l = Vector.replicate 64 none) ∧
    (∀ i, t.entry i = none) ∧
    t.cu = { takeMark := 0, postMark := 0, taking := false, record := none, drained := false, list := [] } ∧
    (∀ p, t.port p = {
      up := false, announced := ⟨0, 0, 0, 0⟩, silence := none, buttons := Vector.replicate 16 0,
      diverged := Vector.replicate 16 false, faders := Vector.replicate 16 ⟨0, false, .inside⟩,
      motors := Vector.replicate 16 ⟨.free, none⟩, encoders := Vector.replicate 16 0,
      ladders := Vector.replicate 16 0, dirty := Vector.replicate 48 .clean, roundRobin := lampItem 0,
      welcome := false, incoming := [], inFlight := none, counters := ⟨0, 0, 0, 0, 0, 0⟩, mirrors := Mirrors.zero }) ∧
    Mirrors.zero = {
      stampDomain := 0, groups := Vector.replicate 16 ⟨0, 0⟩, windows := Vector.replicate 16 ⟨0, 0⟩,
      bindings := Vector.replicate 16 ⟨0, 0, false⟩, notify := 0, lamps := Vector.replicate 16 0 } ∧
    (∀ l, t.window l = {
      peaks := Vector.replicate 64 0, good := 0, closing := 0, table := none, events := [] }) ∧
    (∀ l i, t.watch l i = { mode := .off, threshold := 0, run := 1, flag := false, silence := 0 }) ∧
    t.ru = { postMark := 0, written := 0, takeMark := 0, classes := [], unread := ⟨0, 0, 0⟩, lost := 0, lostFaults := 0,
             refusedTakes := 0, mask := ⟨false, false, false⟩, attn := false, startWord := .init } ∧
    t.pp.inHand = none ∧ t.pp.reads = 0 ∧ t.pp.writes = 0 ∧ t.pp.refused = 0 ∧ t.pp.noMemory = 0 ∧ t.pp.errors = 0 ∧
    t.mc.refreshTimer = none ∧ t.mc.refreshPending = 0 ∧ t.mc.records = [] ∧ t.mc.lastOfThree = .record ∧
    t.mc.laneTurn = 7 ∧ t.mc.laneDir = Vector.replicate 8 .inbound

/-- The machine starts in that power-on state with nothing queued, nothing listed in memory and HRSTn released (log 1,
log 5). The laws of `State.Sound` hold at reset. R3, R4: no ring shares a byte or reaches the control area, at reset.
R136: at reset no motor target is pending for a touched fader. No boundary is in hand at reset. -/
def Obligations.ResetMeetsTheLaws : Prop :=
  (exec .pornAssert State.reset = .next State.reset ∧ State.reset.phase = .held ∧ State.reset.pending = [] ∧
    State.reset.mem = [] ∧ State.reset.mclk = 0 ∧ State.reset.hrstn = false) ∧
  (State.reset.Sound) ∧
  (State.reset.RingsApart) ∧
  (State.reset.Interlocked) ∧
  (State.reset.li.atBoundary = [])

/-- Every step keeps the canonical memory, the bound of R177, the bound of the cue list of R57, the event ring of R160
and the level of ATTN of R163. R57: it keeps the list of each domain in the order of its due frames too, wherever the
due frames left in it lie within half the circle of frame numbers, so that "reached" orders them. -/
def Obligations.EveryStepKeepsSound : Prop :=
  keptByStep State.Sound ∧
  ∀ s t : State, s.cuesOrdered → step s = .next t → t.duesTogether → t.cuesOrdered

/-- R3, R4: rings of two streams never share a byte, and none reaches the control area, after every step. -/
def Obligations.EveryStepKeepsRingsApart : Prop := keptByStep State.RingsApart

/-- R136: while a fader is reported touched its motor is not DRIVEN and no target is pending for it, after every step.
-/
def Obligations.EveryStepKeepsInterlock : Prop := keptByStep State.Interlocked

/-- R72, R73: a boundary is taken whole, with its count, before the next: between steps no lane has one still to take.
-/
def Obligations.NoBoundaryInHandBetweenSteps : Prop :=
  keptByStep (fun s => s.li.atBoundary = [])

/-- The commands at which a frame boundary may be taken, or PORn clear the counts (R72, R83, R178). -/
def Sys2Proof.Instr.movesCounts : Instr → Bool
  | .frameBoundary _ _ _ | .retrainCountdownEnd _ _ _ | .wordClockEdge _ _ _ | .inputAbsent _ _ _ | .pornAssert => true
  | _ => false

/-- R72: a frame count moves only where a boundary is taken, or at power-on. -/
def Obligations.OnlyBoundariesMoveCounts : Prop :=
  ∀ (c : Instr) (s t : State), c.movesCounts = false → exec c s = .next t → ∀ d, (t.domain d).count = (s.domain d).count

/-- R72: a boundary of the domain that has edge `lastEdge` of its input last is due by `now`: it falls at `at_`, and `y` is
the domain's record once the edge that made it has been accounted for. An oscillator's boundary falls when its row
stands (log 11), an input's at its last edge, whose boundary is still owed (log 10). -/
def Sys2Proof.Machine.boundaryFalls (x : Domain) (lastEdge now at_ : Nat) (y : Domain) : Prop :=
  (x.run = .locked ∧ (x.ref = some .int44 ∨ x.ref = some .int48) ∧ at_ = now ∧ y = x) ∨
  (x.run = .locked ∧ (x.ref = some .wci0 ∨ x.ref = some .wci1) ∧ x.edgeOwed = true ∧ at_ = lastEdge ∧
    y = { x with edgeOwed := false }) ∨
  (∃ m, x.run = .holdover ∧ x.lastGood = some m ∧ at_ = x.holdStart + (x.holdIndex + 1) * m / 64 ∧ at_ ≤ now ∧ y = x)

/-- R72: a boundary is due. -/
def Sys2Proof.Machine.boundaryIsDue (x : Domain) (now : Nat) : Prop :=
  (x.run = .locked ∧ (x.ref = some .int44 ∨ x.ref = some .int48)) ∨
  (x.run = .locked ∧ (x.ref = some .wci0 ∨ x.ref = some .wci1) ∧ x.edgeOwed = true) ∨
  (∃ m, x.run = .holdover ∧ x.lastGood = some m ∧ x.holdStart + (x.holdIndex + 1) * m / 64 ≤ now)

/-- The last edge of the input that a domain is referenced to, if it is. -/
def Sys2Proof.Machine.State.edgeOf (s : State) (d : Fin 4) : Nat :=
  (s.input (if (s.domain d).ref = some .wci1 then 1 else 0)).lastEdge

/-- R73: what each of the blocks makes of a boundary of domain `d`, which may be a tick. -/
def Sys2Proof.Machine.State.blockTakes (d : Fin 4) (ticks : Bool) (u : State) (p : BoundaryPart) : State :=
  let stopped := (u.domain d).run == .stopped
  match p with
  | .lane l => u.takeLane d l
  | .cues => u.cueBoundary d
  | .output o => if stopped then u else u.outputBoundary d o
  | .tick => if stopped || !ticks then u else u.tick d

/-- R72: a due boundary is taken: the domain's count rises by exactly 1, and no other count and no word clock input
changes; a STOPPED domain takes no boundary, and only the time passes. R73: a boundary is taken at its time: the count, a
waiting rate change (R85), a switch (R80), and then each lane of the domain, the cues, the outputs and the tick once, the
parts named by the row first, in its order (the spec puts no order among the blocks, log 9); a domain that a cue of the
boundary stops gives its outputs nothing more and has no tick (log 36). An oscillator's boundary falls when its row stands
(log 11), an input's at its last edge (log 10). R72: a holdover run of 64 frames goes on by one frame, and the next starts
M cycles after it. R74, R121, R100: what fires at a tick: the domain record, the live records of its streams, the late
allowances and records of its lanes, the closing of their windows, and the records of its outputs that are not OFF, each
group in rising number; that order, and the order of the groups, is the model's choice (log 44). -/
def Obligations.BoundariesRaiseTheCount : Prop :=
  (∀ (d : Fin 4) (dt : Nat) (order : List BoundaryPart) (s : State), s.phase ≠ .held →
    boundaryIsDue (s.domain d) (s.mclk + dt) →
    ∃ t, exec (.frameBoundary d dt order) s = .next t ∧ t.mclk = s.mclk + dt ∧
      (t.domain d).count = (s.domain d).count + 1 ∧ (∀ e, e ≠ d → (t.domain e).count = (s.domain e).count) ∧
      ∀ w, t.input w = s.input w) ∧
  (∀ (d : Fin 4) (dt : Nat) (order : List BoundaryPart) (s : State), (s.domain d).run = .stopped →
    exec (.frameBoundary d dt order) s = .next { s with mclk := s.mclk + dt }) ∧
  (∀ (d : Fin 4) (dt : Nat) (order : List BoundaryPart) (s : State) (at_ : Nat) (y : Domain), s.phase ≠ .held →
    boundaryFalls (s.domain d) (s.edgeOf d) (s.mclk + dt) at_ y →
    exec (.frameBoundary d dt order) s =
      .next ((({ s with mclk := s.mclk + dt } : State).setDomain d y).takeBoundary d at_ order)) ∧
  (∀ (d : Fin 4) (order : List BoundaryPart) (s : State) (at_ : Nat),
    let x := s.domain d
    let counted : Domain := { x with count := x.count + 1, lastBoundary := at_, afterSwitch := none }
    ∃ y, (x.run ≠ .holdover → y = counted) ∧
      (x.run = .holdover → x.holdIndex + 1 < 64 → y = { counted with holdIndex := x.holdIndex + 1 }) ∧
      (∀ m, x.run = .holdover → 64 ≤ x.holdIndex + 1 → x.lastGood = some m →
        y = { counted with holdIndex := 0, holdStart := x.holdStart + m }) ∧
      let u := ((s.setDomain d y).rateAtBoundary d).switchAtBoundary d at_
      ∃ parts : List BoundaryPart, parts.Nodup ∧ (∀ p, p ∈ parts) ∧ (order.Nodup → order <+: parts) ∧
        let v := parts.foldl (State.blockTakes d ((u.domain d).count.toNat % 2 ^ (u.domain d).tickExp == 0))
          { u with li := { u.li with atBoundary := (List.finRange 8).filter (fun l => (u.lane l).domain == some d) } }
        s.takeBoundary d at_ order = { v with li := { v.li with atBoundary := [] } }) ∧
  (∀ (d : Fin 4) (s : State),
    let ofDomain := (List.finRange 32).filter (s.isStreamOf d)
    let lanes := (List.finRange 8).filter (fun l => (s.lane l).domain == some d)
    let shown := (List.finRange 4).filter (fun o => (s.output o).settings.domain == d && (s.output o).state != .off)
    let live := ofDomain.foldl (fun u i => u.request (.live i)) (s.request (.domain d))
    let allowed := lanes.foldl (fun u l => (u.setLane l { u.lane l with lateOut := true, lateIn := true }).request (.lane l)) live
    let closed := lanes.foldl (fun u l => u.closeWindow d l) allowed
    s.tick d = shown.foldl (fun u o => u.request (.output o)) closed)

/-! ## Power-on, start-up and host reset -/

/-- The records of R166 and R167, in the order they are rewritten; the order within a numbered item of R166 is the model's
choice (log 59). -/
def Sys2Proof.Machine.statusOrder : List RecordId :=
  [.identity, .domain 0, .domain 1, .domain 2, .domain 3, .lane 0, .lane 1, .lane 2, .lane 3, .lane 4, .lane 5, .lane 6,
    .lane 7, .output 0, .output 1, .output 2, .output 3, .input 0, .input 1, .passCounters, .report]

/-- R174, R179 step 1: the straps are read once, at the release of PORn; released PORn takes no straps (that the 10 ms of
R95 are timed from there is the model's choice, log 31). R179 step 2, R177: 200 us after the release the SDRAM is up, the
refresh timer starts with the pending count at 0, and the scrub begins. R179 steps 3 and 4, R166: the scrub leaves zeros
over the control area and nothing else changed, and the records are asked for in order, the start-up word last; the images
asked for before it are the model's reading (log 21). The order within one numbered item of R166, each kind of record in
rising number, and port 0 before port 1 and the meter tables in rising lane number, are the model's choice (log 59). R181
steps 1 and 2: the scrub leaves zeros over the control area, memory below is kept, and every status record and then the
start-up word are asked for. R144, R155: so are each surface's whole image and each lane's pending meter table; that the
images and then the tables stand before the status records, requests of other blocks that R175 leaves in either order, is
the model's choice (log 51). R144, R130: on a port that is UP every lamp row and every ladder below the announced counts is
dirty, and what can be drawn is drawn; nothing else of the surfaces or of the meters changes. -/
def Obligations.StartUpRunsItsSteps : Prop :=
  (∀ (msel : BitVec 2) (refsel : BitVec 1) (dt : Nat) (s : State),
    (s.phase = .held → exec (.pornRelease msel refsel dt) s = .next { s with
      mclk := s.mclk + dt, phase := .bringUp,
      cb := { s.cb with tenMs := s.mclk + dt },
      mc := { s.mc with
        size := if msel = 0#2 then .mib64 else if msel = 1#2 then .mib128 else .mib256,
        refresh := if refsel = 0#1 then .us78 else .us39, releasedAt := s.mclk + dt } }) ∧
    (s.phase ≠ .held → exec (.pornRelease msel refsel dt) s = .next { s with mclk := s.mclk + dt })) ∧
  (∀ (dt : Nat) (s : State), s.phase = .bringUp → s.mc.releasedAt + 20000 ≤ s.mclk + dt →
    exec (.sdramBringUp dt) s = .next { s with
      mclk := s.mclk + dt, phase := .scrub,
      mc := { s.mc with refreshTimer := some (s.mclk + dt), refreshPending := 0, scrubNext := some 0 } }) ∧
  (∀ s : State, s.phase = .scrub → s.Sound →
    ∃ t, exec .startUpScrubComplete s = .next t ∧ t.phase = .records ∧ t.mc.scrubNext = none ∧
      (∀ a, s.base ≤ a → a < s.mc.size.bytes → t.mem.readByte a = 0) ∧
      (∀ a, a < s.base ∨ s.mc.size.bytes ≤ a → t.mem.readByte a = s.mem.readByte a) ∧
      t.mc.records.map (·.work) = statusOrder.map .status ++ [.image 0, .image 1, .status .startWord] ∧
      t.mc.lastOfThree = .record ∧
      t.cb = s.cb ∧ t.li = s.li ∧ t.si = s.si ∧ t.se = s.se ∧ t.cu = s.cu ∧ t.mu = s.mu ∧ t.ru = s.ru ∧ t.rw = s.rw ∧
      t.pp = s.pp) ∧
  (∀ s : State, s.phase = .hostScrub → s.Sound →
    ∃ t, exec .hostResetScrubComplete s = .next t ∧ t.phase = .hostRecords ∧
      (∀ a, s.base ≤ a → a < s.mc.size.bytes → t.mem.readByte a = 0) ∧
      (∀ a, a < s.base ∨ s.mc.size.bytes ≤ a → t.mem.readByte a = s.mem.readByte a) ∧
      t.mc.records.map (·.work) = [.wholeImage 0, .wholeImage 1] ++
        ((List.finRange 8).filter (fun l => (s.window l).table.isSome)).map .meterTable ++
        statusOrder.map .status ++ [.status .startWord] ∧
      (∀ p, ∃ y : Port, t.port p = y.draw ∧ y = { s.port p with dirty := y.dirty } ∧ ∀ i : Fin 16,
        (y.dirty[lampItem i] = if (s.port p).up = true ∧ i.val < (s.port p).announced.groups then .dirty
          else (s.port p).dirty[lampItem i]) ∧
        (y.dirty[ladderItem i] = if (s.port p).up = true ∧ i.val < (s.port p).announced.ladders then .dirty
          else (s.port p).dirty[ladderItem i]) ∧
        y.dirty[motorItem i] = (s.port p).dirty[motorItem i]) ∧
      t.mu = s.mu ∧ t.rw = s.rw ∧ t.pp = s.pp ∧
      t.cb = s.cb ∧ t.li = s.li ∧ t.se = s.se ∧ t.cu = s.cu ∧ t.ru = s.ru)

/-- R144: the port's record after a host reset, before anything is drawn from its dirty set: every motor that was not FREE
is FREE with no target, and RELEASE is marked for it on an UP port; every mirror is 0, every group conforms, every ladder
is at level 0, and every window is the zero window, judged from the fader's position; nothing else has changed. -/
def Sys2Proof.Machine.surfaceResetOf (x y : Port) : Prop :=
  y = { x with
    motors := y.motors, faders := y.faders, dirty := y.dirty, mirrors := Mirrors.zero,
    diverged := Vector.replicate 16 false, ladders := Vector.replicate 16 0 } ∧
  ∀ f : Fin 16,
    y.motors[f] = (if x.motors[f].state = .free then x.motors[f] else ⟨.free, none⟩) ∧
    y.faders[f] = { x.faders[f] with window := if x.faders[f].position = 0 then .inside else .outside } ∧
    y.dirty[motorItem f] = (if x.up = true ∧ x.motors[f].state ≠ .free then .release else x.dirty[motorItem f]) ∧
    y.dirty[lampItem f] = x.dirty[lampItem f] ∧ y.dirty[ladderItem f] = x.dirty[ladderItem f]

/-- R180, R19, R46, R70, R122, R144, R155, R167: the host reset of every block, the Clock Block, memory and the Memory
Controller's course untouched: every stream as at power-on, staging zero in both directions and the late allowances
granted (R29), each lane's queued words counted as dropped, and the surfaces' records those of R144, with what can be
drawn drawn. That the Record order keeps just the writes already begun, and that the events held for a pending meter
table are dropped, is the model's reading (log 27). -/
def Sys2Proof.Machine.hostResetOf (s t : State) : Prop :=
  t.phase = .hostReset ∧ t.hrstn = true ∧ t.mclk = s.mclk ∧ t.cb = s.cb ∧ t.mem = s.mem ∧
  t.pp = { inHand := none, reads := 0, writes := 0, refused := 0, noMemory := 0, errors := 0, answer := s.pp.answer } ∧
  (∀ i, t.entry i = none) ∧
  (∀ i, t.stream i = Stream.powerOn) ∧
  (∀ dir l, t.slotMap dir l = Vector.replicate 64 none) ∧
  t.cu = { takeMark := 0, postMark := 0, taking := false, record := none, drained := false, list := [] } ∧
  (∀ l, t.lane l = { s.lane l with
    queue := [], outbound := Vector.replicate 4 ⟨Vector.replicate 64 0, []⟩, inbound := [], lateOut := true, lateIn := true,
    counters := { (s.lane l).counters with
      dropped := satAdd (s.lane l).counters.dropped (s.lane l).queue.length } }) ∧
  t.li.atBoundary = s.li.atBoundary ∧
  (∀ p, ∃ y, surfaceResetOf (s.port p) y ∧ t.port p = y.draw) ∧
  (∀ l, t.window l = { s.window l with events := [] }) ∧
  (∀ l i, t.watch l i = { mode := .off, threshold := 0, run := 1, flag := false, silence := 0 }) ∧
  t.ru = { postMark := 0, written := 0, takeMark := 0, classes := [], unread := ⟨0, 0, 0⟩, lost := 0, lostFaults := 0,
           refusedTakes := 0, mask := ⟨false, false, false⟩, attn := false, startWord := .resetting } ∧
  t.mc = { s.mc with
    scrubNext := none,
    records := (s.mc.records.filter (·.begun)).map (fun it => { it with work := .orphan, events := [] }) }

/-- `u` is `s` with READY written, and with it all that stands before it in the Record order (R175); where READY has left
the order already, `u` is `s`. -/
def Sys2Proof.Machine.readyWritten (s u : State) : Prop :=
  (∃ before it rest, s.mc.records = before ++ it :: rest ∧ it.work = .status .startWord ∧
    (∀ x ∈ before, x.work ≠ .status .startWord) ∧ u = s.completeItems (before.length + 1)) ∨
  ((∀ x ∈ s.mc.records, x.work ≠ .status .startWord) ∧ u = s)

/-- R179 step 5, R166: with HRSTn released the Pass Port opens and the start-up word becomes READY; the clocks, the
lanes, the surfaces and the streams are as they were. R181 step 3: the port opens at the end of a host reset whatever
HRSTn does. The port opens when READY is written, and with it what was asked for before it; what stands behind READY stays
in the order. R181: so no event is written or posted before the port opens, where none stands before READY, and the event
ring holds no unread record it did not hold. R179, R180: with HRSTn asserted at that moment of a start-up the port does not
open, and the host reset follows. That the row stands for the grants of READY and of what stands before it is the model's
reading (log 22). -/
def Obligations.PassPortOpensWhenReady : Prop :=
  (∀ s : State, s.phase = .records → s.hrstn = false →
    ∃ t, exec .passPortOpen s = .next t ∧ t.phase = .opened ∧ t.ru.startWord = .ready ∧
      t.cb = s.cb ∧ t.li = s.li ∧ t.si = s.si ∧ t.se = s.se ∧ t.rw = s.rw ∧ t.pp = s.pp ∧ t.mclk = s.mclk ∧
      t.cu = { s.cu with takeMark := t.cu.takeMark, record := t.cu.record }) ∧
  (∀ s : State, s.phase = .hostRecords →
    ∃ t, exec .passPortOpen s = .next t ∧ t.phase = .opened ∧ t.ru.startWord = .ready ∧
      t.cb = s.cb ∧ t.li = s.li ∧ t.si = s.si ∧ t.se = s.se ∧ t.rw = s.rw ∧ t.pp = s.pp ∧
      t.cu = { s.cu with takeMark := t.cu.takeMark, record := t.cu.record }) ∧
  (∀ s u : State, s.phase = .records ∧ s.hrstn = false ∨ s.phase = .hostRecords → readyWritten s u →
    exec .passPortOpen s = .next { u with phase := .opened, ru := { u.ru with startWord := .ready } }) ∧
  (∀ (s : State) (before rest : List RecordItem) (it : RecordItem),
    s.phase = .records ∧ s.hrstn = false ∨ s.phase = .hostRecords → s.mc.records = before ++ it :: rest →
    it.work = .status .startWord →
    (∀ x ∈ before, x.work ≠ .status .startWord ∧ x.isEvent = false) →
    ∃ t, exec .passPortOpen s = .next t ∧ (∃ more, t.mc.records.map (·.work) = rest.map (·.work) ++ more) ∧
      t.ru.written = s.ru.written ∧ t.ru.takeMark = s.ru.takeMark ∧ t.ru.unread = s.ru.unread ∧ t.ru.attn = s.ru.attn) ∧
  (∀ s u : State, s.phase = .records → s.hrstn = true → readyWritten s u →
    ∃ t, exec .passPortOpen s = .next t ∧ hostResetOf u t)

/-- R180, R182: HRSTn asserted with no transaction in hand, the port open or a host reset running, resets the blocks. With
one in hand, that one is granted in its turn and performed first: the blocks reset at the arbitration point that granted
it (R176), of which the model runs 16384 at most (log 7); where Pass is granted next, they reset right after that grant.
What is left of the Record order and of the meters' events is the model's reading (log 27). While the start-up sequence
runs the pin alone changes (R179). R181: HRSTn released starts the scrub; outside a host reset the pin alone changes. -/
def Obligations.HrstnResetsTheBlocks : Prop :=
  ((∀ s : State, (s.phase = .opened ∧ s.pp.inHand = none) ∨ s.phase = .hostReset ∨ s.phase = .hostScrub ∨
      s.phase = .hostRecords → ∃ t, exec .hrstnAssert s = .next t ∧ hostResetOf s t) ∧
  (∀ s : State, s.phase = .opened → s.pp.inHand ≠ none →
    let point (n : Nat) : State := State.arbitrate^[n] { s with hrstn := true }
    ∃ n ≤ 16384, (∀ k < n, (point k).pp.inHand ≠ none) ∧ ∃ t, exec .hrstnAssert s = .next t ∧
      (((point n).pp.inHand = none ∧ hostResetOf (point n) t) ∨
        (n = 16384 ∧ ∃ x, (point n).pp.inHand = some x ∧ hostResetOf ((point n).grantPass x) t))) ∧
  (∀ (s : State) (x : PassTransaction), s.phase = .opened → s.pp.inHand = some x →
    s.mc.refreshPending = 0 → s.urgentStream = none →
    (s.mc.lastOfThree = .record ∨ (s.mc.lastOfThree = .stream ∧ s.recordReady = false) ∨
      (s.mc.lastOfThree = .pass ∧ s.streamWork = none ∧ s.recordReady = false)) →
    ∃ t, exec .hrstnAssert s = .next t ∧ hostResetOf (({ s with hrstn := true } : State).grantPass x) t) ∧
  (∀ s : State, s.phase = .bringUp ∨ s.phase = .scrub ∨ s.phase = .records →
    exec .hrstnAssert s = .next { s with hrstn := true })) ∧
  ((∀ s : State, s.phase = .hostReset → exec .hrstnRelease s = .next { s with
    hrstn := false, phase := .hostScrub, mc := { s.mc with scrubNext := some 0 } }) ∧
  (∀ s : State, s.phase ≠ .hostReset → exec .hrstnRelease s = .next { s with hrstn := false }))

/-! ## The Pass Port -/

/-- The port takes transactions and has none in hand (R168). -/
abbrev Sys2Proof.Machine.State.portFree (s : State) : Prop := s.phase = .opened ∧ s.pp.inHand = none

/-- R176: a request of Pass is granted at the next arbitration point: no refresh is pending, no lane is short, and the
rotation comes to Pass before another requester that has a request. -/
abbrev Sys2Proof.Machine.State.passIsNext (s : State) : Prop :=
  s.mc.refreshPending = 0 ∧ s.urgentStream = none ∧
    (s.mc.lastOfThree = .record ∨ (s.mc.lastOfThree = .stream ∧ s.recordReady = false) ∨
      (s.mc.lastOfThree = .pass ∧ s.streamWork = none ∧ s.recordReady = false))

/-- The port takes transactions, and one that needs a grant has it at once (R168, R176). -/
abbrev Sys2Proof.Machine.State.portReady (s : State) : Prop := s.portFree ∧ s.passIsNext

/-- R169: what is answered without a grant, in the order of the tests: an ill-shaped transaction, an address at or
above the installed size, a write that enables no byte, and a write into a part-owned region. Nothing but the answer
and its counter changes. R168, R171: a transaction presented while the port is closed or has one in hand waits at the
bridge, and the part holds nothing of it; one left waiting for its grant is held, and nothing else changes (log 7, log
8). R171, R176: one not left waiting goes through the arbitration points up to its grant, of which the model runs 16384
at most (log 7). R170: a host write into a part-owned region never changes memory. R168, R170: each of the other twelve
host rows is the pass transaction of its words at its address. -/
def Obligations.UngrantedTransactionsAreAnswered : Prop :=
  (∀ (x : PassTransaction) (waits : Bool) (s : State), s.portFree →
    (x.wellShaped = false → exec (.passTransaction x waits) s = .next { s with
      pp := { s.pp with errors := satInc s.pp.errors, answer := some ⟨.error, []⟩ } }) ∧
    (x.wellShaped = true → s.mc.size.bytes ≤ x.start → exec (.passTransaction x waits) s = .next { s with
      pp := { s.pp with noMemory := satInc s.pp.noMemory, answer := some ⟨.noMemory,
        match x.op with | .read n => List.replicate n 0 | .write _ => []⟩ } }) ∧
    (x.wellShaped = true → x.start < s.mc.size.bytes → x.enablesNothing = true →
      exec (.passTransaction x waits) s = .next { s with
        pp := { s.pp with writes := s.pp.writes + 1, answer := some ⟨.okay, []⟩ } }) ∧
    (∀ ws, x.op = .write ws → x.wellShaped = true → x.start < s.mc.size.bytes → x.enablesNothing = false →
      s.partOwnedAt x.start = true → exec (.passTransaction x waits) s = .next { s with
        pp := { s.pp with refused := satInc s.pp.refused, answer := some ⟨.refused, []⟩ } })) ∧
  ((∀ (x : PassTransaction) (waits : Bool) (s : State), s.phase ≠ .opened ∨ s.pp.inHand ≠ none →
    exec (.passTransaction x waits) s = .next s) ∧
  (∀ (x : PassTransaction) (s : State), s.portFree → s.ungranted x = none →
    exec (.passTransaction x true) s = .next { s with pp := { s.pp with inHand := some x } }) ∧
  (∀ (x : PassTransaction) (s : State), s.portFree → s.ungranted x = none →
    let point (n : Nat) : State := State.arbitrate^[n] { s with pp := { s.pp with inHand := some x } }
    ∃ n ≤ 16384, exec (.passTransaction x false) s = .next (point n) ∧ (∀ k < n, (point k).pp.inHand ≠ none) ∧
      (n < 16384 → (point n).pp.inHand = none))) ∧
  (∀ (x : PassTransaction) (ws : List WriteWord) (waits : Bool) (s t : State), x.op = .write ws →
    s.partOwnedAt x.start = true → exec (.passTransaction x waits) s = .next t → t.mem = s.mem) ∧
  (∀ (h : HostWrite) (r : HostRead) (w : BlockWrite) (s : State) (p : Fin 2) (l : Fin 8) (q : Fin 4),
    let block (offset : Nat) : Host.Outcome State Fault Refusal := exec (.passTransaction
      ⟨BitVec.ofNat 32 (s.base + offset + 4 * w.start.val), .write w.words⟩ w.waits) s
    exec (.playbackRingWrite h) s = exec (.passTransaction ⟨h.addr, .write h.words⟩ h.waits) s ∧
    exec (.captureRingRead r) s = exec (.passTransaction ⟨r.addr, .read r.length⟩ r.waits) s ∧
    exec (.cuePostMarkWrite w) s = block 0x1840 ∧ exec (.eventTakeMarkWrite w) s = block 0x1880 ∧
    exec (.attentionMaskWrite w) s = block 0x1880 ∧
    exec (.stampDomainWrite p w) s = block (0x9800 + 512 * p.val) ∧
    exec (.encoderNotifyMaskWrite p w) s = block (0x9800 + 512 * p.val) ∧
    exec (.groupReferenceSelectWrite p w) s = block (0x9840 + 512 * p.val) ∧
    exec (.faderWindowWrite p w) s = block (0x9880 + 512 * p.val) ∧
    exec (.ladderBindingWrite p w) s = block (0x98C0 + 512 * p.val) ∧
    exec (.lampRowWrite p w) s = block (0x9900 + 512 * p.val) ∧
    exec (.thresholdWordWrite l q w) s = block (0xA000 + 256 * l.val + 64 * q.val))

/-- R170, R183, R199, R201: the word at an offset of the control area has no watcher: it is none of the cue post mark, the
event take mark and the attention mask, no configuration word of a surface port, and no threshold word. -/
def Sys2Proof.Machine.unwatched (o : Nat) : Prop :=
  o ≠ 0x1840 ∧ o ≠ 0x1880 ∧ o ≠ 0x1884 ∧ ¬ (0xA000 ≤ o ∧ o < 0xA800) ∧
    ¬ (0x9800 ≤ o ∧ o < 0x9C00 ∧ (o % 512 < 8 ∨ (64 ≤ o % 512 ∧ o % 512 < 320)))

/-- On a port where Pass is granted next (R176). R168, R169, R171, R9: a read that makes no claim, outside every ring, of
a playback ring, or of a capture ring without the last word of its period, returns the words of memory and changes nothing
else. R168, R169, R170, R9: a write that makes no claim, outside every ring or into a capture ring, below the control area
or of host-owned words that no block watches, stores its enabled bytes; every byte outside its words keeps its value;
nothing else changes. -/
def Obligations.PlainTransactionsReachMemory : Prop :=
  (∀ (x : PassTransaction) (n : Nat) (s : State), s.portReady → x.op = .read n → x.wellShaped = true →
    x.start < s.mc.size.bytes →
    (∀ f, s.findRing x.start = some f → f.entry.dir = .play ∨
      ¬ (x.start ≤ f.ring.lastWord (f.ring.periodOf x.start) ∧ f.ring.lastWord (f.ring.periodOf x.start) ≤ x.lastWord)) →
    exec (.passTransaction x false) s = .next { s with
      mc := { s.mc with lastOfThree := .pass },
      pp := { s.pp with reads := s.pp.reads + 1, answer := some ⟨.okay, s.mem.readWords x.start n⟩ } }) ∧
  (∀ (x : PassTransaction) (ws : List WriteWord) (s : State), s.portReady → s.mem.wf = true → x.op = .write ws →
    x.wellShaped = true → x.enablesNothing = false →
    (x.start + 4 * ws.length ≤ s.base ∨ (s.base ≤ x.start ∧ x.start < s.mc.size.bytes ∧ s.partOwnedAt x.start = false ∧
      ∀ (k : Nat) (h : k < ws.length), ws[k].enables ≠ 0 → unwatched (x.start + 4 * k - s.base))) →
    (∀ f, s.findRing x.start = some f → f.entry.dir = .capture) →
    ∃ t, exec (.passTransaction x false) s = .next t ∧
      t = { s with mem := t.mem, mc := { s.mc with lastOfThree := .pass },
                   pp := { s.pp with writes := s.pp.writes + 1, answer := some ⟨.okay, []⟩ } } ∧
      (∀ (k : Nat) (h : k < ws.length) (i : Nat), i < 4 → t.mem.readByte (x.start + 4 * k + i) =
        if ws[k].enables.getLsbD i then ws[k].data.byte i else s.mem.readByte (x.start + 4 * k + i)) ∧
      (∀ a, a < x.start ∨ x.start + 4 * ws.length ≤ a → t.mem.readByte a = s.mem.readByte a))

/-- What is left when a granted host write of `ws` at `a` has been performed, its watchers told, and the write answered
OKAY (R171, R172). -/
def Sys2Proof.Machine.State.landed (s : State) (a : Nat) (ws : List WriteWord) : State :=
  let u := ({ s with
    mem := s.mem.writeEnabledWords a ws, mc := { s.mc with lastOfThree := .pass } } : State).watchWords a ws
  { u with pp := { u.pp with writes := u.pp.writes + 1, answer := some ⟨.okay, []⟩ } }

/-- A block write at `offset` of the control area that reaches some word of its block (R168, R172), on a port where it is
granted next (R176), by R4 in no ring. -/
def Sys2Proof.Machine.blockWriteLands (w : BlockWrite) (s : State) (offset : Nat) : Prop :=
  s.portReady ∧ s.RingsApart ∧ w.waits = false ∧ w.start.val + w.words.length ≤ 16 ∧ (∃ x ∈ w.words, x.enables ≠ 0) ∧
    s.base % 64 = 0 ∧ offset % 64 = 0 ∧ s.base + offset + 64 ≤ s.mc.size.bytes ∧ partOwned offset = false

/-- R170, R171, R172: each of the ten host writes of a watched block stores its enabled bytes, hands every touched
word, in rising order and as it then stands, to its watcher, and is answered OKAY. A word with no byte enable set is not
touched. -/
def Obligations.WatchedBlockWritesLand : Prop :=
  (∀ (w : BlockWrite) (s : State) (p : Fin 2) (l : Fin 8) (q : Fin 4),
    let at_ (offset : Nat) := s.base + offset + 4 * w.start.val
    (blockWriteLands w s 0x1840 → exec (.cuePostMarkWrite w) s = .next (s.landed (at_ 0x1840) w.words)) ∧
    (blockWriteLands w s 0x1880 → exec (.eventTakeMarkWrite w) s = .next (s.landed (at_ 0x1880) w.words) ∧
      exec (.attentionMaskWrite w) s = .next (s.landed (at_ 0x1880) w.words)) ∧
    (blockWriteLands w s (0x9800 + 512 * p.val) →
      exec (.stampDomainWrite p w) s = .next (s.landed (at_ (0x9800 + 512 * p.val)) w.words) ∧
      exec (.encoderNotifyMaskWrite p w) s = .next (s.landed (at_ (0x9800 + 512 * p.val)) w.words)) ∧
    (blockWriteLands w s (0x9840 + 512 * p.val) →
      exec (.groupReferenceSelectWrite p w) s = .next (s.landed (at_ (0x9840 + 512 * p.val)) w.words)) ∧
    (blockWriteLands w s (0x9880 + 512 * p.val) →
      exec (.faderWindowWrite p w) s = .next (s.landed (at_ (0x9880 + 512 * p.val)) w.words)) ∧
    (blockWriteLands w s (0x98C0 + 512 * p.val) →
      exec (.ladderBindingWrite p w) s = .next (s.landed (at_ (0x98C0 + 512 * p.val)) w.words)) ∧
    (blockWriteLands w s (0x9900 + 512 * p.val) →
      exec (.lampRowWrite p w) s = .next (s.landed (at_ (0x9900 + 512 * p.val)) w.words)) ∧
    (blockWriteLands w s (0xA000 + 256 * l.val + 64 * q.val) →
      exec (.thresholdWordWrite l q w) s = .next (s.landed (at_ (0xA000 + 256 * l.val + 64 * q.val)) w.words))) ∧
  (∀ (s : State) (a : Nat) (w : WriteWord) (ws : List WriteWord),
    s.watchWords a [] = s ∧
    (w.enables ≠ 0 → s.base ≤ a →
      s.watchWords a (w :: ws) = (s.watchWord (a - s.base) (s.mem.readWord a)).watchWords (a + 4) ws) ∧
    (w.enables = 0 ∨ a < s.base → s.watchWords a (w :: ws) = s.watchWords (a + 4) ws))

/-- R170, R183, R199, R201: which watcher takes the word at an offset of the control area, and what it does with the word:
the cue post mark, with the note that it has been brought to the take mark (R48, log 48), the event take mark (R162), the
attention mask (R163), a port's stamp domain (R142), notify mask (R139), group (R133), window (R135), binding (R141) and
lamp row (R140) words, and a slot's threshold (R151). That all 32 bits of the stamp-domain word are taken is the model's
choice (log 46). -/
def Obligations.WatchersOfTheControlArea : Prop :=
  ∀ (s : State) (w : Word) (p : Fin 2) (i : Fin 16) (l : Fin 8) (j : Fin 64),
    s.watchWord 0x1840 w = ({ s with cu := { s.cu with
      postMark := w.extractLsb' 0 8, drained := w.extractLsb' 0 8 == s.cu.takeMark } } : State).beginTake ∧
    s.watchWord 0x1880 w = s.takeMarkWritten (w.extractLsb' 0 10) ∧
    s.watchWord 0x1884 w = s.maskWritten w ∧
    s.watchWord (0x9800 + 512 * p.val) w = s.setPort p { s.port p with
      mirrors := { (s.port p).mirrors with stampDomain := w } } ∧
    s.watchWord (0x9804 + 512 * p.val) w = s.setPort p { s.port p with
      mirrors := { (s.port p).mirrors with notify := w.extractLsb' 0 16 } } ∧
    s.watchWord (0x9840 + 512 * p.val + 4 * i.val) w = s.groupWritten p i w ∧
    s.watchWord (0x9880 + 512 * p.val + 4 * i.val) w = s.windowWritten p i w ∧
    s.watchWord (0x98C0 + 512 * p.val + 4 * i.val) w = s.bindingWritten p i w ∧
    s.watchWord (0x9900 + 512 * p.val + 4 * i.val) w = s.lampWritten p i w ∧
    s.watchWord (0xA000 + 256 * l.val + 4 * j.val) w = s.setWatch l j (SlotWatch.ofWord w)

/-! ## The host's claims on rings -/

/-- R7: a ring holds a period that is PLAYING, READY or FILLING. -/
def Sys2Proof.Machine.Ring.holdsUnfinished (r : Ring) : Bool :=
  r.periods.any (fun q => q.state == .playing || q.state == .ready || q.state == .filling)

/-- R7: what a claim leaves of an entry: period `p` of one of its rings becomes `x`, and a retiring ring that then holds
nothing unfinished is released. -/
def Sys2Proof.Machine.RingEntry.claimed (e : RingEntry) (part : RingPart) (p : Nat) (x : PeriodRec) : RingEntry :=
  let put (r : Ring) : Ring := { r with periods := r.periods.set p x }
  let f : RingEntry := match part with
    | .current => { e with current := put e.current }
    | .pending => { e with pendingRing := e.pendingRing.map put }
    | .retiring => { e with retiring := e.retiring.map put }
  { f with retiring := f.retiring.filter (·.holdsUnfinished) }

/-- On a port where Pass is granted next (R176). R9, R11: a host write into an EMPTY period of a playback ring lands;
where it enables a byte of the period's last word the period becomes FILLED, and otherwise nothing but memory changes;
a write into a FILLED period lands and leaves it FILLED; the fill notice of a current period sets the resumption mark of a
stream at that period that is STARVED, or PRIMED and starved, and acts on no other. R12: a host write into a PLAYING
period is late: it is counted, reported once a period, and under BLOCK refused with memory unchanged. R16: a host read
that covers the last word of a READY period of a capture ring frees the period; one of a FILLING period is early: it is
counted, and reported once a period; one of a FREE period does nothing more. Each returns the words. R1, R9: the ring that
an address lies in, its period there, and that period's last word. R7: a claim changes the period's record and releases a
retiring ring that then holds nothing unfinished. -/
def Obligations.HostClaimsFollowThePeriod : Prop :=
  (∀ (w : HostWrite) (s : State) (f : Found) (rec : PeriodRec), s.portReady → w.waits = false →
    w.transaction.wellShaped = true → w.transaction.enablesNothing = false → w.transaction.lastWord < s.base →
    s.findRing w.transaction.start = some f → f.entry.dir = .play →
    f.ring.period (f.ring.periodOf w.transaction.start) = some rec → rec.state = .empty ∨ rec.state = .filled →
    let touched := rec.state = .empty ∧ touchesWord w.words w.transaction.start (f.ring.lastWord (f.ring.periodOf w.transaction.start)) = true
    let u := if touched then
        let v := s.setPeriod f.stream f.part (f.ring.periodOf w.transaction.start) { rec with state := .filled }
        if f.part = .current then v.fillNotice f.stream (f.ring.periodOf w.transaction.start) else v
      else s
    exec (.playbackRingWrite w) s = .next { u with
      mem := s.mem.writeEnabledWords w.transaction.start w.words, mc := { s.mc with lastOfThree := .pass },
      pp := { s.pp with writes := s.pp.writes + 1, answer := some ⟨.okay, []⟩ } }) ∧
  (∀ (w : HostWrite) (s : State) (f : Found) (rec : PeriodRec), s.portReady → w.waits = false →
    w.transaction.wellShaped = true → w.transaction.enablesNothing = false → w.transaction.lastWord < s.base →
    s.findRing w.transaction.start = some f → f.entry.dir = .play →
    f.ring.period (f.ring.periodOf w.transaction.start) = some rec → rec.state = .playing →
    ∃ t, exec (.playbackRingWrite w) s = .next t ∧
      t.stream f.stream = { s.stream f.stream with counters := { (s.stream f.stream).counters with
        lateWrites := satInc (s.stream f.stream).counters.lateWrites } } ∧
      (f.entry.late = .block → t.mem = s.mem ∧ t.pp.refused = satInc s.pp.refused ∧ t.pp.answer = some ⟨.refused, []⟩) ∧
      (f.entry.late = .land → t.mem = s.mem.writeEnabledWords w.transaction.start w.words ∧
        t.pp.writes = s.pp.writes + 1 ∧ t.pp.answer = some ⟨.okay, []⟩) ∧
      (rec.reported = true → t.rw = s.rw ∧ t.ru = s.ru ∧ t.mc.records = s.mc.records) ∧
      (rec.reported = false →
        let p := f.ring.periodOf w.transaction.start
        let v := (s.setStream f.stream { s.stream f.stream with counters := { (s.stream f.stream).counters with
          lateWrites := satInc (s.stream f.stream).counters.lateWrites } }).setPeriod f.stream f.part p
            { rec with reported := true }
        let e := Event.plain .lateWrite f.stream.val (s.streamStamp f.stream) (fields [(0, p)]) (nat32 w.transaction.start)
        t.rw = v.rw ∧ t.ru = (v.passEvent e).ru ∧ t.mc.records = (v.passEvent e).mc.records) ∧
      t.cb = s.cb ∧ t.li = s.li ∧ t.si = s.si ∧ t.mu = s.mu ∧ t.cu = s.cu ∧ t.mclk = s.mclk ∧
      ∀ i, i ≠ f.stream → t.stream i = s.stream i) ∧
  (∀ (r : HostRead) (s : State) (f : Found) (rec : PeriodRec), s.portReady → r.waits = false →
    r.transaction.wellShaped = true → r.transaction.start < s.mc.size.bytes →
    s.findRing r.transaction.start = some f → f.entry.dir = .capture →
    let p := f.ring.periodOf r.transaction.start
    f.ring.period p = some rec → r.transaction.start ≤ f.ring.lastWord p → f.ring.lastWord p ≤ r.transaction.lastWord →
    (rec.state = .ready →
      exec (.captureRingRead r) s = .next { s.setPeriod f.stream f.part p { rec with state := .free } with
        mc := { s.mc with lastOfThree := .pass },
        pp := { s.pp with reads := s.pp.reads + 1,
                          answer := some ⟨.okay, s.mem.readWords r.transaction.start r.length⟩ } }) ∧
    (rec.state = .free →
      exec (.captureRingRead r) s = .next { s with
        mc := { s.mc with lastOfThree := .pass },
        pp := { s.pp with reads := s.pp.reads + 1,
                          answer := some ⟨.okay, s.mem.readWords r.transaction.start r.length⟩ } }) ∧
    (rec.state = .filling → ∃ t, exec (.captureRingRead r) s = .next t ∧
      let counted : Stream := { s.stream f.stream with counters := { (s.stream f.stream).counters with
        earlyReads := satInc (s.stream f.stream).counters.earlyReads } }
      t.stream f.stream = counted ∧ t.mem = s.mem ∧
      t.pp = { s.pp with reads := s.pp.reads + 1,
                         answer := some ⟨.okay, s.mem.readWords r.transaction.start r.length⟩ } ∧
      (rec.reported = true → t.rw = s.rw ∧ t.ru = s.ru ∧ t.mc.records = s.mc.records) ∧
      (rec.reported = false →
        let v := (s.setStream f.stream counted).setPeriod f.stream f.part p { rec with reported := true }
        let e := Event.plain .earlyRead f.stream.val (s.streamStamp f.stream) (fields [(0, p)]) (nat32 r.transaction.start)
        t.rw = v.rw ∧ t.ru = (v.passEvent e).ru ∧ t.mc.records = (v.passEvent e).mc.records) ∧
      t.cb = s.cb ∧ t.li = s.li ∧ t.si = s.si ∧ t.mu = s.mu ∧ t.cu = s.cu ∧ t.mclk = s.mclk ∧
      ∀ i, i ≠ f.stream → t.stream i = s.stream i)) ∧
  (∀ (s : State) (i : Fin 32) (p : Nat),
    let x := s.stream i
    let awaits := (x.state = .starved ∨ (x.state = .primed ∧ x.starved ≠ none)) ∧ x.period = p
    (awaits → s.fillNotice i p = s.setStream i { x with resumeMark := true }) ∧ (¬ awaits → s.fillNotice i p = s)) ∧
  (∀ (s : State) (a : Nat),
    let covers (r : Ring) : Prop := r.base ≤ a ∧ a < r.base + r.frames * r.channels * 4 * r.periods.length
    (s.findRing a = none ↔ ∀ i e, s.entry i = some e → ∀ r ∈ e.rings, ¬ covers r) ∧
    ∀ f, s.findRing a = some f → s.entry f.stream = some f.entry ∧ covers f.ring ∧ match f.part with
      | .current => f.ring = f.entry.current
      | .pending => f.entry.pendingRing = some f.ring
      | .retiring => f.entry.retiring = some f.ring) ∧
  (∀ (r : Ring) (a p addr : Nat) (ws : List WriteWord),
    r.periodOf a = (a - r.base) / (r.frames * r.channels * 4) ∧ r.period p = r.periods[p]? ∧
    r.lastWord p = r.base + (p + 1) * (r.frames * r.channels * 4) - 4 ∧
    (touchesWord ws a addr = true ↔ ∃ (k : Nat) (h : k < ws.length), ws[k].enables ≠ 0 ∧ a + 4 * k = addr)) ∧
  (∀ (s : State) (i : Fin 32) (part : RingPart) (p : Nat) (x : PeriodRec),
    (s.entry i = none → s.setPeriod i part p x = s) ∧
    ∀ e, s.entry i = some e → s.setPeriod i part p x = s.setEntry i (some (e.claimed part p x)))

/-! ## The Report Unit -/

/-- A record of `n` words at `a`: the words given, and 0 in every word after them (R184). -/
def Sys2Proof.Machine.recordOf (a n : Nat) (ws : List Word) : List MemWrite := [⟨a, ws ++ List.replicate (n - ws.length) 0⟩]

/-- One for a set flag (R184). -/
abbrev Sys2Proof.Machine.flagBit (b : Prop) [Decidable b] : Nat := if b then 1 else 0

/-- The number an optional field shows: its value, or 0 where it is absent (R184). -/
abbrev Sys2Proof.Machine.shows {α : Type} (x : Option α) (f : α → Nat) : Nat := match x with | none => 0 | some v => f v

/-- R165: a request's contents are the record as it stands, in place of a request for the same record whose write has not
begun, or at the end of the order; nothing else changes. R167 step 5 holds requests as pending writes while a scrub runs;
that none is kept, since the rewrite at its end satisfies them, is the model's reading (log 19). R131, R149: an image and a
meter table are asked for in the same way; that an image change joins the port's image request that still waits, with its
events, is the model's choice (log 53). R166: the events of a change that comes before the port opens at the end of a
start-up do not wait for its image, and are never written. R95, R164: the input records, the pass counters and the report
record are asked for when 10 ms have passed since the last 10 ms point, which moves on by whole periods, and not before
(that they are asked for in this order, input 0 before input 1, is the model's choice, log 44); R131: that the image row
acts whenever it stands is the model's choice (log 31). R188 to R194: the words that each status record and a live record
show. That the two transactions of a live record go in rising address order is the model's choice (log 60). That a domain
record shows both oscillators' codes, whatever the domain names, is the model's reading (log 35), and so are the zero
geometry and count of an IDLE stream's live record (log 38). -/
def Obligations.RequestsShowTheirRecords : Prop :=
  (∀ (s : State) (id : RecordId),
    (s.phase.holdsWrites = true → s.request id = s) ∧
    (s.phase.holdsWrites = false →
      ∃ l, s.request id = { s with mc := { s.mc with records := l } } ∧
        ((∃ a it b, s.mc.records = a ++ it :: b ∧ it.work = .status id ∧ it.begun = false ∧
            (∀ x ∈ a, ¬ (x.work = .status id ∧ x.begun = false)) ∧
            l = a ++ { it with writes := s.recordWrites id } :: b) ∨
          ((∀ x ∈ s.mc.records, ¬ (x.work = .status id ∧ x.begun = false)) ∧
            l = s.mc.records ++ [⟨.status id, false, s.recordWrites id, []⟩])))) ∧
  (∀ (s : State) (p : Fin 2) (l : Fin 8) (es : List Event),
    let waits (w : RecordWork) (x : RecordItem) : Prop := x.work = w ∧ x.begun = false
    let held := if s.phase = .records then [] else es
    (s.phase.holdsWrites = true → s.requestImage p es = s ∧ s.requestMeter l = s) ∧
    (s.phase.holdsWrites = false →
      (∀ a it b, s.mc.records = a ++ it :: b → waits (.image p) it → (∀ x ∈ a, ¬ waits (.image p) x) →
        s.requestImage p es = { s with
          mc := { s.mc with records := a ++ { it with events := it.events ++ held } :: b } }) ∧
      ((∀ x ∈ s.mc.records, ¬ waits (.image p) x) →
        s.requestImage p es = { s with mc := { s.mc with records := s.mc.records ++ [⟨.image p, false, [], held⟩] } }) ∧
      ((s.window l).table = none ∨ (∃ x ∈ s.mc.records, waits (.meterTable l) x) → s.requestMeter l = s) ∧
      ((s.window l).table ≠ none → (∀ x ∈ s.mc.records, ¬ waits (.meterTable l) x) →
        s.requestMeter l = { s with mc := { s.mc with records := s.mc.records ++ [⟨.meterTable l, false, [], []⟩] } }))) ∧
  (∀ x : Phase, x.holdsWrites = true ↔
    x = .held ∨ x = .bringUp ∨ x = .scrub ∨ x = .hostReset ∨ x = .hostScrub) ∧
  (∀ (s : State) (dt : Nat) (p : Fin 2), s.phase ≠ .held →
    let n := (s.mclk + dt - s.cb.tenMs) / 1000000
    let u : State := { s with mclk := s.mclk + dt, cb := { s.cb with tenMs := s.cb.tenMs + n * 1000000 } }
    (n = 0 → exec (.inputStatusPeriodic dt) s = .next { s with mclk := s.mclk + dt }) ∧
    (n ≠ 0 → exec (.inputStatusPeriodic dt) s =
      .next ((((u.request (.input 0)).request (.input 1)).request .passCounters).request .report)) ∧
    exec (.surfaceCounterPeriodic p dt) s = .next (({ s with mclk := s.mclk + dt } : State).requestImage p [])) ∧
  (∀ (s : State) (d : Fin 4) (l : Fin 8) (o : Fin 4) (w : Fin 2),
    let r := s.ru
    let x := s.domain d
    let y := s.lane l
    let z := s.output o
    let i := s.input w
    let settings (p : OutputSettings) : Word := fields [(0, flagBit p.enable), (8, p.domain.val), (16, p.divider.value)]
    s.recordWrites .identity = recordOf s.base 4
      [0x3064, 1, nat32 (s.mc.size.bytes / 1048576), match s.mc.refresh with | .us78 => 78 | .us39 => 39] ∧
    s.recordWrites .startWord = recordOf (s.base + 0x10) 1 [1] ∧
    s.recordWrites .passCounters = recordOf (s.base + 0x40) 8 [s.pp.reads, s.pp.writes, s.pp.refused,
      fields [(0, s.pp.noMemory.toNat), (16, s.pp.errors.toNat)]] ∧
    s.recordWrites .report = recordOf (s.base + 0x80) 16 [
      fields [(0, r.takeMark.toNat), (16, r.written.toNat)],
      fields [(0, r.unread.routine.toNat), (16, r.unread.notice.toNat)],
      fields [(0, r.unread.fault.toNat), (16, (r.postMark - r.takeMark).toNat)],
      fields [(0, r.lost.toNat), (16, r.lostFaults.toNat)],
      fields [(0, r.refusedTakes.toNat), (16, flagBit r.mask.routine), (17, flagBit r.mask.notice),
        (18, flagBit r.mask.fault), (24, flagBit r.attn)]] ∧
    s.recordWrites (.domain d) = recordOf (s.base + 0x100 + 64 * d.val) 16 [
      fields [(0, x.run.code), (8, shows x.ref Source.code), (16, x.family.code), (24, x.mult.value)],
      fields [(0, x.tickExp), (8, x.settle), (16, shows x.fallback Source.code), (24, flagBit (x.lastGood.isSome)),
        (25, flagBit (x.candidate.isSome))],
      nat32 (shows x.lastGood id),
      fields [(0, shows x.candidate (·.source.code)), (8, shows x.candidate (·.origin.code)),
        (16, shows x.candidate (·.phase.code)), (24, shows x.candidate (·.family.code))],
      fields [(0, shows x.candidate (·.mult.value)), (8, s.cb.osc44.code), (16, s.cb.osc48.code)], x.count] ∧
    s.recordWrites (.lane l) = recordOf (s.base + 0x200 + 64 * l.val) 16 [
      fields [(0, y.state.code), (8, shows y.domain Fin.val), (16, shows y.domain (fun d => slotCapacity (s.domain d).mult)),
        (24, flagBit (y.domain.isSome)), (25, flagBit (y.countdown.isSome)), (26, flagBit (y.lastStatus.isSome))],
      fields [(0, y.trainingRun), (8, y.badRun), (16, y.queue.length)],
      fields [(0, shows y.countdown id), (16, y.counters.stray.toNat)], nat32 (shows y.lastStatus BitVec.toNat),
      y.counters.good, y.counters.badCrc, y.counters.badMissing, y.counters.badTag, y.counters.badFormat,
      y.counters.sent, fields [(0, y.counters.faults.toNat), (16, y.counters.dropped.toNat)],
      nat32 (shows y.domain (fun d => (s.domain d).count.toNat))] ∧
    s.recordWrites (.output o) = recordOf (s.base + 0x400 + 32 * o.val) 8 [
      fields [(0, z.state.code), (8, flagBit z.line), (16, flagBit (z.pendingSettings.isSome)),
        (17, flagBit (z.lastHalf.isSome))],
      settings z.settings, nat32 (shows z.pendingSettings (fun p => (settings p).toNat)), nat32 (shows z.lastHalf id),
      fields [(0, z.passedOver.toNat)]] ∧
    s.recordWrites (.input w) = recordOf (s.base + 0x480 + 32 * w.val) 8 [
      fields [(0, flagBit i.present), (8, flagBit (i.latest.isSome)), (9, flagBit i.stale)], nat32 (shows i.latest id),
      fields [(0, i.absences.toNat)], i.measurements]) ∧
  (∀ (s : State) (i : Fin 32),
    let x := s.stream i
    let c := x.counters
    let a := s.base + 0x800 + 128 * i.val
    ∃ head periods count, s.recordWrites (.live i) = [
      ⟨a, head ++ [fields [(0, x.frame), (16, x.period)], nat32 (shows x.start (·.frame.toNat)),
        nat32 (shows x.stamp BitVec.toNat), fields [(0, shows x.stop (·.mode.code))],
        nat32 (shows x.stop (·.last.toNat)), nat32 (shows x.swap (·.base)),
        fields [(0, shows x.swap (·.frames)), (16, shows x.swap (·.count))], periods,
        fields [(0, c.lateWrites.toNat), (16, c.earlyReads.toNat)], fields [(0, c.skipped.toNat), (16, c.lost.toNat)],
        c.slip, c.dropped]⟩,
      ⟨a + 64, [c.substituted, c.engineLate, count] ++ List.replicate 13 0⟩] ∧
      let flags (l : List (Nat × Nat)) : Word := fields (l ++ [(25, flagBit (x.start.isSome)),
        (26, shows x.start (fun r => flagBit r.mark)), (27, flagBit (x.stamp.isSome)), (28, flagBit (x.stop.isSome)),
        (29, flagBit (x.swap.isSome)), (30, shows (s.entry i) (fun e => flagBit (e.retiring.isSome)))])
      (x.geom = none → head = [nat32 x.state.code, 0, 0, flags []] ∧ count = 0) ∧
      (∀ g, x.geom = some g → count = (s.domain g.domain).count ∧ head = [
        fields [(0, x.state.code), (8, g.dir.code), (16, g.lane.val), (24, g.domain.val)],
        fields [(0, g.firstSlot), (8, g.channels), (16, g.policy.code), (24, shows g.late LatePolicy.code)],
        nat32 g.base, flags [(0, g.frames), (16, g.count), (24, flagBit g.notify)]]) ∧
      (s.entry i = none → periods = 0) ∧
      (∀ e, s.entry i = some e → ∀ k < 16, (periods >>> (2 * k)).setWidth 2 =
        if h : k < e.current.periods.length then BitVec.ofNat 2 (e.current.periods[k]).state.code else 0))

/-- R159 steps 1 and 2, R160, R166: an event passed to the Report Unit reserves the slot at the post mark and its
record joins the order; at 1023 occupied slots it is lost and counted, and the report record is asked for (R164), also by a
loss that leaves a saturated count as it was, which is the model's choice (log 54); during a start-up or a host reset it is
discarded. R161: where events were lost and a slot is free, EVENTS_LOST carries both counts, which return to 0, and
takes the slot; the report record follows. R197: the words of an event record. R156, R44, R142: the stamp of a domain is its
count, with the domain named unless it is STOPPED; a stream's is that of the domain it took at its start, a surface port's
that of the domain its stamp-domain word names. R132, R199: that all 32 bits of that word are read, so that a value of 4 or
more names no domain, is the model's choice (log 46). -/
def Obligations.EventsAreReservedOrLost : Prop :=
  (∀ (s : State) (e : Event),
    (s.phase.discardsEvents = true → s.passEvent e = s) ∧
    (s.phase.discardsEvents = false → s.ru.occupied < 1023 → s.passEvent e = { s with
      ru := { s.ru with postMark := s.ru.postMark + 1, classes := s.ru.classes ++ [e.kind.cls] },
      mc := { s.mc with records := s.mc.records ++
        [⟨.event s.ru.postMark e.kind.cls, false, [⟨s.base + 0x5000 + 16 * s.ru.postMark.toNat, e.words⟩], []⟩] } }) ∧
    (s.phase.discardsEvents = false → 1023 ≤ s.ru.occupied →
      s.passEvent e = ({ s with ru := { s.ru with
        lost := satInc s.ru.lost,
        lostFaults := if e.kind.cls = .fault then satInc s.ru.lostFaults else s.ru.lostFaults } } : State).request .report)) ∧
  (∀ s : State, (s.ru.lost = 0 → s.raiseEventsLost = s) ∧
    (s.ru.lost ≠ 0 → s.raiseEventsLost =
      (({ s with ru := { s.ru with lost := 0, lostFaults := 0 } } : State).passEvent
        { kind := .eventsLost, source := 0, stampDomain := none, stampCount := 0, d0 := s.ru.lost.setWidth 32,
          d1 := s.ru.lostFaults.setWidth 32, flagA := false, flagB := false }).request .report)) ∧
  (∀ s : State, s.ru.occupied = (s.ru.postMark - s.ru.takeMark).toNat) ∧
  (∀ x : Phase, x.discardsEvents = false ↔ x = .opened ∨ x = .hostRecords) ∧
  (∀ e : Event, e.words = [
    fields [(0, e.kind.code), (8, e.kind.cls.code), (12, match e.stampDomain with | none => 7 | some d => d.val),
      (16, e.source), (30, flagBit (e.flagA = true)), (31, flagBit (e.flagB = true))],
    e.stampCount, e.d0, e.d1]) ∧
  (∀ (s : State) (d : Fin 4) (i : Fin 32) (p : Fin 2),
    ((s.domain d).run = .stopped → s.stampOf d = (none, (s.domain d).count)) ∧
    ((s.domain d).run ≠ .stopped → s.stampOf d = (some d, (s.domain d).count)) ∧
    ((s.stream i).geom = none → s.streamStamp i = (none, 0)) ∧
    (∀ g, (s.stream i).geom = some g → s.streamStamp i = s.stampOf g.domain) ∧
    (4 ≤ (s.port p).mirrors.stampDomain.toNat → s.surfaceStamp p = (none, 0)) ∧
    (d.val = (s.port p).mirrors.stampDomain.toNat → s.surfaceStamp p = s.stampOf d))

/-- R159 steps 3 and 4: when the write of the oldest reserved record completes, the record is in memory and the post mark
word that posts it is asked for; when that is written it shows the record posted, the written mark and the unread count of
its class rise by 1, and ATTN is evaluated (that these come at the completion of the post mark word is the model's choice,
log 19). R131: an image write stores the words of the image that memory does not hold yet, fixed when the write begins (log
19), and no others, so that a request of which no word has changed is done at its grant (log 40); memory then shows the
image, no byte outside it has changed, and the events are passed; the order of the transactions of a whole image is the
model's choice (log 60). R198: the words of an image. R148, R149: a meter table is in memory, header last, before its events
are passed. -/
def Obligations.CompletedWritesPassTheirEvents : Prop :=
  (∀ (s : State) (c : EventClass) (a : Nat) (ws : List Word) (es : List Event), s.phase ≠ .held →
    s.mc.records = [⟨.event s.ru.written c, false, [⟨a, ws⟩], es⟩] →
    ∃ t, exec .eventRecordWritten s = .next t ∧ t.mc = { s.mc with records := [], lastOfThree := .record } ∧
      t.mem = (s.mem.writeWords a ws).writeWords (s.base + 0x1804) [(s.ru.written + 1).setWidth 32] ∧
      t.ru.attn = t.ru.attnLevel ∧
      t.ru = { s.ru with written := s.ru.written + 1, unread := t.ru.unread, attn := t.ru.attn } ∧
      t.ru.unread = (match c with
        | .routine => { s.ru.unread with routine := s.ru.unread.routine + 1 }
        | .notice => { s.ru.unread with notice := s.ru.unread.notice + 1 }
        | .fault => { s.ru.unread with fault := s.ru.unread.fault + 1 }) ∧
      t.cb = s.cb ∧ t.li = s.li ∧ t.si = s.si ∧ t.se = s.se ∧ t.cu = s.cu ∧ t.mu = s.mu ∧ t.rw = s.rw ∧ t.pp = s.pp) ∧
  (∀ (s : State) (slot : BitVec 10) (c : EventClass) (b : Bool) (a : Nat) (ws : List Word) (es : List Event)
      (rest : List RecordItem), s.mc.records = ⟨.event slot c, b, [⟨a, ws⟩], es⟩ :: rest →
    s.grantRecord = { s with
      mem := s.mem.writeWords a ws,
      mc := { s.mc with
        lastOfThree := .record,
        records := rest ++ [⟨.posting slot c, false, [⟨s.base + 0x1804, [(slot + 1).setWidth 32]⟩], []⟩] } }) ∧
  (∀ (s : State) (p : Fin 2) (es : List Event) (rest : List RecordItem) (whole : Bool), s.phase ≠ .held →
    s.mem.wf = true → s.mc.records = ⟨if whole then .wholeImage p else .image p, false, [], es⟩ :: rest →
    let a := s.base + 0x9000 + 256 * p.val
    let image := (s.port p).image
    image.length = 64 ∧
    ∃ writes, (s.beginItem ⟨if whole then .wholeImage p else .image p, false, [], es⟩).1.writes = writes ∧
      (whole = false → ∀ w ∈ writes, ∀ (k : Nat) (h : k < w.words.length), a ≤ w.addr + 4 * k ∧
        w.addr + 4 * k < a + 256 ∧ s.mem.readWord (w.addr + 4 * k) ≠ w.words[k]) ∧
      (whole = true → writes = (List.range 4).map (fun j => ⟨a + 64 * j, (image.drop (16 * j)).take 16⟩)) ∧
      ∃ m, exec (.surfaceImageWritten p) s = .next (({ s with
          mem := m, mc := { s.mc with records := rest, lastOfThree := .record } } : State).passEvents es) ∧
        m.readWords a 64 = image ∧ ∀ b, b < a ∨ a + 256 ≤ b → m.readByte b = s.mem.readByte b) ∧
  (∀ x : Port,
    let c := x.counters
    x.image.take 8 = [
      fields [(0, flagBit x.up), (8, x.announced.faders), (16, x.announced.groups), (24, x.announced.encoders)],
      fields [(0, x.announced.ladders)], c.taken, fields [(0, c.malformed.toNat), (16, c.indexDiscards.toNat)],
      fields [(0, c.unannounced.toNat), (16, c.linkDrops.toNat)], c.sent, x.image[6]?.getD 0, 0] ∧
    (∀ i : Fin 16, (x.image[6]?.getD 0).getLsbD i.val = x.diverged[i] ∧
      ((x.image[8 + i.val / 4]?.getD 0) >>> (8 * (i.val % 4))).setWidth 8 = x.buttons[i] ∧
      ((x.image[12 + i.val / 4]?.getD 0) >>> (8 * (i.val % 4))).setWidth 8 = x.ladders[i].setWidth 8 ∧
      ((x.image[16 + i.val / 2]?.getD 0) >>> (16 * (i.val % 2))).setWidth 16 = x.encoders[i] ∧
      x.image[32 + 2 * i.val]? = some (fields [(0, x.faders[i].position.toNat), (16, flagBit x.faders[i].touched),
        (24, x.faders[i].window.code)]) ∧
      x.image[33 + 2 * i.val]? = some (fields [(0, x.motors[i].state.code), (8, flagBit (x.motors[i].target.isSome)),
        (16, shows x.motors[i].target BitVec.toNat)])) ∧
    (∀ k, 24 ≤ k → k < 32 → x.image[k]? = some 0)) ∧
  (∀ (s : State) (l : Fin 8) (x : Closing) (es : List Event) (rest : List RecordItem), s.phase ≠ .held →
    s.mc.records = ⟨.meterTable l, false, [], es⟩ :: rest → (s.window l).table = some x →
    exec (.meterTableWritten l) s = .next (({ s.setWindow l { s.window l with table := none, events := [] } with
      mem := ((transactions 8 (s.base + 0xB000 + 1024 * l.val + 64) x.slots).foldl
        (fun m w => m.writeWords w.addr w.words) s.mem).writeWords (s.base + 0xB000 + 1024 * l.val) x.header,
      mc := { s.mc with records := rest, lastOfThree := .record } } : State).passEvents (s.window l).events))

/-- R175: the Record requester completes its requests in order: the completion of an event record and of its posting, an
image or a table is the completion of every request before it and of that one (log 20). R179, R181: where READY stands
before it at the end of a start-up or of a host reset, the port opens at READY's write first. R175, R179: a grant to Record is
one transaction of the request at the head of its order, which leaves the order with its last transaction, or 64 bytes
of the scrub; and the completion of the request at the head is grants to Record, one after the other, until it has left the
order. R49: a cue record's read is such a transaction, and the take mark word is then asked for. -/
def Obligations.RecordWritesKeepTheirOrder : Prop :=
  (∀ (s : State) (before rest : List RecordItem) (it : RecordItem), s.phase ≠ .held → s.mc.records = before ++ it :: rest →
    let ofSlot (x : RecordItem) : Prop := ∃ c, x.work = .event s.ru.written c ∨ x.work = .posting s.ru.written c
    let ofImage (p : Fin 2) (x : RecordItem) : Prop := x.work = .image p ∨ x.work = .wholeImage p
    let closed := s.phase = .records ∨ s.phase = .hostRecords
    let afterReady (l : List RecordItem) : Prop := closed ∧ ∃ x ∈ l, x.work = .status .startWord
    (¬ afterReady before →
      (ofSlot it → (∀ x ∈ before, ¬ ofSlot x) →
        let u := s.completeItems (before.length + 1)
        ((∀ x ∈ u.mc.records, ¬ ofSlot x) → exec .eventRecordWritten s = .next u) ∧
        (∀ a y b, u.mc.records = a ++ y :: b → ofSlot y → (∀ x ∈ a, ¬ ofSlot x) → ¬ afterReady a →
          exec .eventRecordWritten s = .next (u.completeItems (a.length + 1)))) ∧
      (∀ p, ofImage p it → (∀ x ∈ before, ¬ ofImage p x) →
        exec (.surfaceImageWritten p) s = .next (s.completeItems (before.length + 1))) ∧
      (∀ l, it.work = .meterTable l → (∀ x ∈ before, x.work ≠ .meterTable l) →
        exec (.meterTableWritten l) s = .next (s.completeItems (before.length + 1)))) ∧
    (∀ u, afterReady before → exec .passPortOpen s = .next u →
      (ofSlot it → (∀ x ∈ before, x.isEvent = false) → exec .eventRecordWritten s = exec .eventRecordWritten u) ∧
      (∀ p, ofImage p it → (∀ x ∈ before, ¬ ofImage p x) →
        exec (.surfaceImageWritten p) s = exec (.surfaceImageWritten p) u) ∧
      (∀ l, it.work = .meterTable l → (∀ x ∈ before, x.work ≠ .meterTable l) →
        exec (.meterTableWritten l) s = exec (.meterTableWritten l) u))) ∧
  (∀ s : State,
    (∀ (it : RecordItem) (rest : List RecordItem) (w v : MemWrite) (ws : List MemWrite), s.mc.records = it :: rest →
      it.begun = true → it.writes = w :: v :: ws → s.grantRecord = { s with
        mem := s.mem.writeWords w.addr w.words,
        mc := { s.mc with lastOfThree := .record, records := { it with writes := v :: ws } :: rest } }) ∧
    (∀ (id : RecordId) (b : Bool) (es : List Event) (rest : List RecordItem) (w : MemWrite),
      s.mc.records = ⟨.status id, b, [w], es⟩ :: rest → s.grantRecord = { s with
        mem := s.mem.writeWords w.addr w.words, mc := { s.mc with lastOfThree := .record, records := rest } }) ∧
    (∀ (b : Bool) (es : List Event) (rest : List RecordItem), s.mc.records = ⟨.cueRead, b, [], es⟩ :: rest →
      s.grantRecord = { s with
        cu := { s.cu with takeMark := s.cu.takeMark + 1, record := some (s.cueRecord s.cu.takeMark) },
        mc := { s.mc with
          lastOfThree := .record,
          records := rest ++ [⟨.cueMark, false, [⟨s.base + 0x1800, [(s.cu.takeMark + 1).setWidth 32]⟩], []⟩] } }) ∧
    (∀ n, s.mc.records = [] → s.mc.scrubNext = some n → s.grantRecord = { s with
      mem := s.mem.clear (s.base + 64 * n) (s.base + 64 * n + 64),
      mc := { s.mc with lastOfThree := .record, scrubNext := some (n + 1) } }) ∧
    (∀ n, s.completeItems (n + 1) = s.completeHead.completeItems n) ∧ s.completeItems 0 = s) ∧
  (∀ s : State, (s.mc.records = [] → s.completeHead = s) ∧
    ∀ (it : RecordItem) (rest : List RecordItem), s.mc.records = it :: rest →
      ∃ n, s.completeHead = State.grantRecord^[n + 1] s ∧
        (∀ k < n, ∃ x, (State.grantRecord^[k + 1] s).mc.records = x :: rest ∧ x.work = it.work ∧ x.begun = true ∧
          x.writes.length = n - k) ∧
        ∃ more, s.completeHead.mc.records.map (·.work) = rest.map (·.work) ++ more)

/-- R162, R161, R163, R164: a proposed take mark is taken when it advances over unread records alone; the classes
passed leave the class record and their unread counts, ATTN is evaluated, the report record is written, and EVENTS_LOST
follows where events were lost; that its event record is asked for behind the report record is the model's choice (log
55). A longer advance is ignored and counted. R163: a mask write takes the three enables,
evaluates ATTN and writes the report record. -/
def Obligations.TakeMarkAndMaskEvaluateAttn : Prop :=
  (∀ (s : State) (m : BitVec 10),
    let a := (m - s.ru.takeMark).toNat
    let u := (s.ru.written - s.ru.takeMark).toNat
    (a = 0 → s.takeMarkWritten m = ({ s with ru := { s.ru with attn := s.ru.attnLevel } } : State).request .report) ∧
    (1 ≤ a → a ≤ u → ∃ r : ReportUnit,
      r = { s.ru with takeMark := m, classes := s.ru.classes.drop a,
                      unread := (s.ru.classes.take a).foldl Unread.sub s.ru.unread, attn := r.attn } ∧
      r.attn = r.attnLevel ∧
      s.takeMarkWritten m = (({ s with ru := r } : State).request .report).raiseEventsLost) ∧
    (u < a → s.takeMarkWritten m = ({ s with ru := { s.ru with
      refusedTakes := satInc s.ru.refusedTakes } } : State).request .report)) ∧
  (∀ (s : State) (w : Word), ∃ r : ReportUnit,
    r = { s.ru with mask := ⟨w.getLsbD 0, w.getLsbD 1, w.getLsbD 2⟩, attn := r.attn } ∧
    (r.attn = true ↔ (w.getLsbD 0 = true ∧ s.ru.unread.routine ≠ 0) ∨ (w.getLsbD 1 = true ∧ s.ru.unread.notice ≠ 0) ∨
      (w.getLsbD 2 = true ∧ s.ru.unread.fault ≠ 0)) ∧
    s.maskWritten w = ({ s with ru := r } : State).request .report)

/-! ## Cues -/

/-- R48, R49, R58, R175: a take begins where none is in progress, a record is posted, the post mark has not been brought
to the take mark since it was written (log 48) and the list has a free place. That the read of its record and the take
mark word are requests of the Record order, which CUE_TAKE completes with all that stands before them, is the model's
reading (log 49). CUE_TAKE then judges the record read, and the take ends; so where nothing stands before the read, it
reads the record at the take mark, advances and writes the take mark, and judges the cue; the next take's read stands
behind the event record that the judgement asked for (log 51). With no take begun only the time passes. R196: the fields
of the record read. -/
def Obligations.CueTakeReadsOneRecord : Prop :=
  ∀ (s : State) (dt : Nat), s.phase ≠ .held →
    let u : State := { s with mclk := s.mclk + dt }
    let ended (v : State) : State := { v with cu := { v.cu with taking := false } }
    (s.cu.taking = false → exec (.cueTake dt) s = .next u) ∧
    (s.cu.taking = true → ∀ es, s.mc.records = [⟨.cueRead, false, [], es⟩] →
      exec (.cueTake dt) s = .next (ended (({ u with
        cu := { s.cu with takeMark := s.cu.takeMark + 1, record := none },
        mc := { s.mc with records := [], lastOfThree := .record },
        mem := s.mem.writeWords (s.base + 0x1800) [(s.cu.takeMark + 1).setWidth 32] } : State).acceptRecord s.cu.takeMark
          (s.cueRecord s.cu.takeMark))).beginTake) ∧
    (∀ (a b : List RecordItem) (w : Bool) (ws : List MemWrite) (es : List Event),
      s.mc.records = a ++ ⟨.cueRead, w, ws, es⟩ :: b → (∀ x ∈ a, x.work ≠ .cueRead) →
      let read := s.completeItems (a.length + 1)
      ∀ c x e, read.mc.records = c ++ x :: e → x.work = .cueMark → (∀ y ∈ c, y.work ≠ .cueMark) →
        s.finishRead = read.completeItems (c.length + 1)) ∧
    ((∀ x ∈ s.mc.records, x.work ≠ .cueRead) →
      ((∀ x ∈ s.mc.records, x.work ≠ .cueMark) → s.finishRead = s) ∧
      (∀ c x e, s.mc.records = c ++ x :: e → x.work = .cueMark → (∀ y ∈ c, y.work ≠ .cueMark) →
        s.finishRead = s.completeItems (c.length + 1))) ∧
    (s.cu.taking = true → u.finishRead.cu.record = none → exec (.cueTake dt) s = .next u.finishRead) ∧
    (∀ r, s.cu.taking = true → u.finishRead.cu.record = some r →
      exec (.cueTake dt) s = .next (ended (({ u.finishRead with
        cu := { u.finishRead.cu with record := none } } : State).acceptRecord
          (u.finishRead.cu.takeMark - 1) r)).beginTake) ∧
    (s.beginTake =
      if s.cu.taking = false ∧ s.cu.drained = false ∧ s.cu.postMark ≠ s.cu.takeMark ∧ s.cu.list.length < 64 then
        { s with
          cu := { s.cu with taking := true },
          mc := { s.mc with records := s.mc.records ++ [⟨.cueRead, false, [], []⟩] } }
      else s) ∧
    ∀ i : Byte,
      let word (k : Nat) : Word := s.mem.readWord (s.base + 0x3000 + 32 * i.toNat + 4 * k)
      s.cueRecord i = {
        verb := (word 0).extractLsb' 0 8, now := (word 0).getLsbD 8, report := (word 0).getLsbD 9,
        domain := (word 0).extractLsb' 16 8, target := (word 0).extractLsb' 24 8, tag := (word 1).extractLsb' 0 16,
        due := word 2, arg0 := word 4, arg1 := word 5, arg2 := word 6, arg3 := word 7 }

/-- R53: the lane's domain is `d`; or it has none, and ASSIGN_LANE's argument names `d` or NONE. -/
def Sys2Proof.Machine.State.mayAssign (s : State) (l : Fin 8) (d : Fin 4) (arg : Word) : Prop :=
  (s.lane l).domain = some d ∨ ((s.lane l).domain = none ∧ (arg.toNat = d.val ∨ arg = 0xFFFFFFFF#32))

/-- R51 to R54, R68: the checks of a taken record, in order: the verb, the target and arguments, the domain, and for a
START_STREAM the Stream Engine's; the first that fails refuses the cue at acceptance, and nothing else of it is left. R20,
R175, R176: a START_STREAM's stage entry is read once for the domain check and the engine's, as a request of the Record
order that is granted in its turn: the arbitration points up to that grant are gone through at once, 16384 at most (log 7,
log 49). The read leaves the Clock Block, the time and the list of cues as they were; with nothing that comes before it,
it is no more than a grant to Record. R23, R24: the engine's checks are those of State.acceptStart on the stream's stage
entry and the lane that it names (`StartAcceptanceChecksInOrder`). R52: the ranges of targets and arguments. R53: the
domain check of each verb. -/
def Obligations.AcceptanceChecksInOrder : Prop :=
  (∀ (s : State) (i : Byte) (r : RawCue),
    let refusal (u : State) (why : Reason) : State := u.passEvent
      { kind := .cueRefused, source := i.toNat,
        stampDomain := match domainOf r.domain with | none => none | some d => (s.stampOf d).1,
        stampCount := match domainOf r.domain with | none => 0 | some d => (s.stampOf d).2,
        d0 := fields [(0, r.tag.toNat), (16, r.verb.toNat)],
        d1 := fields [(0, why.code), (8, 1), (16, r.target.toNat)], flagA := false, flagB := false }
    (r.verb = 0 ∨ 12 < r.verb.toNat → s.acceptRecord i r = refusal s .badVerb) ∧
    ∀ v, Verb.ofCode r.verb = some v →
      let u := if v = .startStream then s.recordRead else s
      (s.targetOk v r = false → s.acceptRecord i r = refusal s .badTarget) ∧
      (s.targetOk v r = true → domainOf r.domain = none → s.acceptRecord i r = refusal s .domainMismatch) ∧
      ∀ d, s.targetOk v r = true → domainOf r.domain = some d →
        (u.domainOk v r d = false → s.acceptRecord i r = refusal u .domainMismatch) ∧
        (u.domainOk v r d = true → v ≠ .startStream → s.acceptRecord i r = s.placeCue i v r d) ∧
        (u.domainOk v r d = true → v = .startStream →
          let start := if r.now = true ∨ reached r.due (s.domain d).count = true then (s.domain d).count + 1 else r.due
          (∀ why, u.engineAccepts r d start = .error why → s.acceptRecord i r = refusal u why) ∧
          (∀ t, u.engineAccepts r d start = .ok t → s.acceptRecord i r = t.placeCue i v r d))) ∧
  (∀ s : State,
    let asked : State := { s with mc := { s.mc with records := s.mc.records ++ [⟨.stageRead, false, [], []⟩] } }
    let point (n : Nat) : State := State.arbitrate^[n] asked
    let waits (u : State) : Prop := ∃ it ∈ u.mc.records, it.work = .stageRead
    (∃ n ≤ 16384, (∀ k < n, waits (point k)) ∧
      (n < 16384 → ¬ waits (point n) ∧ s.recordRead = point n) ∧
      (n = 16384 → s.recordRead = (point n).completeThrough (· == .stageRead))) ∧
    (s.recordRead.cb = s.cb ∧ s.recordRead.phase = s.phase ∧ s.recordRead.mclk = s.mclk ∧
      s.recordRead.pending = s.pending ∧ s.recordRead.cu.list = s.cu.list) ∧
    (s.mc.records = [] → s.mc.refreshPending = 0 → s.urgentStream = none →
      (s.mc.lastOfThree = .stream ∨ (s.mc.lastOfThree = .pass ∧ s.streamWork = none) ∨
        (s.mc.lastOfThree = .record ∧ s.pp.inHand = none ∧ s.streamWork = none)) →
      s.recordRead = { s with mc := { s.mc with lastOfThree := .record } })) ∧
  (∀ (s : State) (r : RawCue) (i : Fin 32) (l : Fin 8) (d : Fin 4) (start : Word), r.target.toNat = i.val →
    (s.streamStage i).lane.toNat = l.val →
    s.engineAccepts r d start = s.acceptStart i (s.streamStage i) l d start) ∧
  (∀ (s : State) (r : RawCue) (v : Verb),
    let motor := ∃ p : Fin 2, r.arg0.toNat = p.val ∧
      r.arg1.toNat < if (s.port p).up = true then (s.port p).announced.faders else 16
    (s.targetOk v r = true ↔ match v with
      | .startStream | .stopStream | .swapRing => r.target.toNat < 32
      | .switchReference | .setRate | .stopDomain | .setOutput => r.target.toNat < 4
      | .assignLane => r.target.toNat < 8 ∧ (r.arg0.toNat < 4 ∨ r.arg0 = 0xFFFFFFFF#32)
      | .laneCommand => r.target.toNat < 8
      | .motorTarget => motor ∧ r.arg2.toNat ≤ 1023
      | .motorFree => motor
      | .mark => True)) ∧
  (∀ (s : State) (r : RawCue) (v : Verb) (d : Fin 4),
    s.domainOk v r d = true ↔ match v with
      | .startStream => ∃ (i : Fin 32) (l : Fin 8), r.target.toNat = i.val ∧ (s.streamStage i).lane.toNat = l.val ∧
          (s.lane l).domain = some d
      | .stopStream | .swapRing => ∃ (i : Fin 32) (g : Geometry), r.target.toNat = i.val ∧ (s.stream i).state ≠ .idle ∧
          (s.stream i).geom = some g ∧ g.domain = d
      | .switchReference | .setRate | .stopDomain => r.target.toNat = d.val
      | .laneCommand => ∃ l : Fin 8, r.target.toNat = l.val ∧ (s.lane l).domain = some d
      | .assignLane => ∃ l : Fin 8, r.target.toNat = l.val ∧ s.mayAssign l d r.arg0
      | .setOutput | .motorTarget | .motorFree | .mark => True)

/-- R55, R56, R57: an accepted cue that is due on a STOPPED domain is applied at once; any other enters the list with
the due frame and the lateness origin of R55, right before the first cue of its domain whose due frame is not reached at its
own, or at the end where there is none. That the first such cue decides where due frames of one domain span 2^31 or more,
and a cue that is reached may then stand behind the new one, is the model's choice (log 52). -/
def Obligations.AcceptedCueIsPlaced : Prop :=
  (∀ (s : State) (i : Byte) (v : Verb) (r : RawCue) (d : Fin 4),
    let c := (s.domain d).count
    let isDue := r.now = true ∨ (c - r.due).toNat < 2147483648
    let running := (s.domain d).run = .locked ∨ (s.domain d).run = .holdover
    ∀ b : CueBody, b.index = i → b.report = r.report → b.domain = d → b.target = r.target → b.tag = r.tag →
      b.now = r.now → b.arg0 = r.arg0 → b.arg1 = r.arg1 → b.arg2 = r.arg2 → b.arg3 = r.arg3 →
      (isDue → b.due = c + 1) → (¬ isDue → b.due = r.due) →
      (r.now = true → running → b.origin = c + 1) → (r.now = true → ¬ running → b.origin = c) →
      (r.now = false → b.origin = r.due) →
      (isDue → ¬ running → s.placeCue i v r d = s.applyCue ⟨v, b⟩) ∧
      (¬ isDue ∨ running → s.placeCue i v r d = { s with cu := { s.cu with list := insertCue ⟨v, b⟩ s.cu.list } })) ∧
  (∀ (c : Cue) (l : List Cue), ∃ a b, l = a ++ b ∧ insertCue c l = a ++ c :: b ∧
    (∀ x ∈ a, x.body.domain = c.body.domain → (c.body.due - x.body.due).toNat < 2147483648) ∧
    (∀ x, b.head? = some x → x.body.domain = c.body.domain ∧ ¬ (c.body.due - x.body.due).toNat < 2147483648))

/-- The row of a verb, `dt` MCLK cycles after the command before where the row carries a time (log 2, log 18). -/
def Sys2Proof.Machine.verbRow (v : Verb) (c : CueBody) (dt : Nat) : Instr :=
  match v with
  | .startStream => .startStream c
  | .stopStream => .stopStream c
  | .swapRing => .swapRing c
  | .switchReference => .switchReference c dt
  | .setRate => .setRate c
  | .stopDomain => .stopDomain c dt
  | .assignLane => .assignLane c
  | .laneCommand => .laneCommand c
  | .setOutput => .setOutput c
  | .motorTarget => .motorTarget c
  | .motorFree => .motorFree c
  | .mark => .mark c

/-- The cue's due frame is reached at its domain's count (R55). -/
abbrev Sys2Proof.Machine.State.dueNow (s : State) (c : CueBody) : Prop :=
  ((s.domain c.domain).count - c.due).toNat < 2147483648

/-- R59, R66, R58: what is left when a cue's owner has left `t` with the answer `r`: the cue is out of the list, its
lateness counted at the count of `s`, its outcome is reported, and a take begins where the free place lets it. R175 leaves
the order of the outcome's event record and of the next record's read open; that the event record stands first is the
model's choice (log 51). -/
def Sys2Proof.Machine.State.afterCue (s t : State) (c : Cue) (r : Option Reason) : State :=
  (({ t with cu := { t.cu with list := t.cu.list.erase c } } : State).reportOutcome c
    ((s.domain c.body.domain).count - c.body.origin) r).beginTake

/-- R59, R60: `c` is the first cue of domain `d` in list order whose due frame is reached at the domain's count. -/
def Sys2Proof.Machine.State.isNextCue (s : State) (d : Fin 4) (c : Cue) : Prop :=
  let comes (x : Cue) : Prop := x.body.domain = d ∧ ((s.domain d).count - x.body.due).toNat < 2147483648
  ∃ a b, s.cu.list = a ++ c :: b ∧ comes c ∧ ∀ x ∈ a, ¬ comes x

/-- The cues `cs`, each the next of domain `d` in its turn, have been applied one after the other from `s` to `t`. -/
def Sys2Proof.Machine.appliedInTurn (d : Fin 4) : List Cue → State → State → Prop
  | [], s, t => t = s
  | c :: cs, s, t => s.isNextCue d c ∧ appliedInTurn d cs (s.applyCue c) t

/-- R57: no cue is applied before its due frame is reached: until then its row changes nothing but the time (log 18), and
from then on its row is the application of its cue, a STOP_DOMAIN followed by the reached cues of a domain that it has
stopped (R61).
R59 step 1 to step 3, R62, R64: MARK is always DONE; a verb whose target has moved to another domain is refused
DOMAIN_MISMATCH; and the application of a cue is its owner's answer followed by its outcome. R66, R68: the outcome of an
applied cue: CUE_DONE where REPORT is set, and always for MARK; CUE_REFUSED always; that its event record stands before the
next take's cue record read is the model's choice (log 51). R59, R60: at a boundary the reached
cues of the domain are applied whole, one after the other in list order, until none is reached or 8 have been; an
application takes its own cue out of the list and no other, but for STOP_STREAM, which takes the START that it cancels out
too (R67); the rest stays, in its order. R61: once a cue of the boundary, or a STOP_DOMAIN, has stopped the domain,
all its reached cues are applied. R62: the check repeated at application, verb by verb. -/
def Obligations.CuesAreAppliedWhole : Prop :=
  (∀ (v : Verb) (c : CueBody) (dt : Nat) (s : State), s.phase ≠ .held → ¬ s.dueNow c →
    ∃ n ≤ dt, exec (verbRow v c dt) s = .next { s with mclk := s.mclk + n }) ∧
  (∀ (v : Verb) (c : CueBody) (dt : Nat) (s : State), s.phase ≠ .held → s.dueNow c →
    let timed := v = .switchReference ∨ v = .stopDomain
    let t := (if timed then { s with mclk := s.mclk + dt } else s).applyCue ⟨v, c⟩
    exec (verbRow v c dt) s =
      .next (if v = .stopDomain ∧ (s.domain c.domain).run ≠ .stopped then t.flushStopped c.domain else t)) ∧
  ((∀ (s : State) (c : CueBody), s.phase ≠ .held → s.dueNow c →
    exec (.mark c) s = .next (s.afterCue s ⟨.mark, c⟩ none)) ∧
  (∀ (s : State) (c : Cue), s.applicationCheck c = false → s.applyCue c = s.afterCue s c (some .domainMismatch)) ∧
  (∀ (s t : State) (c : Cue), s.applicationCheck c = true → s.handOver c = .done t → s.applyCue c = s.afterCue t c none) ∧
  (∀ (s t : State) (c : Cue) (r : Reason), s.applicationCheck c = true → s.handOver c = .refused t r →
    s.applyCue c = s.afterCue t c (some r))) ∧
  (∀ (s : State) (c : Cue) (late : Word),
    (c.body.report = true ∨ c.verb = .mark → s.reportOutcome c late none = s.passEvent
      { kind := .cueDone, source := c.body.index.toNat, stampDomain := (s.stampOf c.body.domain).1,
        stampCount := (s.stampOf c.body.domain).2, d0 := fields [(0, c.body.tag.toNat), (16, verbCode c.verb)],
        d1 := late, flagA := false, flagB := false }) ∧
    (c.body.report = false ∧ c.verb ≠ .mark → s.reportOutcome c late none = s) ∧
    (∀ r, s.reportOutcome c late (some r) = s.passEvent
      { kind := .cueRefused, source := c.body.index.toNat, stampDomain := (s.stampOf c.body.domain).1,
        stampCount := (s.stampOf c.body.domain).2, d0 := fields [(0, c.body.tag.toNat), (16, verbCode c.verb)],
        d1 := fields [(0, r.code), (8, 2), (16, c.body.target.toNat)], flagA := false, flagB := false })) ∧
  (∀ (s : State) (d : Fin 4),
    let t := s.cueBoundary d
    (∃ cs, appliedInTurn d cs s t ∧ ((∀ c, ¬ t.isNextCue d c) ∨ (8 ≤ cs.length ∧ (t.domain d).run ≠ .stopped)) ∧
      ∀ first c rest u, cs = first ++ c :: rest → 8 ≤ first.length → appliedInTurn d first s u →
        (u.domain d).run = .stopped) ∧
    ((s.domain d).run ≠ .stopped → s.flushStopped d = s) ∧
    ((s.domain d).run = .stopped →
      ∃ cs, appliedInTurn d cs s (s.flushStopped d) ∧ ∀ c, ¬ (s.flushStopped d).isNextCue d c) ∧
    ∀ c : Cue,
      let left := (s.applyCue c).cu.list
      let startOf (i : Fin 32) (x : Cue) : Prop := x.verb = .startStream ∧ x.body.target.toNat = i.val
      let cancels (i : Fin 32) : Prop := s.applicationCheck c = true ∧ c.body.target.toNat = i.val ∧
        ((s.stream i).state = .primed ∨ (s.stream i).state = .halted) ∧ ∃ r, (s.stream i).start = some r ∧ r.mark = true
      (c.verb ≠ .stopStream → left = s.cu.list.erase c) ∧
      (c.verb = .stopStream → (∀ i, cancels i → ∀ x ∈ s.cu.list, ¬ startOf i x) → left = s.cu.list.erase c) ∧
      (c.verb = .stopStream → ∀ (i : Fin 32) (a b : List Cue) (x : Cue), cancels i → s.cu.list = a ++ x :: b →
        startOf i x → (∀ y ∈ a, ¬ startOf i y) → left = (a ++ b).erase c)) ∧
  (∀ (s : State) (c : Cue),
    let b := c.body
    s.applicationCheck c = true ↔ match c.verb with
      | .stopStream | .swapRing => ∀ i : Fin 32, b.target.toNat = i.val → (s.stream i).state ≠ .idle →
          ∃ g, (s.stream i).geom = some g ∧ g.domain = b.domain
      | .laneCommand => ∀ l : Fin 8, b.target.toNat = l.val → (s.lane l).domain = some b.domain
      | .assignLane => ∀ l : Fin 8, b.target.toNat = l.val → s.mayAssign l b.domain b.arg0
      | _ => True)

/-- R116, R62: LANE_COMMAND adds its word at the back of the queue of a TRAINING or UP lane of the cue's domain that
holds fewer than 8, and nothing else changes; a full queue, a FAULT lane and a lane of another domain refuse it. R104:
ASSIGN_LANE gives the lane a domain and TRAINING, or takes its domain away, as long as no stream on it is active and no
boundary is in hand; the queued words count as dropped and the lane's record is written. -/
def Obligations.LaneCuesFollowTheirRules : Prop :=
  (∀ (s : State) (c : CueBody) (l : Fin 8), s.phase ≠ .held → s.dueNow c → c.target.toNat = l.val →
    let x := s.lane l
    let k : Cue := ⟨.laneCommand, c⟩
    (x.domain = some c.domain → x.state = .training ∨ x.state = .up → x.queue.length < 8 →
      exec (.laneCommand c) s = .next (s.afterCue (s.setLane l { x with queue := x.queue ++ [c.arg0] }) k none)) ∧
    (x.domain = some c.domain → x.state = .training ∨ x.state = .up → 8 ≤ x.queue.length →
      exec (.laneCommand c) s = .next (s.afterCue s k (some .controlFull))) ∧
    (x.domain = some c.domain → x.state = .fault →
      exec (.laneCommand c) s = .next (s.afterCue s k (some .wrongState))) ∧
    (x.domain ≠ some c.domain → exec (.laneCommand c) s = .next (s.afterCue s k (some .domainMismatch)))) ∧
  (∀ (s : State) (c : CueBody) (l : Fin 8), s.phase ≠ .held → s.dueNow c → c.target.toNat = l.val →
    s.li.atBoundary = [] → s.applicationCheck ⟨.assignLane, c⟩ = true →
    let x := s.lane l
    let k : Cue := ⟨.assignLane, c⟩
    let fresh : Lane := { x with
      trainingRun := 0, badRun := 0, countdown := none, expected := none, lastStatus := none, queue := [],
      counters := { x.counters with dropped := satAdd x.counters.dropped x.queue.length } }
    let busy := ∃ i, (s.stream i).state.active = true ∧ ∃ g, (s.stream i).geom = some g ∧ g.lane = l
    (¬ busy → ∀ d : Fin 4, c.arg0.toNat = d.val → exec (.assignLane c) s = .next (s.afterCue (((s.setLane l
      { fresh with state := .training, domain := some d, lateOut := true, lateIn := true }).clearWindow l).request (.lane l))
        k none)) ∧
    (¬ busy → c.arg0 = 0xFFFFFFFF#32 → x.state ≠ .idle → exec (.assignLane c) s = .next (s.afterCue (((s.setLane l
      { fresh with state := .idle, domain := none }).clearWindow l).request (.lane l)) k none)) ∧
    (¬ busy → c.arg0 = 0xFFFFFFFF#32 → x.state = .idle → exec (.assignLane c) s = .next (s.afterCue s k none)) ∧
    (busy → c.arg0.toNat < 4 ∨ c.arg0 = 0xFFFFFFFF#32 →
      exec (.assignLane c) s = .next (s.afterCue s k (some .wrongState))))

/-- R136, R137: MOTOR_TARGET and MOTOR_FREE on a fader of an UP port act by the motor's state and the touch, mark the
motor dirty where a command is to be sent, and write the image where a motor changed; a DOWN port and a fader that is
not announced refuse them. -/
def Obligations.MotorCuesDriveTheMotor : Prop :=
  ∀ (s : State) (c : CueBody) (p : Fin 2) (f : Fin 16), s.phase ≠ .held → s.dueNow c → c.arg0.toNat = p.val →
    c.arg1.toNat = f.val →
    let x := s.port p
    let pos := c.arg2.extractLsb' 0 10
    let held : Port := { x with motors := x.motors.set f ⟨.held, some pos⟩ }
    let driven : Port := { x with motors := x.motors.set f ⟨.driven, some pos⟩, dirty := x.dirty.set (motorItem f) .target }
    let freed : Port := { x with motors := x.motors.set f ⟨.free, none⟩, dirty := x.dirty.set (motorItem f) .release }
    let written (y : Port) : State :=
      if y.motors = x.motors then s.setPort p y.draw else (s.setPort p y.draw).requestImage p []
    (x.up = true → f.val < x.announced.faders →
      (x.motors[f].state = .held ∨ (x.motors[f].state = .free ∧ x.faders[f].touched = true) →
        exec (.motorTarget c) s = .next (s.afterCue (written held) ⟨.motorTarget, c⟩ none)) ∧
      (x.motors[f].state = .driven ∨ (x.motors[f].state = .free ∧ x.faders[f].touched = false) →
        exec (.motorTarget c) s = .next (s.afterCue (written driven) ⟨.motorTarget, c⟩ none)) ∧
      (x.motors[f].state = .driven ∨ x.motors[f].state = .held →
        exec (.motorFree c) s = .next (s.afterCue (written freed) ⟨.motorFree, c⟩ none)) ∧
      (x.motors[f].state = .free →
        exec (.motorFree c) s = .next (s.afterCue (s.setPort p x.draw) ⟨.motorFree, c⟩ none))) ∧
    (x.up = false →
      exec (.motorTarget c) s = .next (s.afterCue s ⟨.motorTarget, c⟩ (some .portDown)) ∧
      exec (.motorFree c) s = .next (s.afterCue s ⟨.motorFree, c⟩ (some .portDown))) ∧
    (x.up = true → x.announced.faders ≤ f.val →
      exec (.motorTarget c) s = .next (s.afterCue s ⟨.motorTarget, c⟩ (some .badTarget)) ∧
      exec (.motorFree c) s = .next (s.afterCue s ⟨.motorFree, c⟩ (some .badTarget)))

/-- R96, R98: SET_OUTPUT acts by the output's state and the stage: disabled, or given settings equal to or different from
those in force; an invalid stage refuses it. R96, R188: the stage asks to disable where its enable bit is clear, whatever
else it holds; with the bit set it gives settings where the domain is 0 to 3 and the divider 1, 2 or 4, and is invalid
otherwise. The stage is read in its turn (R175), with all checks after it (log 49), and the output is one whose due edges
have been made (log 13). That settings given to an ENDING output stand as its pending settings, which the settings in
force clear, is the model's reading (log 30). -/
def Obligations.SetOutputFollowsItsTable : Prop :=
  (∀ (s : State) (c : CueBody) (o : Fin 4), s.phase ≠ .held → s.dueNow c → c.target.toNat = o.val →
    let r := s.recordRead
    let u := r.overdueEdges o
    let x := u.output o
    let k : Cue := ⟨.setOutput, c⟩
    (r.outputStage o = .invalid → exec (.setOutput c) s = .next (s.afterCue r k (some .badStage))) ∧
    (r.outputStage o = .disable → exec (.setOutput c) s = .next (s.afterCue (u.putOutput o x.disable) k none)) ∧
    (∀ p, r.outputStage o = .settings p → exec (.setOutput c) s = .next (s.afterCue
      (if (x.enableWith p).pendingSettings.isSome then (u.putOutput o (x.enableWith p)).request (.output o)
        else u.putOutput o (x.enableWith p)) k none))) ∧
  (∀ (x : WordOutput) (p : OutputSettings),
    let off : WordOutput := { x with settings := { x.settings with enable := false }, pendingSettings := none }
    (x.state = .off → x.disable = x ∧ x.enableWith p = { x with settings := p, state := .waiting }) ∧
    (x.state = .waiting → x.disable = { off with state := .off } ∧ x.enableWith p = { x with settings := p }) ∧
    (x.state = .running → x.line = true → x.disable = { off with state := .ending }) ∧
    (x.state = .running → x.line = false → x.disable = { off with state := .off, riseAt := none }) ∧
    (x.state = .ending → x.disable = off) ∧
    (x.state = .running ∨ x.state = .ending → p = x.settings → x.enableWith p = { x with pendingSettings := none }) ∧
    (x.state = .running ∨ x.state = .ending → p ≠ x.settings → x.enableWith p = { x with pendingSettings := some p })) ∧
  (∀ (s : State) (o : Fin 4),
    let w := s.mem.readWord (s.base + 0x2440 + 16 * o.val)
    let names (d : Fin 4) (k : Factor) : Prop :=
      (w.extractLsb' 8 8).toNat = d.val ∧ (w.extractLsb' 16 8).toNat = k.value
    (w.getLsbD 0 = false → s.outputStage o = .disable) ∧
    (∀ d k, w.getLsbD 0 = true → names d k → s.outputStage o = .settings ⟨true, d, k⟩) ∧
    (w.getLsbD 0 = true → (∀ d k, ¬ names d k) → s.outputStage o = .invalid))

/-! ## Streams -/

/-- R186, R103: the fields of a stream's stage entry, and the capacity of a lane. R20, R3: a stage read on a lane of
domain `d` whose capacity is given is valid exactly within the ranges of R20, and the geometry taken from it is what it
says. R24, R4, R23, R25: the checks of a START_STREAM's acceptance in order, and what acceptance leaves: the ring with
fresh periods, the slots in the map, and a PRIMED context with its start record marked and its counters 0.
(`AcceptanceChecksInOrder` says where a taken record meets them.) -/
def Obligations.StartAcceptanceChecksInOrder : Prop :=
  (∀ (s : State) (i : Fin 32) (l : Fin 8),
    let word (k : Nat) : Word := s.mem.readWord (s.base + 0x2000 + 32 * i.val + 4 * k)
    let byte (k n : Nat) : Byte := (word k).extractLsb' (8 * n) 8
    s.streamStage i = {
      dir := byte 0 0, lane := byte 0 1, firstSlot := byte 0 2, channels := byte 0 3, base := word 1,
      frames := (word 2).extractLsb' 0 16, count := byte 2 2, policy := byte 3 0, late := byte 3 1,
      notify := (word 3).getLsbD 16 } ∧
    ((s.lane l).domain = none → s.capacity l = 0) ∧
    (∀ d, (s.lane l).domain = some d →
      s.capacity l = match (s.domain d).mult with | .x1 => 64 | .x2 => 32 | .x4 => 16)) ∧
  (∀ (g : StreamStage) (controlBase capacity : Nat) (l : Fin 8) (d : Fin 4) (y : Geometry),
    g.geometry controlBase l d capacity = some y ↔
      ((y.dir = .play ∧ g.dir = 1 ∧ (y.policy = .keepTime ∧ g.policy = 1 ∨ y.policy = .keepData ∧ g.policy = 2) ∧
          (y.late = some .land ∧ g.late = 1 ∨ y.late = some .block ∧ g.late = 2)) ∨
        (y.dir = .capture ∧ g.dir = 2 ∧ (y.policy = .dropNew ∧ g.policy = 1 ∨ y.policy = .reclaim ∧ g.policy = 2) ∧
          y.late = none)) ∧
      y.lane = l ∧ y.domain = d ∧ y.firstSlot = g.firstSlot.toNat ∧ y.channels = g.channels.toNat ∧
      y.base = g.base.toNat ∧ y.frames = g.frames.toNat ∧ y.count = g.count.toNat ∧ y.notify = g.notify ∧
      1 ≤ y.channels ∧ y.channels ≤ 64 ∧ y.firstSlot + y.channels ≤ capacity ∧
      16 ≤ y.frames ∧ y.frames ≤ 4096 ∧ y.frames % 16 = 0 ∧ 2 ≤ y.count ∧ y.count ≤ 16 ∧
      y.base % 64 = 0 ∧ y.base + y.frames * y.channels * 4 * y.count ≤ controlBase) ∧
  (∀ (s : State) (i : Fin 32) (stage : StreamStage) (l : Fin 8) (d : Fin 4) (start : Word),
    ((s.stream i).state ≠ .idle → s.acceptStart i stage l d start = .error .wrongState) ∧
    ((s.stream i).state = .idle → stage.geometry s.base l d (s.capacity l) = none →
      s.acceptStart i stage l d start = .error .badStage) ∧
    ∀ g, (s.stream i).state = .idle → stage.geometry s.base l d (s.capacity l) = some g →
      let changing := (∃ c, (s.domain d).candidate = some c ∧ (c.family ≠ (s.domain d).family ∨ c.mult ≠ (s.domain d).mult)) ∨
        ∃ r, (s.domain d).rateChange = some r ∧ r.mult ≠ (s.domain d).mult
      let taken := ∃ j : Fin 64, g.firstSlot ≤ j.val ∧ j.val < g.firstSlot + g.channels ∧ (s.slotMap g.dir l)[j] ≠ none
      let size := g.frames * g.channels * 4 * g.count
      let overlap := ∃ k e, s.entry k = some e ∧ ∃ r ∈ e.rings, rangesOverlap g.base size r.base r.bytes = true
      ((s.lane l).state ≠ .up → s.acceptStart i stage l d start = .error .laneNotUp) ∧
      ((s.lane l).state = .up → changing → s.acceptStart i stage l d start = .error .busy) ∧
      ((s.lane l).state = .up → ¬ changing → taken → s.acceptStart i stage l d start = .error .slotConflict) ∧
      ((s.lane l).state = .up → ¬ changing → ¬ taken → overlap → s.acceptStart i stage l d start = .error .ringOverlap) ∧
      ((s.lane l).state = .up → ¬ changing → ¬ taken → ¬ overlap →
        ∃ u : State, s.acceptStart i stage l d start = .ok (u.request (.live i)) ∧
          u.entry i = some {
            dir := g.dir, notify := g.notify, late := g.late.getD .land,
            current := Ring.fresh g.dir g.base g.channels g.frames g.count, pendingRing := none, retiring := none } ∧
          (∀ k, k ≠ i → u.entry k = s.entry k ∧ u.stream k = s.stream k) ∧
          u.stream i = { Stream.powerOn with
            state := .primed, geom := some g, start := some ⟨start, true⟩, next := start } ∧
          (∀ j : Fin 64, (u.slotMap g.dir l)[j] =
            if g.firstSlot ≤ j.val ∧ j.val < g.firstSlot + g.channels then some i else (s.slotMap g.dir l)[j]) ∧
          u.mem = s.mem ∧ u.cb = s.cb ∧ u.li = s.li ∧ u.ru = s.ru ∧ u.mc = s.mc ∧ u.cu = s.cu))

/-- An event of stream `i` with its stamp (R44). -/
def Sys2Proof.Machine.State.ofStream (s : State) (k : EventKind) (i : Fin 32) (d0 d1 : Word) (flagA flagB : Bool) : Event :=
  { kind := k, source := i.val, stampDomain := (s.streamStamp i).1, stampCount := (s.streamStamp i).2, d0 := d0, d1 := d1,
    flagA := flagA, flagB := flagB }

/-- R26, R44: START_STREAM applied to a PRIMED stream clears the mark of its start record, makes it RUNNING, or STARVED
where a playback stream is starved, and passes STREAM_STARTED, then STARVED (log 34); a HALTED stream refuses it
WRONG_STATE, with its mark cleared. R26 speaks of no other stream: that one in any other state, IDLE among them, refuses
it WRONG_STATE is the model's reading (log 18). -/
def Obligations.StartStreamRunsThePrimedStream : Prop :=
  ∀ (s : State) (c : CueBody) (i : Fin 32), s.phase ≠ .held → s.dueNow c → c.target.toNat = i.val →
    let x := s.stream i
    let k : Cue := ⟨.startStream, c⟩
    let y : Stream := { x with start := x.start.map (fun r => { r with mark := false }) }
    let started (g : Geometry) (t : State) (code : Nat) : State := (t.request (.live i)).passEvent
      (s.ofStream .streamStarted i (fields [(0, g.dir.code), (8, code)])
        (match x.start with | none => 0 | some r => r.frame) false false)
    (∀ g, x.geom = some g → x.state = .primed → x.starved = none ∨ g.dir = .capture →
      exec (.startStream c) s = .next (s.afterCue (started g (s.setStream i { y with state := .running }) 2) k none)) ∧
    (∀ g z, x.geom = some g → x.state = .primed → g.dir = .play → x.starved = some z →
      exec (.startStream c) s = .next (s.afterCue ((started g (s.setStream i { y with state := .starved }) 3).passEvent
        (s.ofStream .starved i (fields [(0, z.period)]) z.frame false false)) k none)) ∧
    (x.state = .halted →
      exec (.startStream c) s = .next (s.afterCue (s.setStream i y) k (some .wrongState))) ∧
    (x.state ≠ .primed → x.state ≠ .halted →
      exec (.startStream c) s = .next (s.afterCue s k (some .wrongState)))

/-- R39, R40, R41, R67: STOP_STREAM acts by the stream's state and the mode, a mode that names neither being STOP_NOW
(that all 32 bits of the argument are read is the model's choice, log 46); the lane's inbound staging is then drained of
frames that no stream has still to store (R30). R41: the last frame of a stream stopped at its period's end: c + F - 1 - f
where staged frame c carries frame f of a period of F frames (playback), or where frame c will be stored as frame f
(capture). Where frame c goes with zeros the frame of the period is reckoned from the next staged frame that carries the
stream, or, with nothing of it staged, from the position; under KEEP_TIME, whose position passes a frame for every lane
frame (R33), frame c may then be the last of the period before (log 17). R41: the frames staged beyond the last frame go
with zeros, and nothing more is noted of the stream in them. R67: a STOP_STREAM on a PRIMED or HALTED stream whose start
record is marked takes its START cue out of the list, with the outcome CANCELLED. -/
def Obligations.StopStreamFollowsItsTable : Prop :=
  (∀ (s : State) (c : CueBody) (i : Fin 32), s.phase ≠ .held → s.dueNow c → c.target.toNat = i.val →
    let x := s.stream i
    let k : Cue := ⟨.stopStream, c⟩
    (x.state = .idle → exec (.stopStream c) s = .next (s.afterCue s k (some .wrongState))) ∧
    ∀ g : Geometry, x.geom = some g → g.domain = c.domain →
    let atEnd := c.arg0 = 2
    let how : StopHow := if atEnd then .periodEnd else .now
    (x.state = .primed → exec (.stopStream c) s = .next
      (s.afterCue (((s.cancelStart i c.index).becomeIdle i .whilePrimed).drainInbound g.lane) k none)) ∧
    (x.state = .halted → exec (.stopStream c) s = .next
      (s.afterCue (((s.cancelStart i c.index).becomeIdle i .whileHalted).drainInbound g.lane) k none)) ∧
    (x.state = .starved ∨ x.state = .overflowing → exec (.stopStream c) s = .next
      (s.afterCue ((s.becomeIdle i how).drainInbound g.lane) k none)) ∧
    (x.state = .running → ¬ atEnd → g.dir = .play →
      exec (.stopStream c) s = .next (s.afterCue (s.becomeIdle i .now) k none)) ∧
    (x.state = .running → ¬ atEnd → g.dir = .capture →
      let last := match x.stop with
        | none => c.due - 1
        | some r => if (c.due - 1 - r.last).toNat < 2147483648 then r.last else c.due - 1
      let t := (s.setStream i { x with stop := some ⟨.now, last⟩ }).request (.live i)
      let u := if (x.next - (last + 1)).toNat < 2147483648 then t.becomeIdle i .now else t
      exec (.stopStream c) s = .next (s.afterCue (u.drainInbound g.lane) k none)) ∧
    (x.state = .running → atEnd → x.stop ≠ none → exec (.stopStream c) s = .next (s.afterCue s k (some .busy))) ∧
    (x.state = .running → atEnd → x.stop = none →
      let count := (s.domain g.domain).count
      let last := s.periodEndFrame i g count
      let t := (s.setStream i { x with
        stop := some ⟨.periodEnd, last⟩, swap := none,
        swapDropped := x.swapDropped || x.swap.isSome }).request (.live i)
      exec (.stopStream c) s = .next (s.afterCue
        (match g.dir with | .play => t.silenceBeyond i count last | .capture => t.drainInbound g.lane) k none))) ∧
  (∀ (s : State) (i : Fin 32) (g : Geometry) (c : Word),
    let x := s.stream i
    let staged (k : Nat) : List Carry := (s.lane g.lane).outbound[placeOf (c + BitVec.ofNat 32 k)].carries
    let depth := if g.lane ∈ s.li.atBoundary then 3 else 4
    (g.dir = .play → ∀ (k : Nat) (r : Carry), k < depth → (staged k).find? (fun r => r.stream == i) = some r →
      (∀ m < k, ∀ q ∈ staged m, q.stream ≠ i) →
      let n := c + BitVec.ofNat 32 k
      (g.policy = .keepTime ∧ r.frame < k → s.periodEndFrame i g c = n - BitVec.ofNat 32 (r.frame + 1)) ∧
      (¬ (g.policy = .keepTime ∧ r.frame < k) →
        s.periodEndFrame i g c = n + BitVec.ofNat 32 (r.frames - 1 - r.frame))) ∧
    (g.dir = .play → (∀ k < depth, ∀ q ∈ staged k, q.stream ≠ i) →
      let ahead := (c - x.next).toNat
      let gap := (x.next - c).toNat
      let before := g.policy = .keepTime ∧ gap < 2147483648 ∧ x.frame < gap
      (ahead < 2147483648 →
        s.periodEndFrame i g c = c + BitVec.ofNat 32 (g.frames - 1 - (x.frame + ahead) % g.frames)) ∧
      (2147483648 ≤ ahead → before → s.periodEndFrame i g c = x.next - BitVec.ofNat 32 (x.frame + 1)) ∧
      (2147483648 ≤ ahead → ¬ before → s.periodEndFrame i g c = x.next + BitVec.ofNat 32 (g.frames - 1 - x.frame))) ∧
    (g.dir = .capture → (c - x.next).toNat < 2147483648 →
      s.periodEndFrame i g c =
        c + BitVec.ofNat 32 (g.frames - 1 - (x.frame + (c - x.next).toNat) % g.frames)) ∧
    ∀ last : Word, x.geom = some g →
      let y := s.lane g.lane
      ∃ out : Vector OutPlace 4, s.silenceBeyond i c last = s.setLane g.lane { y with outbound := out } ∧
        ∀ j : Fin 4,
          let k := placeOf (c + BitVec.ofNat 32 j.val)
          let beyond := (last - c).toNat < j.val ∧ j.val < depth
          (¬ beyond → out[k] = y.outbound[k]) ∧
          (beyond → out[k].carries = y.outbound[k].carries.filter (fun r => r.stream != i) ∧
            ∀ n : Fin 64, out[k].slots[n] =
              if g.firstSlot ≤ n.val ∧ n.val < g.firstSlot + g.channels then 0 else y.outbound[k].slots[n])) ∧
  (∀ (s : State) (i : Fin 32) (stop : Byte),
    (∀ (a b : List Cue) (c : CueBody) (r : StartRecord), (s.stream i).state = .primed ∨ (s.stream i).state = .halted →
      (s.stream i).start = some r → r.mark = true → s.cu.list = a ++ ⟨.startStream, c⟩ :: b → c.target.toNat = i.val →
      (∀ x ∈ a, ¬ (x.verb = .startStream ∧ x.body.target.toNat = i.val)) →
      s.cancelStart i stop = ({ s with cu := { s.cu with list := a ++ b } } : State).passEvent
        { kind := .cueCancelled, source := c.index.toNat, stampDomain := (s.stampOf c.domain).1,
          stampCount := (s.stampOf c.domain).2, d0 := fields [(0, c.tag.toNat), (16, 1)],
          d1 := fields [(0, i.val), (8, stop.toNat)], flagA := false, flagB := false }) ∧
    ((∀ r, (s.stream i).start = some r → r.mark = false) → s.cancelStart i stop = s) ∧
    ((s.stream i).state ≠ .primed → (s.stream i).state ≠ .halted → s.cancelStart i stop = s))

/-- R42, R8, R44: a stream that becomes IDLE leaves the slot map and its staged frames, its directory entry is removed,
its context keeps its counters and no other part but the resumption mark (that the mark is kept is the model's reading,
log 41), and the live record and STREAM_STOPPED follow. R43: a lane's FAULT halts a PRIMED, RUNNING, STARVED or
OVERFLOWING stream, which keeps everything else, carries zero, and is reported; a HALTED or an IDLE stream is unchanged.
R43, R117: of a lane the playback streams are halted and then the capture streams, each in rising number, which is the
model's choice (log 44); its inbound staging is then drained of frames that no stream has still to store (R30). -/
def Obligations.StreamsLeaveAsRuled : Prop :=
  (∀ (s : State) (i : Fin 32) (how : StopHow) (g : Geometry), (s.stream i).geom = some g →
    let x := s.stream i
    ∃ u : State, s.becomeIdle i how = (u.request (.live i)).passEvent (s.ofStream .streamStopped i (fields [(0, how.code)])
        (match x.lastFrame with | none => 0 | some n => n) (x.swapDropped || x.swap.isSome) x.lastFrame.isSome) ∧
      u.stream i = { Stream.powerOn with counters := x.counters, resumeMark := x.resumeMark } ∧
      (∀ j, j ≠ i → u.stream j = s.stream j) ∧
      u.entry i = none ∧ (∀ j, j ≠ i → u.entry j = s.entry j) ∧
      (∀ dir l (j : Fin 64), (u.slotMap dir l)[j] =
        if dir = g.dir ∧ l = g.lane ∧ (s.slotMap dir l)[j] = some i then none else (s.slotMap dir l)[j]) ∧
      (∀ l (k : Fin 4) (j : Fin 64), (u.lane l).outbound[k].slots[j] =
        if g.dir = .play ∧ l = g.lane ∧ g.firstSlot ≤ j.val ∧ j.val < g.firstSlot + g.channels then 0
          else (s.lane l).outbound[k].slots[j]) ∧
      EngineOnly s u ∧ u.mem = s.mem ∧ u.ru = s.ru ∧ u.mc = s.mc) ∧
  (∀ (s : State) (i : Fin 32) (g : Geometry), (s.stream i).geom = some g →
    ((s.stream i).state = .idle ∨ (s.stream i).state = .halted → s.haltStream i = s) ∧
    ((s.stream i).state ≠ .idle → (s.stream i).state ≠ .halted →
      ∃ u : State, s.haltStream i = (u.request (.live i)).passEvent (s.ofStream .streamHalted i
          (fields [(0, (s.stream i).state.code)]) (nat32 g.lane.val) false false) ∧
        u.stream i = { s.stream i with state := .halted, words := 0 } ∧ (∀ j, j ≠ i → u.stream j = s.stream j) ∧
        u.rw = s.rw ∧ u.mem = s.mem ∧ (∀ dir l, u.slotMap dir l = s.slotMap dir l) ∧
        (g.dir = .play → ∀ (k : Fin 4) (j : Fin 64), (u.lane g.lane).outbound[k].slots[j] =
          if g.firstSlot ≤ j.val ∧ j.val < g.firstSlot + g.channels then 0 else (s.lane g.lane).outbound[k].slots[j]) ∧
        (∀ l, (u.lane l).inbound = (s.lane l).inbound ∧ (u.lane l).state = (s.lane l).state) ∧
        EngineOnly s u ∧ u.ru = s.ru ∧ u.mc = s.mc ∧ (g.dir = .capture → u.li = s.li) ∧
        (∀ l, l ≠ g.lane → u.lane l = s.lane l) ∧
        (g.dir = .play → ∀ k : Fin 4, (u.lane g.lane).outbound[k].carries =
          (s.lane g.lane).outbound[k].carries.filter (fun c => c.stream != i)))) ∧
  (∀ (s : State) (l : Fin 8),
    let on (dir : Direction) (i : Fin 32) : Bool := (s.stream i).geom.any (fun g => g.lane == l && g.dir == dir)
    s.haltLane l = (((List.finRange 32).filter (on .play) ++ (List.finRange 32).filter (on .capture)).foldl
      State.haltStream s).drainInbound l)

/-- R37, R5: SWAP_RING by the first case that applies, with the stage entry read in its turn (R175) and the stream as it
then stands (log 49); the order of R5's three conditions is the model's choice (log 43). R28, R38, R6, R7: a position
passes one frame; past the last frame of the last period it goes to period 0, which is the model's reading for a stream
that stops at its period's end too (log 50), and a pending swap is then made: the
rings move, the geometry takes the new ring, and SWAP_DONE follows the live record. -/
def Obligations.SwapsAreMadeAtTheWrap : Prop :=
  (∀ (s : State) (c : CueBody) (i : Fin 32), s.phase ≠ .held → s.dueNow c → c.target.toNat = i.val →
    s.applicationCheck ⟨.swapRing, c⟩ = true →
    let u := s.recordRead
    let x := u.stream i
    let k : Cue := ⟨.swapRing, c⟩
    let y := u.streamStage i
    (x.geom = none → exec (.swapRing c) s = .next (s.afterCue u k (some .wrongState))) ∧
    ∀ (g : Geometry) (e : RingEntry), x.geom = some g → u.entry i = some e →
    let away := x.state = .idle ∨ x.state = .primed ∨ x.state = .halted ∨ x.stop ≠ none
    let same := (g.dir = .play ∧ y.dir = 1 ∨ g.dir = .capture ∧ y.dir = 2) ∧ y.lane.toNat = g.lane.val ∧
      y.firstSlot.toNat = g.firstSlot ∧ y.channels.toNat = g.channels ∧ 16 ≤ y.frames.toNat ∧ y.frames.toNat ≤ 4096 ∧
      y.frames.toNat % 16 = 0 ∧ 2 ≤ y.count.toNat ∧ y.count.toNat ≤ 16
    let size := y.frames.toNat * e.current.channels * 4 * y.count.toNat
    let fits := y.base.toNat % 64 = 0 ∧ y.base.toNat + size ≤ u.base
    let overlap := ∃ j f, u.entry j = some f ∧ ∃ r ∈ f.rings, rangesOverlap y.base.toNat size r.base r.bytes = true
    let ring := Ring.fresh e.dir y.base.toNat e.current.channels y.frames.toNat y.count.toNat
    (away → exec (.swapRing c) s = .next (s.afterCue u k (some .wrongState))) ∧
    (¬ away → x.swap ≠ none → exec (.swapRing c) s = .next (s.afterCue u k (some .busy))) ∧
    (¬ away → x.swap = none → ¬ same → exec (.swapRing c) s = .next (s.afterCue u k (some .badStage))) ∧
    (¬ away → x.swap = none → same → e.pendingRing ≠ none ∨ e.retiring ≠ none →
      exec (.swapRing c) s = .next (s.afterCue u k (some .busy))) ∧
    (¬ away → x.swap = none → same → e.pendingRing = none → e.retiring = none → ¬ fits →
      exec (.swapRing c) s = .next (s.afterCue u k (some .badStage))) ∧
    (¬ away → x.swap = none → same → e.pendingRing = none → e.retiring = none → fits → overlap →
      exec (.swapRing c) s = .next (s.afterCue u k (some .ringOverlap))) ∧
    (¬ away → x.swap = none → same → e.pendingRing = none → e.retiring = none → fits → ¬ overlap →
      exec (.swapRing c) s = .next (s.afterCue (((u.setEntry i (some { e with pendingRing := some ring })).setStream i
        { x with swap := some ⟨y.base.toNat, y.frames.toNat, y.count.toNat⟩ }).request (.live i)) k none))) ∧
  (∀ (s : State) (i : Fin 32) (g : Geometry), (s.stream i).geom = some g →
    let x := s.stream i
    (x.frame + 1 < g.frames → s.advance i = s.setStream i { x with frame := x.frame + 1 }) ∧
    (g.frames ≤ x.frame + 1 → x.period + 1 < g.count →
      s.advance i = s.setStream i { x with period := x.period + 1, frame := 0 }) ∧
    (g.frames ≤ x.frame + 1 → g.count ≤ x.period + 1 → x.swap = none →
      s.advance i = s.setStream i { x with period := 0, frame := 0 }) ∧
    (∀ (w : SwapRecord) (e : RingEntry) (r : Ring), g.frames ≤ x.frame + 1 → g.count ≤ x.period + 1 → x.swap = some w →
      s.entry i = some e → e.pendingRing = some r →
      let unfinished := ∃ q ∈ e.current.periods, q.state = .playing ∨ q.state = .ready ∨ q.state = .filling
      ∃ f, (unfinished → f = { e with current := r, pendingRing := none, retiring := some e.current }) ∧
        (¬ unfinished → f = { e with current := r, pendingRing := none, retiring := none }) ∧
        s.advance i = ((((s.setEntry i (some f)).setStream i { x with
          period := 0, frame := 0, swap := none,
          geom := some { g with base := w.base, frames := w.frames, count := w.count } }).request (.live i)).passEvent
            (s.ofStream .swapDone i (nat32 g.base) (nat32 w.base) false false))))

/-- R28, R30: the work of one stream changes memory, the directory, the streams and slot maps, the staging of the lanes
and what is reported, and nothing else but the turns of R176, in which its lane and direction count as served, whether or
not the grant moves a word (log 40); a fetch
stores nothing, and a store changes no byte outside the stream's frame. A row with nothing to fetch or to store for its
stream changes nothing. -/
def Obligations.EngineWorkKeepsTheRest : Prop :=
  (∀ (s : State) (i : Fin 32), s.phase ≠ .held →
    (s.fetchReady i = true →
      ∃ t, exec (.streamFetch i) s = .next t ∧ EngineOnly (s.serveStream i .outbound) t ∧ t.mem = s.mem) ∧
    (s.storeReady i = true →
      ∃ t, exec (.streamStore i) s = .next t ∧ EngineOnly (s.serveStream i .inbound) t ∧
        ∀ g, (s.stream i).geom = some g → s.mem.wf = true → ∀ a : Nat,
          a < (s.stream i).address g 0 ∨ (s.stream i).address g 0 + 4 * g.channels ≤ a →
            t.mem.readByte a = s.mem.readByte a)) ∧
  (∀ (s : State) (i : Fin 32),
    (s.fetchReady i = false → exec (.streamFetch i) s = .next s) ∧
    (s.storeReady i = false → exec (.streamStore i) s = .next s) ∧
    ((s.stream i).geom = none → s.fetchReady i = false ∧ s.storeReady i = false)) ∧
  (∀ (s : State) (i : Fin 32) (g : Geometry) (dir : FlowDir), (s.stream i).geom = some g →
    s.serveStream i dir = { s with
      mc := { s.mc with lastOfThree := .stream, laneTurn := g.lane, laneDir := s.mc.laneDir.set g.lane dir } })

/-- R27: the stream's next frame is in the fetch window and is the earliest that its lane has still to fetch. -/
abbrev Sys2Proof.Machine.State.fetchIsNext (s : State) (i : Fin 32) (g : Geometry) : Prop :=
  g.dir = .play ∧ s.mayFetch i = true ∧ s.fetchInOrder i = true ∧ (s.stream i).words = 0

/-- R28, R13: the fetch of a frame, whose period is PLAYING, or at frame 0 FILLED and then PLAYING: every word of the
frame is in the stream's slot of the staged frame, other slots are as they were, what the frame carries is noted, the
position goes on, past the last frame of a period too, and the lane's outbound direction counts as served (R176). R24, R45:
the first frame fetched sets the start stamp, and the live record is asked for; that it shows the position before this
frame's advance is the model's choice (log 45). -/
def Obligations.FetchPlacesTheFrame : Prop :=
  (∀ (s : State) (i : Fin 32) (g : Geometry) (e : RingEntry) (rec : PeriodRec), s.phase ≠ .held →
    (s.stream i).geom = some g → s.fetchIsNext i g → (s.stream i).starved = none → s.entry i = some e →
    e.current.period (s.stream i).period = some rec → g.firstSlot + g.channels ≤ 64 → 1 ≤ g.channels →
    (s.stream i).frame + 1 < g.frames →
    ((s.stream i).frame = 0 → rec.state = .filled ∨ rec.state = .playing) →
    let x := s.stream i
    let k := placeOf x.next
    ∃ t, exec (.streamFetch i) s = .next t ∧
      (∀ j : Fin 64, g.firstSlot ≤ j.val → j.val < g.firstSlot + g.channels →
        (t.lane g.lane).outbound[k].slots[j] = s.mem.readWord (x.address g (j.val - g.firstSlot))) ∧
      (∀ j : Fin 64, j.val < g.firstSlot ∨ g.firstSlot + g.channels ≤ j.val →
        (t.lane g.lane).outbound[k].slots[j] = (s.lane g.lane).outbound[k].slots[j]) ∧
      (∀ m, m ≠ k → (t.lane g.lane).outbound[m] = (s.lane g.lane).outbound[m]) ∧
      (t.lane g.lane).outbound[k].carries = (s.lane g.lane).outbound[k].carries ++
        [⟨i, g.base, x.period, x.frame, g.frames⟩] ∧
      t.stream i = { x with
        frame := x.frame + 1, next := x.next + 1, stamp := some (match x.stamp with | none => x.next | some n => n) } ∧
      t.mc.lastOfThree = .stream ∧ t.mc.laneTurn = g.lane ∧ t.mc.laneDir = s.mc.laneDir.set g.lane .outbound ∧
      (∀ j, j ≠ i → t.stream j = s.stream j ∧ t.entry j = s.entry j) ∧
      (x.frame ≠ 0 → t.entry i = s.entry i) ∧
      (x.frame = 0 → rec.state = .filled → e.retiring = none → t.entry i = some { e with
        current := { e.current with periods := e.current.periods.set x.period ⟨.playing, false⟩ } })) ∧
  (∀ (s : State) (i : Fin 32) (g : Geometry) (e : RingEntry) (rec : PeriodRec), s.phase ≠ .held →
    (s.stream i).geom = some g → s.fetchIsNext i g → (s.stream i).starved = none → s.entry i = some e →
    e.current.period (s.stream i).period = some rec → g.firstSlot + g.channels ≤ 64 → 1 ≤ g.channels →
    ((s.stream i).frame = 0 → rec.state = .filled ∨ rec.state = .playing) →
    let x := s.stream i
    let y := s.lane g.lane
    let k := placeOf x.next
    let served := s.serveStream i .outbound
    let v := if x.frame = 0 ∧ rec.state = .filled then served.setPeriod i .current x.period ⟨.playing, false⟩ else served
    ∃ place : OutPlace,
      (∀ j : Fin 64, place.slots[j] = if g.firstSlot ≤ j.val ∧ j.val < g.firstSlot + g.channels then
        s.mem.readWord (x.address g (j.val - g.firstSlot)) else y.outbound[k].slots[j]) ∧
      place.carries = y.outbound[k].carries ++ [⟨i, g.base, x.period, x.frame, g.frames⟩] ∧
      let w := v.setLane g.lane { y with outbound := y.outbound.set k place }
      let u := if x.stamp = none then (w.setStream i { x with stamp := some x.next }).request (.live i) else w
      let t := u.advance i
      exec (.streamFetch i) s = .next (t.setStream i { t.stream i with next := x.next + 1, words := 0 }))

/-- R32, R33, R34: a begin claim refused at frame 0 starves the stream: a RUNNING one becomes STARVED and is reported; the
position goes on under KEEP_TIME and stays, a slip frame counted, under KEEP_DATA; the staged frame is left as it was.
R32, R33, R13: the resumption claim of a starved stream whose mark is set, or whose position has just crossed, on a FILLED
or a PLAYING period: the period is PLAYING, a STARVED stream is RUNNING with RESUMED, one still PRIMED goes on with no
event (R25), and the frame is fetched (the skipped periods of R33 are counted at that fetch, log 39); on an EMPTY one the
stream stays starved, with no event. That the live record asked for at STARVED shows the position and the slip count after
the zero frame, and the one at RESUMED the position before the frame's advance, is the model's choice (log 45). R33, R34:
a zero frame under KEEP_TIME passes the position on, and under KEEP_DATA counts a slip. STREAM_FETCH for a stream that is
starved already leaves what its resumption claim or its zero frame leaves, and where the claim is granted goes on to place
the frame as any other fetch does (R28); a grant whose frame goes with zeros counts as served (R176, log 40). -/
def Obligations.StarvedStreamsSpendAndResume : Prop :=
  (∀ (s : State) (i : Fin 32) (g : Geometry) (e : RingEntry) (rec : PeriodRec), s.phase ≠ .held →
    (s.stream i).geom = some g → s.fetchIsNext i g → (s.stream i).starved = none → (s.stream i).frame = 0 →
    s.entry i = some e → e.current.period (s.stream i).period = some rec → rec.state = .empty →
    (s.stream i).state = .running ∨ (s.stream i).state = .primed →
    let x := s.stream i
    let z : Starvation := ⟨x.period, x.next⟩
    let shown : StreamState := match x.state with | .running => .starved | y => y
    ∃ u : State, exec (.streamFetch i) s = .next (if x.state = .running then
        (u.request (.live i)).passEvent (s.ofStream .starved i (fields [(0, x.period)]) x.next false false) else u) ∧
      (g.policy = .keepData → u.stream i = { x with
        state := shown, starved := some z, next := x.next + 1,
        counters := { x.counters with slip := satInc x.counters.slip } }) ∧
      (g.policy = .keepTime → 1 < g.frames → u.stream i = { x with
        state := shown, starved := some z, next := x.next + 1, frame := 1, crossed := false }) ∧
      u.li = s.li ∧ u.mem = s.mem ∧ u.rw = s.rw) ∧
  (∀ (s : State) (i : Fin 32) (g : Geometry) (z : Starvation) (e : RingEntry) (rec : PeriodRec),
    (s.stream i).geom = some g → (s.stream i).starved = some z → s.entry i = some e →
    e.current.period (s.stream i).period = some rec → e.retiring = none →
    let x := s.stream i
    let counted : Stream := if x.crossed then
        { x with crossed := false, counters := { x.counters with skipped := satInc x.counters.skipped } } else x
    (x.resumeMark = true ∨ x.crossed = true → rec.state = .filled → x.state = .starved →
      s.fetchBegin i = ((((s.setEntry i (some { e with
        current := { e.current with periods := e.current.periods.set x.period ⟨.playing, false⟩ } })).setStream i
          { counted with resumeMark := false, starved := none, state := .running }).request (.live i)).passEvent
            (s.ofStream .resumed i (fields [(0, x.frame), (16, x.period)]) x.next false false), true)) ∧
    (x.resumeMark = true ∨ x.crossed = true → rec.state = .empty →
      s.fetchBegin i = ((s.setStream i { counted with resumeMark := false }).starveFrame i, false)) ∧
    (x.resumeMark = false → x.crossed = false → s.fetchBegin i = (s.starveFrame i, false))) ∧
  (∀ (s : State) (i : Fin 32) (g : Geometry) (e : RingEntry) (rec : PeriodRec), s.phase ≠ .held →
    (s.stream i).geom = some g → s.fetchIsNext i g → (s.stream i).starved = none → (s.stream i).frame = 0 →
    s.entry i = some e → e.current.period (s.stream i).period = some rec → rec.state = .empty →
    let x := s.stream i
    let v := (s.serveStream i .outbound).setStream i { x with
      starved := some ⟨x.period, x.next⟩, state := if x.state = .running then .starved else x.state }
    exec (.streamFetch i) s = .next (if x.state = .running then
        ((v.starveFrame i).request (.live i)).passEvent
          (s.ofStream .starved i (fields [(0, x.period)]) x.next false false)
      else v.starveFrame i)) ∧
  (∀ (s : State) (i : Fin 32) (g : Geometry) (z : Starvation) (e : RingEntry) (rec : PeriodRec),
    (s.stream i).geom = some g → (s.stream i).starved = some z → s.entry i = some e →
    e.current.period (s.stream i).period = some rec → rec.state = .filled ∨ rec.state = .playing →
    (s.stream i).resumeMark = true ∨ (s.stream i).crossed = true →
    let x := s.stream i
    let counted : Stream := if x.crossed then
        { x with crossed := false, counters := { x.counters with skipped := satInc x.counters.skipped } } else x
    let claimed := if rec.state = .filled then s.setPeriod i .current x.period ⟨.playing, false⟩ else s
    (x.state = .starved → s.fetchBegin i = (((claimed.setStream i
      { counted with resumeMark := false, starved := none, state := .running }).request (.live i)).passEvent
        (s.ofStream .resumed i (fields [(0, x.frame), (16, x.period)]) x.next false false), true)) ∧
    (x.state = .primed → s.fetchBegin i = (claimed.setStream i
      { counted with resumeMark := false, starved := none }, true))) ∧
  (∀ (s : State) (i : Fin 32) (g : Geometry), (s.stream i).geom = some g →
    let x := s.stream i
    let t := s.advance i
    (g.policy = .keepData → s.starveFrame i = s.setStream i { x with
      next := x.next + 1, words := 0, counters := { x.counters with slip := satInc x.counters.slip } }) ∧
    (g.policy = .keepTime → s.starveFrame i = t.setStream i { t.stream i with
      next := x.next + 1, words := 0, crossed := decide ((t.stream i).frame = 0) })) ∧
  (∀ (s : State) (i : Fin 32) (g : Geometry) (z : Starvation), s.phase ≠ .held → (s.stream i).geom = some g →
    s.fetchIsNext i g → (s.stream i).starved = some z → g.firstSlot + g.channels ≤ 64 → 1 ≤ g.channels →
    let b := (s.serveStream i .outbound).fetchBegin i
    (b.2 = false → exec (.streamFetch i) s = .next b.1) ∧
    (b.2 = true →
      let x := b.1.stream i
      let y := b.1.lane g.lane
      let k := placeOf x.next
      ∃ place : OutPlace,
        (∀ j : Fin 64, place.slots[j] = if g.firstSlot ≤ j.val ∧ j.val < g.firstSlot + g.channels then
          b.1.mem.readWord (x.address g (j.val - g.firstSlot)) else y.outbound[k].slots[j]) ∧
        place.carries = y.outbound[k].carries ++ [⟨i, g.base, x.period, x.frame, g.frames⟩] ∧
        let w := b.1.setLane g.lane { y with outbound := y.outbound.set k place }
        let u := if x.stamp = none then (w.setStream i { x with stamp := some x.next }).request (.live i) else w
        let t := u.advance i
        exec (.streamFetch i) s = .next (t.setStream i { t.stream i with next := x.next + 1, words := 0 })))

/-- The frame at the head of the lane's inbound staging is one the stream is to store (R30). -/
abbrev Sys2Proof.Machine.State.storeIsNext (s : State) (i : Fin 32) (g : Geometry) (f : InboundFrame) : Prop :=
  g.dir = .capture ∧ (s.lane g.lane).inbound.head? = some f ∧ s.delays f.number i = true ∧ (s.stream i).words = 0

/-- R15, R30, R31, R35, R36: the store of a frame at frame 0 of a period goes by the period's state, and elsewhere
without a claim: its words, zeros for a bad or a lost frame, are in memory at the position, and the stream's counters
and position follow; under DROP_NEW a READY period makes a RUNNING stream OVERFLOWING and the frame is dropped, the grant
counting as served all the same (R176, log 40). R35, R36:
what each state makes of a frame before its first word is stored, with OVERFLOW and RESUMED: an OVERFLOWING stream drops it,
or at frame 0 of a FREE period is RUNNING again; that a PRIMED stream before a READY period drops it too is the model's
reading (log 33), and that the live records of OVERFLOW and RESUMED show the position before the frame's advance its choice
(log 45). R40, R41: the frame that ends a stop makes the stream IDLE; after any other the position goes on, past the end of
the period too. R13,
R15, R18: the claims that end a period: the last store makes a FILLING period READY, the leaving of its last frame
makes a PLAYING one EMPTY, in the current ring or in a retiring one (R7), each with its event where notify is on; any other
state is unchanged. -/
def Obligations.StoreWritesTheFrame : Prop :=
  (∀ (s : State) (i : Fin 32) (g : Geometry) (f : InboundFrame) (e : RingEntry) (rec : PeriodRec), s.phase ≠ .held →
    (s.stream i).geom = some g → s.storeIsNext i g f → (s.stream i).next = f.number → (s.stream i).stop = none →
    s.entry i = some e → e.current.period (s.stream i).period = some rec → e.retiring = none → 1 ≤ g.channels →
    (s.stream i).state = .running → (s.stream i).frame + 1 < g.frames →
    let x := s.stream i
    let words : List Word := match f.kind with
      | .good slots => (List.range g.channels).map (fun c => (slots[g.firstSlot + c]?).getD 0)
      | .bad => List.replicate g.channels 0
      | .lost => List.replicate g.channels 0
    let raised (c : StreamCounters) : StreamCounters := match f.kind with
      | .good _ => c
      | .bad => { c with substituted := satInc c.substituted }
      | .lost => { c with dropped := satInc c.dropped }
    let stored (c : StreamCounters) : Stream := { x with
      counters := raised c, stamp := some (match x.stamp with | none => f.number | some n => n),
      lastFrame := some f.number, frame := x.frame + 1, next := f.number + 1 }
    let filling : RingEntry := { e with
      current := { e.current with periods := e.current.periods.set x.period ⟨.filling, false⟩ } }
    (x.frame ≠ 0 → ∃ t, exec (.streamStore i) s = .next t ∧ t.mem = s.mem.writeWords (x.address g 0) words ∧
      t.stream i = stored x.counters ∧ t.entry i = some e) ∧
    (x.frame = 0 → rec.state = .free → ∃ t, exec (.streamStore i) s = .next t ∧
      t.mem = s.mem.writeWords (x.address g 0) words ∧ t.stream i = stored x.counters ∧ t.entry i = some filling) ∧
    (x.frame = 0 → rec.state = .ready → g.policy = .reclaim → ∃ t, exec (.streamStore i) s = .next t ∧
      t.mem = s.mem.writeWords (x.address g 0) words ∧ t.entry i = some filling ∧
      t.stream i = stored { x.counters with lost := satInc x.counters.lost }) ∧
    (x.frame = 0 → rec.state = .ready → g.policy = .dropNew → (s.lane g.lane).inbound = [f] →
      ∃ t, exec (.streamStore i) s = .next t ∧ t.mem = s.mem ∧ t.entry i = some e ∧ t.stream i = { x with
        state := .overflowing, counters := { x.counters with dropped := satInc x.counters.dropped },
        frame := x.frame + 1, next := f.number + 1 })) ∧
  (∀ (s : State) (i : Fin 32) (e : RingEntry) (p : Nat) (rec : PeriodRec), s.entry i = some e →
    e.current.period p = some rec → e.retiring = none →
    let moved (x : PeriodState) : State := s.setEntry i (some { e with
      current := { e.current with periods := e.current.periods.set p { rec with state := x } } })
    let event (k : EventKind) : Event :=
      { kind := k, source := i.val, stampDomain := (s.streamStamp i).1, stampCount := (s.streamStamp i).2,
        d0 := fields [(0, p)], d1 := nat32 e.current.base, flagA := false, flagB := false }
    (rec.state = .filling → s.lastStoreClaim i p =
      if e.notify then (moved .ready).passEvent (event .periodCaptured) else moved .ready) ∧
    (rec.state ≠ .filling → s.lastStoreClaim i p = s) ∧
    (rec.state = .playing → s.playedClaim i e.current.base p =
      if e.notify then (moved .empty).passEvent (event .periodPlayed) else moved .empty) ∧
    (rec.state ≠ .playing → s.playedClaim i e.current.base p = s)) ∧
  (∀ (s : State) (i : Fin 32) (g : Geometry) (f : InboundFrame), s.phase ≠ .held → (s.stream i).geom = some g →
    s.storeIsNext i g f → 1 ≤ g.channels →
    let x := s.stream i
    let n := f.number
    let words : List Word := match f.kind with
      | .good slots => (List.range g.channels).map (fun c => (slots[g.firstSlot + c]?).getD 0)
      | .bad => List.replicate g.channels 0
      | .lost => List.replicate g.channels 0
    let raised (c : StreamCounters) : StreamCounters := match f.kind with
      | .good _ => c
      | .bad => { c with substituted := satInc c.substituted }
      | .lost => { c with dropped := satInc c.dropped }
    let b := (s.serveStream i .inbound).storeBegin i n
    let y := b.1.stream i
    let put := ({ b.1 with mem := b.1.mem.writeWords (x.address g 0) words } : State).setStream i { y with
      counters := raised y.counters, stamp := some (match x.stamp with | none => n | some m => m), lastFrame := some n }
    let shown := if x.stamp = none then put.request (.live i) else put
    let claimed := if x.frame + 1 = g.frames then shown.lastStoreClaim i x.period else shown
    exec (.streamStore i) s = .next ((if b.2 = true then claimed.frameDone i n else b.1).drainInbound g.lane)) ∧
  (∀ (s : State) (i : Fin 32) (g : Geometry) (n : Word), (s.stream i).geom = some g →
    let x := s.stream i
    let y : Stream := { x with next := n }
    let v := s.setStream i y
    let t := s.advance i
    s.dropFrame i n = (s.setStream i { x with
      counters := { x.counters with dropped := satInc x.counters.dropped } }).frameDone i n ∧
    (∀ r, x.stop = some r → r.last = n →
      s.frameDone i n = s.becomeIdle i (match r.mode with | .now => .now | .periodEnd => .periodEnd)) ∧
    ((∀ r, x.stop = some r → r.last ≠ n) →
      s.frameDone i n = t.setStream i { t.stream i with next := x.next + 1, words := 0 }) ∧
    (x.frame ≠ 0 → x.state = .overflowing → s.storeBegin i n = (v.dropFrame i n, false)) ∧
    (x.frame ≠ 0 → x.state ≠ .overflowing → s.storeBegin i n = (v, true)) ∧
    ∀ (e : RingEntry) (rec : PeriodRec), s.entry i = some e → e.current.period x.period = some rec → x.frame = 0 →
      let filling := v.setPeriod i .current x.period ⟨.filling, false⟩
      let taken := if rec.state = .free then filling else v
      let overflow (reclaim : Bool) : Event := s.ofStream .overflow i (fields [(0, x.period)]) n reclaim false
      (rec.state = .free ∨ rec.state = .filling → x.state ≠ .overflowing → s.storeBegin i n = (taken, true)) ∧
      (rec.state = .free ∨ rec.state = .filling → x.state = .overflowing →
        s.storeBegin i n = (((taken.setStream i { y with state := .running }).request (.live i)).passEvent
          (s.ofStream .resumed i (fields [(0, x.frame), (16, x.period)]) n false false), true)) ∧
      (rec.state = .ready → g.policy = .reclaim → s.storeBegin i n = ((filling.setStream i { y with
        counters := { x.counters with lost := satInc x.counters.lost } }).passEvent (overflow true), true)) ∧
      (rec.state = .ready → g.policy = .dropNew → x.state = .running → s.storeBegin i n =
        ((((v.setStream i { y with state := .overflowing }).request (.live i)).passEvent (overflow false)).dropFrame i n,
          false)) ∧
      (rec.state = .ready → g.policy = .dropNew → x.state ≠ .running → s.storeBegin i n = (v.dropFrame i n, false))) ∧
  (∀ (s : State) (i : Fin 32) (e : RingEntry) (p : Nat) (rec : PeriodRec), s.entry i = some e →
    let ended (part : RingPart) (base : Nat) (x : PeriodState) (k : EventKind) : State :=
      let t := s.setPeriod i part p { rec with state := x }
      if e.notify then t.passEvent
        { kind := k, source := i.val, stampDomain := (s.streamStamp i).1, stampCount := (s.streamStamp i).2,
          d0 := fields [(0, p)], d1 := nat32 base, flagA := false, flagB := false } else t
    (e.current.period p = some rec → rec.state = .filling →
      s.lastStoreClaim i p = ended .current e.current.base .ready .periodCaptured) ∧
    (e.current.period p = some rec → rec.state = .playing →
      s.playedClaim i e.current.base p = ended .current e.current.base .empty .periodPlayed) ∧
    ∀ base, base ≠ e.current.base →
      (∀ r, e.retiring = some r → r.base = base → r.period p = some rec → rec.state = .playing →
        s.playedClaim i base p = ended .retiring base .empty .periodPlayed) ∧
      ((∀ r, e.retiring = some r → r.base = base → ∀ q, r.period p = some q → q.state ≠ .playing) →
        s.playedClaim i base p = s))

/-- R176: the stream is a playback stream on lane `l` that fetches there: RUNNING, or PRIMED with its start frame inside
the fetch window. That a PRIMED stream whose start frame has left the window, its START applied late, still counts while it
may fetch its next frame is the model's choice (log 56). -/
def Sys2Proof.Machine.State.fetchesOn (s : State) (l : Fin 8) (i : Fin 32) : Prop :=
  ((s.stream i).state = .running ∨ (s.stream i).state = .primed) ∧ s.mayFetch i = true ∧
    ∃ g, (s.stream i).geom = some g ∧ g.lane = l ∧ g.dir = .play

/-- R27: the next frame to leave the lane's outbound staging: that of the count of domain `d`, or the one before while the
lane has still to let that leave at the boundary in hand. -/
def Sys2Proof.Machine.State.firstToLeave (s : State) (l : Fin 8) (d : Fin 4) : Word :=
  if l ∈ s.li.atBoundary then (s.domain d).count - 1 else (s.domain d).count

/-- R176: the lane is short outbound: counting from the next frame to leave, fewer than 2 frames in a row have every fetch
of every fetching stream completed. -/
def Sys2Proof.Machine.State.isShortOut (s : State) (l : Fin 8) : Prop :=
  ∃ i, s.fetchesOn l i ∧ ∀ g, (s.stream i).geom = some g → ((s.stream i).next - s.firstToLeave l g.domain).toNat < 2

/-- The lane has a fetch that is the next of its frame, or a store of the frame at the head of its inbound staging (R176).
-/
def Sys2Proof.Machine.State.laneWork (s : State) (l : Fin 8) (dir : FlowDir) (i : Fin 32) : Prop :=
  ∃ g, (s.stream i).geom = some g ∧ g.lane = l ∧
    match dir with
    | .outbound => g.dir = .play ∧ s.mayFetch i = true ∧ s.fetchInOrder i = true
    | .inbound => g.dir = .capture ∧ ∃ f, (s.lane l).inbound.head? = some f ∧ s.delays f.number i = true

/-- R176: the lane is short inbound: more than 2 frames are in its inbound staging, for a stream that stores them. -/
def Sys2Proof.Machine.State.isShortIn (s : State) (l : Fin 8) : Prop :=
  2 < (s.lane l).inbound.countP (fun f => f.kind != .lost) ∧ ∃ i, s.laneWork l .inbound i

/-- `l` is the first lane after the one last served of which `p` holds (R176). -/
def Sys2Proof.Machine.State.firstInTurn (s : State) (p : Fin 8 → Prop) (l : Fin 8) : Prop :=
  ∃ k : Fin 8, l = s.mc.laneTurn + 1 + k ∧ p l ∧ ∀ j < k, ¬ p (s.mc.laneTurn + 1 + j)

/-- R176, R177: one arbitration point: refresh with 4 or more pending; then a short lane's Stream work; then a pending
refresh; then Pass, Stream and Record in turn after the one last granted; with nothing requested nothing happens. R176:
the lane of a Stream grant is the first in turn that is short, in the direction that makes it short, outbound when both
do; or the first that has work, in the direction it did not serve last where both have. The lane's transaction is one of
the lowest stream with work in its earliest frame, and lane and direction count as served, whether or not the transaction
moves a word (log 40). That a PRIMED stream goes on counting for its lane when its start frame has left the window is the
model's choice (log 56). R179, R181: at the end of a start-up or of a host reset the port opens where the grant was READY's.
R27, R41: a stream may fetch its
next frame while that is one of the four in staging and not beyond its last frame, and fetches it in its lane's frame
order. R175: a transaction is at
most the rest of a 64-byte block. R177, R174: each refresh interval adds one pending refresh, to at most 8. -/
def Obligations.ArbitrationFollowsItsOrder : Prop :=
  (∀ s : State, s.phase ≠ .held →
    let run := exec .memoryArbitration s
    let point := s.arbitrate
    let refreshed : State := { s with mc := { s.mc with refreshPending := s.mc.refreshPending - 1 } }
    let stream : Option State := s.streamWork.map s.grantStream
    let record : Option State := if s.recordReady then some s.grantRecord else none
    let pass : Option State := s.pp.inHand.map s.grantPass
    let first (a b c : Option State) : State := (a.or (b.or c)).getD s
    let closed := s.phase = .records ∨ s.phase = .hostRecords
    let awaitsReady := ∃ x ∈ point.mc.records, x.work = .status .startWord
    (4 ≤ s.mc.refreshPending → point = refreshed) ∧
    (∀ g, s.mc.refreshPending < 4 → s.urgentStream = some g → point = s.grantStream g) ∧
    (1 ≤ s.mc.refreshPending → s.mc.refreshPending < 4 → s.urgentStream = none → point = refreshed) ∧
    (s.mc.refreshPending = 0 → s.urgentStream = none →
      (s.mc.lastOfThree = .record → point = first pass stream record) ∧
      (s.mc.lastOfThree = .pass → point = first stream record pass) ∧
      (s.mc.lastOfThree = .stream → point = first record pass stream)) ∧
    (¬ closed ∨ awaitsReady → run = .next point) ∧
    (closed → ¬ awaitsReady → run = exec .passPortOpen point)) ∧
  (∀ (s : State) (l : Fin 8) (dir : FlowDir),
    let short (k : Fin 8) : Prop := s.isShortOut k ∨ s.isShortIn k
    let works (k : Fin 8) (e : FlowDir) : Prop := ∃ i, s.laneWork k e i
    let turn (e : FlowDir) : Prop := works l e ∧ ∀ o, o ≠ e → works l o → s.mc.laneDir[l] = o
    (s.urgentStream = some (l, dir) ↔ s.firstInTurn short l ∧ (dir = .outbound ↔ s.isShortOut l)) ∧
    (s.urgentStream = none ↔ ∀ k, ¬ short k) ∧
    (s.streamWork = some (l, dir) ↔ s.firstInTurn (fun k => works k .outbound ∨ works k .inbound) l ∧ turn dir) ∧
    (s.streamWork = none ↔ ∀ k e, ¬ works k e) ∧
    ∀ i, s.laneWork l dir i → (∀ j < i, ¬ s.laneWork l dir j) →
      let served : State := { s with
        mc := { s.mc with lastOfThree := .stream, laneTurn := l, laneDir := s.mc.laneDir.set l dir } }
      (dir = .outbound → s.grantStream (l, dir) = served.fetchFrame i .transaction) ∧
      (dir = .inbound → s.grantStream (l, dir) = served.storeFrame i .transaction)) ∧
  (∀ (s : State) (i : Fin 32) (g : Geometry), (s.stream i).geom = some g →
    let x := s.stream i
    let from_ := s.firstToLeave g.lane g.domain
    (s.mayFetch i = true ↔ g.dir = .play ∧ (x.state = .primed ∨ x.state = .running ∨ x.state = .starved) ∧
      (x.next - from_).toNat < 4 ∧ ∀ r, x.stop = some r → (r.last - x.next).toNat < 2147483648) ∧
    (s.fetchInOrder i = true ↔ ∀ j h, (s.stream j).geom = some h → h.lane = g.lane → h.dir = .play →
      s.mayFetch j = true → (x.next - from_).toNat ≤ ((s.stream j).next - from_).toNat)) ∧
  (∀ a rest : Nat, Extent.whole.words a rest = rest ∧ Extent.transaction.words a rest = min rest ((64 - a % 64) / 4)) ∧
  (∀ (s : State) (dt t0 : Nat), s.phase ≠ .held → s.mc.refreshTimer = some t0 →
    let interval := match s.mc.refresh with | .us78 => 780 | .us39 => 390
    (t0 + interval ≤ s.mclk + dt → exec (.refreshInterval dt) s = .next { s with
      mclk := s.mclk + dt,
      mc := { s.mc with refreshTimer := some (t0 + interval), refreshPending := min 8 (s.mc.refreshPending + 1) } }) ∧
    (s.mclk + dt < t0 + interval → exec (.refreshInterval dt) s = .next { s with mclk := s.mclk + dt }))

/-! ## Clocks -/

/-- R93: a measurement M is inside tolerance exactly when it differs from N = 64 x 100,000,000 / rate by no more than
500 parts per million of N, compared exactly; and the accepted whole numbers are those of the rule's table. -/
def Obligations.ToleranceIsTheTable : Prop :=
  (∀ (f : Family) (k : Factor) (m : Nat), withinTolerance f k m = true ↔
    |(m : ℚ) - 64 * 100000000 / (rateOf f k : ℚ)| ≤ 500 / 1000000 * (64 * 100000000 / (rateOf f k : ℚ))) ∧
  rateOf .f441 .x1 = 44100 ∧ rateOf .f441 .x2 = 88200 ∧ rateOf .f441 .x4 = 176400 ∧ rateOf .f48 .x1 = 48000 ∧
  rateOf .f48 .x2 = 96000 ∧ rateOf .f48 .x4 = 192000 ∧
  ∀ m : Nat,
    (withinTolerance .f441 .x1 m = true ↔ 145053 ≤ m ∧ m ≤ 145197) ∧
    (withinTolerance .f441 .x2 m = true ↔ 72527 ≤ m ∧ m ≤ 72598) ∧
    (withinTolerance .f441 .x4 m = true ↔ 36264 ≤ m ∧ m ≤ 36299) ∧
    (withinTolerance .f48 .x1 m = true ↔ 133267 ≤ m ∧ m ≤ 133400) ∧
    (withinTolerance .f48 .x2 m = true ↔ 66634 ≤ m ∧ m ≤ 66700) ∧
    (withinTolerance .f48 .x4 m = true ↔ 33317 ≤ m ∧ m ≤ 33350)

/-- An event of domain `d` with its stamp (R87). -/
def Sys2Proof.Machine.State.ofDomain (s : State) (k : EventKind) (d : Fin 4) (d0 d1 : Word) (flagA : Bool) : Event :=
  { kind := k, source := d.val, stampDomain := (s.stampOf d).1, stampCount := (s.stampOf d).2, d0 := d0, d1 := d1,
    flagA := flagA, flagB := false }

/-- R75: the oscillator is the current reference of a LOCKED domain or the source of a candidate. -/
def Sys2Proof.Machine.State.needs (s : State) (o : Osc) : Prop :=
  let named : Source := match o with | .int44 => .int44 | .int48 => .int48
  ∃ d, ((s.domain d).run = .locked ∧ (s.domain d).ref = some named) ∨
    ∃ c, (s.domain d).candidate = some c ∧ c.source = named

/-- R75: how an oscillator stands in `t` after a change made in `s` at the time of `t`: one not needed is OFF; a needed one
that was OFF starts; a needed one that was STARTING or RUNNING goes on. -/
def Sys2Proof.Machine.oscFollows (s t : State) (o : Osc) : Prop :=
  (¬ t.needs o → t.osc o = .off) ∧ (t.needs o → s.osc o = .off → t.osc o = .starting t.mclk) ∧
    (t.needs o → s.osc o ≠ .off → t.osc o = s.osc o)

/-- R76: what a valid domain stage gives: each field in its range, the named oscillators of the family; otherwise the
stage is invalid. R76, R77: SWITCH_REFERENCE by the first case that applies, its stage read in its turn (R175) and the
rest as it then stands (log 49). A created candidate stands in its domain
in the phase its source gives, nothing else of the domains changes, and the oscillators follow their need; a candidate
on an ABSENT input fails in the same application. R187, R71: the fields of a domain's stage entry, and the streams of a
domain. R77, R79: what creates and what fails a candidate wherever it is created or fails. -/
def Obligations.SwitchReferenceCreatesACandidate : Prop :=
  (∀ (g : DomainStage) (c : Candidate), g.candidate = some c ↔
    ((g.source = 1 ∧ c.source = .int44) ∨ (g.source = 2 ∧ c.source = .int48) ∨ (g.source = 3 ∧ c.source = .wci0) ∨
      (g.source = 4 ∧ c.source = .wci1)) ∧
    ((g.fallback = 0 ∧ c.fallback = none) ∨ (g.fallback = 1 ∧ c.fallback = some .int44) ∨
      (g.fallback = 2 ∧ c.fallback = some .int48) ∨ (g.fallback = 3 ∧ c.fallback = some .wci0) ∨
      (g.fallback = 4 ∧ c.fallback = some .wci1)) ∧
    ((g.family = 1 ∧ c.family = .f441) ∨ (g.family = 2 ∧ c.family = .f48)) ∧
    ((g.mult = 1 ∧ c.mult = .x1) ∨ (g.mult = 2 ∧ c.mult = .x2) ∨ (g.mult = 4 ∧ c.mult = .x4)) ∧
    (c.family = .f48 → c.source ≠ .int44 ∧ c.fallback ≠ some .int44) ∧
    (c.family = .f441 → c.source ≠ .int48 ∧ c.fallback ≠ some .int48) ∧
    c.settle = g.settle.toNat ∧ c.settle ≤ 5 ∧ c.tickExp = g.tickExp.toNat ∧ 4 ≤ c.tickExp ∧ c.tickExp ≤ 9 ∧
    c.origin = .switch ∧ c.phase = .starting ∧ c.windowStart = none ∧ c.latest = none) ∧
  (∀ (s : State) (b : CueBody) (dt : Nat) (d : Fin 4), s.phase ≠ .held → s.dueNow b → b.target.toNat = d.val →
    let s0 : State := { s with mclk := s.mclk + dt }
    let v := s0.recordRead
    let x := v.domain d
    let k : Cue := ⟨.switchReference, b⟩
    let run := exec (.switchReference b dt) s
    (x.candidate ≠ none → run = .next (s0.afterCue v k (some .busy))) ∧
    (x.candidate = none → (v.domainStage d).candidate = none → run = .next (s0.afterCue v k (some .badStage))) ∧
    ∀ c, x.candidate = none → (v.domainStage d).candidate = some c →
      let sameRate := c.family = x.family ∧ c.mult = x.mult
      let there := x.run = .locked ∧ x.ref = some c.source ∧ sameRate
      let blocked := ¬ sameRate ∧ ∃ i, v.isStreamOf d i = true
      (blocked → run = .next (s0.afterCue v k (some .wrongState))) ∧
      (¬ blocked → there → run = .next (s0.afterCue v k none)) ∧
      (¬ blocked → ¬ there →
        (∀ o : Osc, c.source = (match o with | .int44 => .int44 | .int48 => .int48) →
          ∃ u : State, run = .next (s0.afterCue (u.request (.domain d)) k none) ∧
            (v.osc o = .running → u.domain d = { x with
              candidate := some { c with phase := .settling, windowStart := some v.mclk } }) ∧
            (v.osc o ≠ .running → u.domain d = { x with
              candidate := some { c with phase := .starting, windowStart := none } }) ∧
            (∀ e, e ≠ d → u.domain e = v.domain e) ∧ oscFollows v u .int44 ∧ oscFollows v u .int48 ∧
            u = { v with cb := u.cb } ∧ u.cb.inputs = v.cb.inputs ∧ u.cb.outputs = v.cb.outputs) ∧
        (∀ w : Fin 2, c.source = (if w = 0 then .wci0 else .wci1) → (v.input w).present = true →
          run = .next (s0.afterCue ((v.setDomain d { x with
            candidate := some { c with phase := .settling, windowStart := some v.mclk } }).request (.domain d))
              k none)) ∧
        (∀ w : Fin 2, c.source = (if w = 0 then .wci0 else .wci1) → (v.input w).present = false →
          ∃ u : State, run = .next (s0.afterCue ((u.request (.domain d)).passEvent (s.ofDomain .qualifyFailed d
              (fields [(0, c.source.code), (8, 1), (16, 1)]) 0 false)) k none) ∧
            (∀ e, u.domain e = v.domain e) ∧ oscFollows v u .int44 ∧ oscFollows v u .int48))) ∧
  (∀ (s : State) (d : Fin 4) (i : Fin 32),
    let word (k : Nat) : Word := s.mem.readWord (s.base + 0x2400 + 16 * d.val + 4 * k)
    let byte (k n : Nat) : Byte := (word k).extractLsb' (8 * n) 8
    s.domainStage d = {
      source := byte 0 0, fallback := byte 0 1, family := byte 0 2, mult := byte 0 3, settle := byte 1 0,
      tickExp := byte 1 1 } ∧
    (s.isStreamOf d i = true ↔ (s.stream i).state ≠ .idle ∧
      ∃ g, (s.stream i).geom = some g ∧ (g.domain = d ∨ (s.lane g.lane).domain = some d))) ∧
  (∀ (s : State) (d : Fin 4) (c : Candidate),
    let x := s.domain d
    let clocked (u : State) (y : Domain) : Prop :=
      u = { s with cb := u.cb } ∧ u.domain d = y ∧ (∀ e, e ≠ d → u.domain e = s.domain e) ∧
        oscFollows s u .int44 ∧ oscFollows s u .int48 ∧ u.cb.inputs = s.cb.inputs ∧ u.cb.outputs = s.cb.outputs ∧
        u.cb.tenMs = s.cb.tenMs
    let settling : Domain := { x with candidate := some { c with phase := .settling, windowStart := some s.mclk } }
    (∀ o : Osc, c.source = (match o with | .int44 => .int44 | .int48 => .int48) →
      ∃ u : State, s.createCandidate d c = u.request (.domain d) ∧
        (s.osc o = .running → clocked u settling) ∧
        (s.osc o ≠ .running → clocked u { x with candidate := some { c with phase := .starting, windowStart := none } })) ∧
    (∀ w : Fin 2, c.source = (if w = 0 then .wci0 else .wci1) →
      let t := (s.setDomain d settling).request (.domain d)
      ((s.input w).present = true → s.createCandidate d c = t) ∧
      ((s.input w).present = false → s.createCandidate d c = t.failCandidate d .absent 0)) ∧
    ∀ (cause : ClockCause) (m : Nat),
      (x.candidate = none → s.failCandidate d cause m = s) ∧
      (x.candidate = some c → ∃ u : State, clocked u { x with candidate := none } ∧
        s.failCandidate d cause m = (u.request (.domain d)).passEvent (s.ofDomain .qualifyFailed d
          (fields [(0, c.source.code), (8, c.origin.code), (16, cause.code)]) (nat32 m) false)))

/-- The lanes of a domain, in rising number. -/
def Sys2Proof.Machine.State.lanesNumbered (s : State) (d : Fin 4) : List (Fin 8) :=
  (List.finRange 8).filter (fun l => (s.lane l).domain == some d)

/-- R110, R119, R147: a lane enters TRAINING with its queue kept and its meter window cleared; its record is asked for where
its state changes. -/
def Sys2Proof.Machine.State.retrained (s : State) (l : Fin 8) : State :=
  let x := s.lane l
  let y : Lane := { x with
    state := .training, trainingRun := 0, badRun := 0, countdown := none, expected := none, lastStatus := none }
  let t := (s.setLane l y).setWindow l { s.window l with peaks := Vector.replicate 64 0, good := 0 }
  if x.state = .training then t else t.request (.lane l)

/-- R85: SET_RATE by the first case that applies: taken at once on a STOPPED domain, where it replaces a change that waits
(log 14), left for the next boundary on a running one; its stage is read in its turn (R175), and the rest is judged as it
then stands (log 49). R85, R80 steps 1 to 3, R119: what a boundary makes of a waiting rate change and of a PASSED
candidate: the domain takes the values, and nothing but a change of family or multiplier sends its lanes back to TRAINING.
R80 steps 4 to 6, R75: at a switch the oscillators follow their need, the domain's record is written and
REFERENCE_SWITCHED passed, and then its lanes train again where the rate changed, having judged the expectation that the
boundary closes; the lanes are taken in rising number (log 44), their records after the domain's (log 51). -/
def Obligations.RateChangesFollowTheirTable : Prop :=
  (∀ (s : State) (b : CueBody) (d : Fin 4), s.phase ≠ .held → s.dueNow b → b.target.toNat = d.val →
    let u := s.recordRead
    let x := u.domain d
    let k : Cue := ⟨.setRate, b⟩
    let run := exec (.setRate b) s
    let y := u.domainStage d
    let valid (m : Factor) := (y.mult = 1 ∧ m = .x1 ∨ y.mult = 2 ∧ m = .x2 ∨ y.mult = 4 ∧ m = .x4) ∧
      4 ≤ y.tickExp.toNat ∧ y.tickExp.toNat ≤ 9
    let streams := ∃ i, u.isStreamOf d i = true
    let running := x.run = .locked ∨ x.run = .holdover
    let onInput := x.ref = some .wci0 ∨ x.ref = some .wci1
    (x.candidate ≠ none → run = .next (s.afterCue u k (some .busy))) ∧
    (x.candidate = none → (∀ m, ¬ valid m) → run = .next (s.afterCue u k (some .badStage))) ∧
    ∀ m, x.candidate = none → valid m →
      (streams → run = .next (s.afterCue u k (some .wrongState))) ∧
      (¬ streams → running ∧ onInput ∧ m ≠ x.mult → run = .next (s.afterCue u k (some .wrongState))) ∧
      (¬ streams → m = x.mult ∧ y.tickExp.toNat = x.tickExp → run = .next (s.afterCue u k none)) ∧
      (¬ streams → ¬ (running ∧ onInput ∧ m ≠ x.mult) → ¬ (m = x.mult ∧ y.tickExp.toNat = x.tickExp) →
        (running → run = .next (s.afterCue (u.setDomain d { x with rateChange := some ⟨m, y.tickExp.toNat⟩ }) k none)) ∧
        (x.run = .stopped → run = .next (s.afterCue
          ((u.setDomain d { x with mult := m, tickExp := y.tickExp.toNat, rateChange := none }).request (.domain d)) k none)))) ∧
  (∀ (s : State) (d : Fin 4) (t : Nat),
    let x := s.domain d
    (x.rateChange = none → s.rateAtBoundary d = s) ∧
    (∀ r, x.rateChange = some r →
      (s.rateAtBoundary d).domain d = { x with mult := r.mult, tickExp := r.tickExp, rateChange := none } ∧
      (r.mult = x.mult → (s.rateAtBoundary d).li = s.li) ∧
      (r.mult ≠ x.mult → ∀ l, (s.lane l).domain = some d → ((s.rateAtBoundary d).lane l).state = .training)) ∧
    ((∀ c, x.candidate = some c → c.phase ≠ .passed) → s.switchAtBoundary d t = s) ∧
    (∀ c, x.candidate = some c → c.phase = .passed →
      let onInput := c.source = .wci0 ∨ c.source = .wci1
      ∃ y, (s.switchAtBoundary d t).domain d = y ∧
        y = { x with
          run := .locked, ref := some c.source, family := c.family, mult := c.mult, tickExp := c.tickExp,
          settle := c.settle, fallback := c.fallback, candidate := none, rateChange := none,
          lastGood := y.lastGood, afterSwitch := y.afterSwitch, edgeOwed := false, lastBoundary := t } ∧
        (onInput → y.lastGood = c.latest ∧ y.afterSwitch = some t) ∧
        (¬ onInput → y.lastGood = none ∧ y.afterSwitch = none) ∧
        (c.family = x.family ∧ c.mult = x.mult → (s.switchAtBoundary d t).li = s.li) ∧
        (¬ (c.family = x.family ∧ c.mult = x.mult) →
          ∀ l, (s.lane l).domain = some d → ((s.switchAtBoundary d t).lane l).state = .training))) ∧
  (∀ (s : State) (d : Fin 4) (t : Nat),
    let x := s.domain d
    let lanes := s.lanesNumbered d
    let judged (changed : Prop) [Decidable changed] : State :=
      if changed then lanes.foldl State.closeExpectation s else s
    let trained (changed : Prop) [Decidable changed] (u : State) : State :=
      if changed then lanes.foldl State.retrained u else u
    (∀ r, x.rateChange = some r → s.rateAtBoundary d = trained (r.mult ≠ x.mult)
      (((judged (r.mult ≠ x.mult)).setDomain d { x with
        mult := r.mult, tickExp := r.tickExp, rateChange := none }).request (.domain d))) ∧
    (∀ c, x.candidate = some c → c.phase = .passed →
      let changed := c.family ≠ x.family ∨ c.mult ≠ x.mult
      let v := judged changed
      ∃ u : State, u = { v with cb := u.cb } ∧ u.domain d = (s.switchAtBoundary d t).domain d ∧
        (∀ e, e ≠ d → u.domain e = s.domain e) ∧ oscFollows v u .int44 ∧ oscFollows v u .int48 ∧
        u.cb.inputs = s.cb.inputs ∧ u.cb.outputs = s.cb.outputs ∧ u.cb.tenMs = s.cb.tenMs ∧
        s.switchAtBoundary d t = trained changed ((u.request (.domain d)).passEvent
          { s.ofDomain .referenceSwitched d (fields [(0, refCode x.ref), (8, c.source.code), (16, c.origin.code)])
              (fields [(0, c.family.code), (8, c.mult.value), (16, c.tickExp)]) false with stampDomain := some d })))

/-- R99: the stop of domain `d` ends the cycle of an output set to it, after the edges of its line that are due (log 13). -/
def Sys2Proof.Machine.State.outputEnded (d : Fin 4) (s : State) (o : Fin 4) : State :=
  let z := s.overdueEdges o
  if (z.output o).settings.domain = d then z.putOutput o (z.output o).domainStopped else z

/-- R86, R61: STOP_DOMAIN is refused while a stream of the domain is active. Otherwise the domain's candidate, if it has
one, is removed with QUALIFY_FAILED, cause CANCELLED; a running domain is STOPPED with its count and settings kept, a rate
change that waits among them (log 14), the oscillators follow their need (R75), its lanes enter TRAINING (R119), its
outputs end their cycles (R99) after the edges that are due (log 13), its record is written, and its reached cues are
applied. The lanes, and then the outputs, are taken in rising number (log 44); the requests of the Lane Interface stand
before those of the Clock Block (log 51). -/
def Obligations.StopDomainStopsTheDomain : Prop :=
  ∀ (s : State) (b : CueBody) (dt : Nat) (d : Fin 4), s.phase ≠ .held → s.dueNow b → b.target.toNat = d.val →
    b.domain = d →
    let s0 : State := { s with mclk := s.mclk + dt }
    let x := s.domain d
    let k : Cue := ⟨.stopDomain, b⟩
    let run := exec (.stopDomain b dt) s
    let busy := ∃ i, s.isStreamOf d i = true ∧ (s.stream i).state.active = true
    (busy → run = .next (s0.afterCue s0 k (some .wrongState))) ∧
    (¬ busy → ∃ t : State,
      (x.candidate = none → t = s0) ∧
      (∀ c, x.candidate = some c → ∃ v : State, v.domain d = { x with candidate := none } ∧
        (∀ e, e ≠ d → v.domain e = s.domain e) ∧ oscFollows s0 v .int44 ∧ oscFollows s0 v .int48 ∧
        v = { s0 with cb := v.cb } ∧ v.cb.inputs = s.cb.inputs ∧ v.cb.outputs = s.cb.outputs ∧
        t = (v.request (.domain d)).passEvent (s.ofDomain .qualifyFailed d
          (fields [(0, c.source.code), (8, c.origin.code), (16, 3)]) 0 false)) ∧
      (x.run = .stopped → run = .next (s0.afterCue t k none)) ∧
      (x.run ≠ .stopped → ∃ w u : State,
        (w = { t with cb := w.cb } ∧
          w.domain d = { x with run := .stopped, candidate := none, afterSwitch := none, edgeOwed := false } ∧
          (∀ e, e ≠ d → w.domain e = s.domain e) ∧ oscFollows t w .int44 ∧ oscFollows t w .int48 ∧
          w.cb.inputs = s.cb.inputs ∧ w.cb.outputs = s.cb.outputs ∧ w.cb.tenMs = s.cb.tenMs) ∧
        u = [(0 : Fin 4), 1, 2, 3].foldl (State.outputEnded d) ((s.lanesNumbered d).foldl State.retrained w) ∧
        u.ru = t.ru ∧
        run = .next ((s0.afterCue (u.request (.domain d)) k none).flushStopped d) ∧
        u.domain d = { x with run := .stopped, candidate := none, afterSwitch := none, edgeOwed := false } ∧
        (∀ e, e ≠ d → u.domain e = s.domain e) ∧ oscFollows t u .int44 ∧ oscFollows t u .int48 ∧
        (∀ l, (s.lane l).domain = some d → (u.window l).good = 0 ∧ u.lane l = { s.lane l with
          state := .training, trainingRun := 0, badRun := 0, countdown := none, expected := none, lastStatus := none }) ∧
        (∀ l, (s.lane l).domain ≠ some d → u.lane l = s.lane l ∧ u.window l = s.window l) ∧
        (∀ o, let z := (s0.overdueEdges o).output o
          u.output o = if z.settings.domain = d then z.domainStopped else z) ∧
        u.mem = s.mem ∧ u.rw = s.rw ∧ u.se = s.se ∧ u.cu = s.cu ∧ u.si = s.si ∧ u.mclk = s0.mclk))

/-- R75, R77: 20 ms after its start an oscillator is RUNNING, and every candidate STARTING on it is SETTLING from that
moment. R78, R81: at the end of its window a candidate passes and waits for its boundary, or, on a STOPPED domain, is
switched to at the row's time (log 13), which counts as the time of its last boundary (log 41), with the count kept and
a waiting rate change dropped (log 14); a
word clock candidate that no measurement reached fails. -/
def Obligations.CandidatesQualifyInTime : Prop :=
  (∀ (o : Osc) (dt : Nat) (s : State) (t0 : Nat), s.phase ≠ .held → s.osc o = .starting t0 →
    let named : Source := match o with | .int44 => .int44 | .int48 => .int48
    (t0 + 2000000 ≤ s.mclk + dt →
      ∃ t, exec (.oscillatorRunning o dt) s = .next t ∧ t.osc o = .running ∧
        (∀ d c, (s.domain d).candidate = some c → c.source = named → c.phase = .starting →
          t.domain d = { s.domain d with
            candidate := some { c with phase := .settling, windowStart := some (t0 + 2000000) } }) ∧
        (∀ d, (∀ c, (s.domain d).candidate = some c → ¬ (c.source = named ∧ c.phase = .starting)) →
          t.domain d = s.domain d) ∧
        t.mclk = s.mclk + dt ∧ t.mem = s.mem ∧ t.li = s.li ∧ t.se = s.se ∧ t.ru = s.ru ∧ t.cb.outputs = s.cb.outputs) ∧
    (s.mclk + dt < t0 + 2000000 → exec (.oscillatorRunning o dt) s = .next { s with mclk := s.mclk + dt })) ∧
  (∀ (d : Fin 4) (dt : Nat) (s : State) (c : Candidate) (w : Nat), s.phase ≠ .held → (s.domain d).candidate = some c →
    c.phase = .settling → c.windowStart = some w →
    let s0 : State := { s with mclk := s.mclk + dt }
    let x := s.domain d
    let onInput := c.source = .wci0 ∨ c.source = .wci1
    let passed : Candidate := { c with phase := .passed }
    (s.mclk + dt < w + 800000 * 2 ^ c.settle → exec (.settleWindowEnd d dt) s = .next s0) ∧
    (w + 800000 * 2 ^ c.settle ≤ s.mclk + dt →
      (¬ (onInput ∧ c.latest = none) → x.run ≠ .stopped →
        exec (.settleWindowEnd d dt) s = .next ((s0.setDomain d { x with candidate := some passed }).request (.domain d))) ∧
      (¬ (onInput ∧ c.latest = none) → x.run = .stopped →
        ∃ t y, exec (.settleWindowEnd d dt) s = .next t ∧ t.domain d = y ∧
          y = { x with
            run := .locked, ref := some c.source, family := c.family, mult := c.mult, tickExp := c.tickExp,
            settle := c.settle, fallback := c.fallback, candidate := none, rateChange := none,
            lastGood := y.lastGood, afterSwitch := y.afterSwitch, edgeOwed := false, lastBoundary := s.mclk + dt } ∧
          (onInput → y.lastGood = c.latest ∧ y.afterSwitch = some (s.mclk + dt)) ∧
          (¬ onInput → y.lastGood = none ∧ y.afterSwitch = none) ∧
          (∀ e, e ≠ d → t.domain e = s.domain e) ∧ t.mem = s.mem ∧ t.li = s.li ∧
          ∃ v : State, t.ru = (v.passEvent { s.ofDomain .referenceSwitched d
              (fields [(0, refCode x.ref), (8, c.source.code), (16, c.origin.code)])
              (fields [(0, c.family.code), (8, c.mult.value), (16, c.tickExp)]) true with stampDomain := some d }).ru ∧
            v.ru = s.ru ∧ v.phase = s.phase) ∧
      (onInput ∧ c.latest = none →
        ∃ t, exec (.settleWindowEnd d dt) s = .next t ∧ t.domain d = { x with candidate := none } ∧
          (∀ e, e ≠ d → t.domain e = s.domain e) ∧ t.mem = s.mem ∧ t.li = s.li ∧
          ∃ v : State, t.ru = (v.passEvent (s.ofDomain .qualifyFailed d
              (fields [(0, c.source.code), (8, c.origin.code), (16, 2)]) 0 false)).ru ∧ v.ru = s.ru ∧ v.phase = s.phase)))

/-- R91, R92, R72, R94: a rising edge makes an ABSENT input PRESENT and starts its block; on a PRESENT input it counts in
the block, and the 64th completes a measurement, which every domain judges. R94: each domain LOCKED on the input has taken
the boundary of the edge before; it takes the boundary of this edge before the measurement is judged, or owes it and takes
it later, as the row's operand `first` chooses (log 10); after a switch only an edge that comes at least half a frame
period later ends the frame in progress (R80, log 10). The domains take an edge, and judge its measurement, in rising
number, which is the model's choice (log 44). A measurement inside tolerance becomes the domain's last good one. R78, R79,
R82, R92: how one domain judges a measurement of an input: inside tolerance it is kept by the LOCKED domain and by the
candidate; outside, the domain loses the input and the candidate fails. -/
def Obligations.RisingEdgesAreJudged : Prop :=
  (∀ (w : Fin 2) (dt : Nat) (first : List (Fin 4)) (order : List BoundaryPart) (s : State), s.phase ≠ .held →
    let now := s.mclk + dt
    let s0 : State := { s with mclk := now }
    let x := s.input w
    let source : Source := if w = 0 then .wci0 else .wci1
    let run := exec (.wordClockEdge w dt ⟨first, order⟩) s
    let lockedIn (u : State) (d : Fin 4) : Prop := (u.domain d).run = .locked ∧ (u.domain d).ref = some source
    let owing (y : Domain) : Domain := { y with edgeOwed := true, afterSwitch := none }
    (x.present = false → run = .next ((s0.setInput w { x with
      present := true, lastEdge := now, blockStart := now, blockEdges := 0 }).request (.input w))) ∧
    (x.present = true → now ≤ x.lastEdge + 10000 →
      let settled := [(0 : Fin 4), 1, 2, 3].foldl (State.settleEdge w order) s0
      let early := [(0 : Fin 4), 1, 2, 3].filter (fun d => first.contains d)
      let late := [(0 : Fin 4), 1, 2, 3].filter (fun d => !first.contains d)
      let counted := (early.foldl (State.boundaryFirst w order) settled).countEdge w order
      run = .next (late.foldl (State.oweBoundary w) counted)) ∧
    (∀ (u : State) (d : Fin 4),
      let y := u.domain d
      let ends := ∀ t0, y.afterSwitch = some t0 → 100000000 ≤ 2 * rateOf y.family y.mult * (u.mclk - t0)
      (lockedIn u d → y.edgeOwed = true → State.settleEdge w order u d =
        (u.setDomain d { y with edgeOwed := false }).takeBoundary d (u.input w).lastEdge order) ∧
      (¬ (lockedIn u d ∧ y.edgeOwed = true) → State.settleEdge w order u d = u) ∧
      (lockedIn u d → ends → State.boundaryFirst w order u d = u.takeBoundary d u.mclk order ∧
        State.oweBoundary w u d = u.setDomain d (owing y)) ∧
      (¬ (lockedIn u d ∧ ends) → State.boundaryFirst w order u d = u ∧ State.oweBoundary w u d = u)) ∧
    (x.present = true → now ≤ x.lastEdge + 10000 → x.blockEdges + 1 < 64 → first = [] →
      (∀ d, lockedIn s d → (s.domain d).edgeOwed = false ∧ (s.domain d).afterSwitch = none) →
      ∃ t, run = .next t ∧ t = { s with mclk := now, cb := t.cb } ∧
        t.input w = { x with lastEdge := now, blockEdges := x.blockEdges + 1 } ∧
        ∀ d, (lockedIn s d → t.domain d = owing (s.domain d)) ∧ (¬ lockedIn s d → t.domain d = s.domain d)) ∧
    (x.present = true → now ≤ x.lastEdge + 10000 → 63 ≤ x.blockEdges → first = [] →
      (∀ d c, (s.domain d).candidate = some c → c.source ≠ source) →
      (∀ d, lockedIn s d → (s.domain d).edgeOwed = false ∧ (s.domain d).afterSwitch = none ∧
        withinTolerance (s.domain d).family (s.domain d).mult (now - x.blockStart) = true) →
      ∃ t, run = .next t ∧ t = { s with mclk := now, cb := t.cb } ∧
        t.input w = { x with
          lastEdge := now, blockStart := now, blockEdges := 0, latest := some (now - x.blockStart), stale := false,
          measurements := x.measurements + 1 } ∧
        ∀ d, (lockedIn s d → t.domain d = { owing (s.domain d) with lastGood := some (now - x.blockStart) }) ∧
          (¬ lockedIn s d → t.domain d = s.domain d))) ∧
  (∀ (s : State) (w : Fin 2) (order : List BoundaryPart),
    let x := s.input w
    let m := s.mclk - x.blockStart
    (x.blockEdges + 1 < 64 → s.countEdge w order =
      s.setInput w { x with lastEdge := s.mclk, blockEdges := x.blockEdges + 1 }) ∧
    (63 ≤ x.blockEdges → s.countEdge w order = [(0 : Fin 4), 1, 2, 3].foldl (fun u d =>
        let v := u.measured w m d
        if (u.domain d).run = .locked ∧ (v.domain d).run = .holdover then
          v.catchUp d u.mclk order (v.catchUpFuel d u.mclk)
        else v) (s.setInput w { x with
      lastEdge := s.mclk, blockStart := s.mclk, blockEdges := 0, latest := some m, stale := false,
      measurements := x.measurements + 1 }))) ∧
  (∀ (s : State) (w : Fin 2) (m : Nat) (d : Fin 4),
    let x := s.domain d
    let source : Source := if w = 0 then .wci0 else .wci1
    let locked := x.run = .locked ∧ x.ref = some source
    (¬ locked → (∀ c, x.candidate = some c → c.source ≠ source) → s.measured w m d = s) ∧
    (locked → (∀ c, x.candidate = some c → c.source ≠ source) →
      (withinTolerance x.family x.mult m = true → s.measured w m d = s.setDomain d { x with lastGood := some m }) ∧
      (withinTolerance x.family x.mult m = false → s.measured w m d = s.loseReference d .outOfTolerance)) ∧
    (∀ c, ¬ locked → x.candidate = some c → c.source = source →
      (c.phase = .passed ∨ ∃ t0, c.windowStart = some t0 ∧ s.mclk ≤ t0 + 800000 * 2 ^ c.settle) →
      c.phase ≠ .starting →
      (withinTolerance c.family c.mult m = true → s.measured w m d = s.setDomain d { x with
        candidate := some { c with latest := some m } }) ∧
      (withinTolerance c.family c.mult m = false → s.measured w m d = s.failCandidate d .outOfTolerance m)))

/-- R91, R82, R79: 10,000 cycles after its last edge a PRESENT input is ABSENT: counted, its block abandoned, its
measurement stale, its record written (that it is asked for before what the absence brings the domains is the model's
choice, log 58); every domain LOCKED on it loses it and every candidate on it fails; of one domain first the loss and its
report, then the candidate's failure, then the boundaries of the catch-up (log 12); the domains are taken in rising number
(log 44). R82, R84, R87: a loss puts the domain in HOLDOVER from its last boundary, its reference still named, and passes
REFERENCE_LOST; a fallback becomes a candidate where there is none. Before that the domains LOCKED on the input take the
boundary of its last edge where they still owe it (log 10). R83, R72: the boundaries that holdover timing places up to the
moment of loss are taken at that moment, in order, each with its own count: after them the domain has left HOLDOVER, or its
next boundary falls after that moment; that a switch to a PASSED candidate at the first of them ends the catch-up is the
model's choice (log 57). That is said for a last good measurement of 64 cycles or more, which every measurement inside a
tolerance is (R93). -/
def Obligations.LossStartsHoldover : Prop :=
  (∀ (w : Fin 2) (dt : Nat) (order : List BoundaryPart) (s : State), s.phase ≠ .held →
    let now := s.mclk + dt
    let x := s.input w
    let source : Source := if w = 0 then .wci0 else .wci1
    let settled := [(0 : Fin 4), 1, 2, 3].foldl (State.settleEdge w order) { s with mclk := now }
    let gone : State := (settled.setInput w { x with
      present := false, absences := satInc x.absences, stale := x.latest.isSome, blockEdges := 0 }).request (.input w)
    (x.present = false ∨ now < x.lastEdge + 10000 →
      exec (.inputAbsent w dt order) s = .next { s with mclk := now }) ∧
    (x.present = true → x.lastEdge + 10000 ≤ now →
      exec (.inputAbsent w dt order) s = .next ([(0 : Fin 4), 1, 2, 3].foldl (fun u d =>
        let v := u.inputLost w d
        if (u.domain d).run = .locked ∧ (v.domain d).run = .holdover then
          v.catchUp d (x.lastEdge + 10000) order (v.catchUpFuel d (x.lastEdge + 10000))
        else v) gone)) ∧
    (∀ (u : State) (d : Fin 4),
      let locked := (u.domain d).run = .locked ∧ (u.domain d).ref = some source
      let waiting := ∃ c, (u.domain d).candidate = some c ∧ c.source = source
      (¬ locked → ¬ waiting → u.inputLost w d = u) ∧
      (locked → ¬ waiting → u.inputLost w d = u.loseReference d .absent) ∧
      (¬ locked → waiting → u.inputLost w d = u.failCandidate d .absent 0) ∧
      (locked → waiting → u.inputLost w d = (u.loseReference d .absent).failCandidate d .absent 0))) ∧
  (∀ (s : State) (d : Fin 4) (cause : ClockCause),
    let x := s.domain d
    let y : Domain := { x with
      run := .holdover, holdStart := x.lastBoundary, holdIndex := 0, afterSwitch := none, edgeOwed := false }
    let lost (taken : Bool) : State := ((s.setDomain d y).request (.domain d)).passEvent
      { kind := .referenceLost, source := d.val, stampDomain := some d, stampCount := x.count,
        d0 := fields [(0, refCode x.ref), (8, cause.code)],
        d1 := nat32 (match x.lastGood with | none => 0 | some m => m), flagA := taken, flagB := false }
    (x.candidate ≠ none ∨ x.fallback = none → s.loseReference d cause = lost false) ∧
    (∀ f, x.candidate = none → x.fallback = some f →
      s.loseReference d cause = (lost true).createCandidate d
        { source := f, family := x.family, mult := x.mult, tickExp := x.tickExp, settle := x.settle, fallback := some f,
          origin := .fallback, phase := .starting, windowStart := none, latest := none })) ∧
  (∀ (s : State) (d : Fin 4) (limit fuel m : Nat) (order : List BoundaryPart), (s.domain d).run = .holdover →
    (s.domain d).lastGood = some m →
    let due := (s.domain d).holdStart + ((s.domain d).holdIndex + 1) * m / 64
    (due ≤ limit → s.catchUp d limit order (fuel + 1) =
      (s.takeBoundary d limit order).catchUp d limit order fuel) ∧
    (limit < due → s.catchUp d limit order (fuel + 1) = s)) ∧
  (∀ (s : State) (d : Fin 4) (limit fuel : Nat) (order : List BoundaryPart), (s.domain d).run ≠ .holdover →
    s.catchUp d limit order fuel = s) ∧
  (∀ (s : State) (d : Fin 4) (limit m : Nat) (order : List BoundaryPart), (s.domain d).run = .holdover →
    (s.domain d).lastGood = some m → 64 ≤ m →
    let y := (s.catchUp d limit order (s.catchUpFuel d limit)).domain d
    y.run ≠ .holdover ∨ (y.lastGood = some m ∧ limit < y.holdStart + (y.holdIndex + 1) * m / 64))

/-! ## Lanes -/

/-- An event of lane `l` with the stamp of its domain `d` (R120). -/
def Sys2Proof.Machine.State.ofLane (s : State) (k : EventKind) (l : Fin 8) (d : Fin 4) (d0 d1 : Word) (flagA : Bool) : Event :=
  { kind := k, source := l.val, stampDomain := (s.stampOf d).1, stampCount := (s.stampOf d).2, d0 := d0, d1 := d1,
    flagA := flagA, flagB := false }

/-- R109: a good echo of TRAIN frame `n`. -/
abbrev Sys2Proof.Machine.goodEcho (f : LaneFrame) (n announcement : Word) : Prop :=
  crcOf f.body = f.crc ∧ f.kind = 3 ∧ f.slotCount = 0 ∧ f.tag.toNat = n.toNat % 256 ∧ f.mark = 1 ∧ f.word = announcement

/-- R102, R107, R109: a frame that reaches an IDLE or a FAULT lane is ignored, one that no frame is expected for is a
stray frame, and a TRAINING lane judges its frame as an echo: a good one adds to the run, the 16th in a row makes the
lane UP with LANE_UP, and anything else takes the run to 0. -/
def Obligations.TrainingLanesJudgeEchoes : Prop :=
  ∀ (s : State) (l : Fin 8) (f : LaneFrame), s.phase ≠ .held →
    let x := s.lane l
    (x.state = .idle ∨ x.state = .fault → exec (.laneFrameReceived l f) s = .next s) ∧
    (x.state = .training ∨ x.state = .up → x.expected = none →
      exec (.laneFrameReceived l f) s = .next (s.setLane l { x with
        counters := { x.counters with stray := satInc x.counters.stray } })) ∧
    ∀ n d, x.state = .training → x.expected = some n → x.domain = some d →
      let a := (s.domain d).announcement
      (¬ goodEcho f n a → exec (.laneFrameReceived l f) s =
        .next (s.setLane l { x with expected := none, trainingRun := 0 })) ∧
      (goodEcho f n a → x.trainingRun + 1 ≠ 16 → exec (.laneFrameReceived l f) s =
        .next (s.setLane l { x with expected := none, trainingRun := x.trainingRun + 1 })) ∧
      (goodEcho f n a → x.trainingRun + 1 = 16 → exec (.laneFrameReceived l f) s =
        .next (((s.setLane l { x with
          expected := none, state := .up, trainingRun := 16, badRun := 0, lastStatus := none }).request (.lane l)).passEvent
            (s.ofLane .laneUp l d
              (fields [(0, slotCapacity (s.domain d).mult), (8, (s.domain d).family.code), (16, (s.domain d).mult.value)])
              n false)))

/-- R112: the cause for which an arriving frame is bad, the first of the table that applies; none where it is good. R112,
R113, R114: an UP lane counts a good frame, hands it to the Meter Unit, examines its status word, unless its mark is 0 (log
23), and places it in staging; a bad one it counts by its cause and places as bad, and the 8th bad one in a row is a fault,
entered after its placement (log 61). R117, R116, R43: what an entry into FAULT leaves of the lane, in its order: the
record, LANE_FAULT, and then the halting of the streams. R30, R31, R112: inbound frame `n` takes a place in staging, or is
lost to it where four are taken, with ENGINE_LATE once between ticks, at its arrival (log 24); R115: then every staged frame
that no stream has still to store leaves, whatever stands before it, the OVERFLOWING streams having taken it (R35, log 25),
in rising number (log 44). R112, R113: an UP lane judges a frame bad in the same way for every cause, MISSING among them.
R106: the CRC of a frame, with its generator and its register at all ones. -/
def Obligations.UpLanesJudgeTheirFrames : Prop :=
  (∀ (f : LaneFrame) (capacity : Nat) (n : Word),
    let crcGood := crcOf f.body = f.crc
    let format := f.kind = 1 ∧ f.slotCount.toNat = capacity ∧ (f.mark = 0 ∨ f.mark = 1)
    let tagGood := f.tag.toNat = n.toNat % 256
    (¬ crcGood → frameCause f capacity n = some .crc) ∧
    (crcGood → ¬ format → frameCause f capacity n = some .format) ∧
    (crcGood → format → ¬ tagGood → frameCause f capacity n = some .tag) ∧
    (crcGood → format → tagGood → frameCause f capacity n = none)) ∧
  (∀ (s : State) (l : Fin 8) (f : LaneFrame) (n : Word) (d : Fin 4), s.phase ≠ .held → (s.lane l).state = .up →
    (s.lane l).expected = some n → (s.lane l).domain = some d →
    let x := s.lane l
    (frameCause f (slotCapacity (s.domain d).mult) n = none →
      let y : Lane := { x with expected := none, badRun := 0, counters := { x.counters with good := x.counters.good + 1 } }
      let t := (s.setLane l y).meterFrame l f.slots
      (f.mark = 0 ∨ x.lastStatus = some f.word →
        exec (.laneFrameReceived l f) s = .next (t.placeInbound l n (.good f.slots))) ∧
      (f.mark = 1 → x.lastStatus ≠ some f.word →
        exec (.laneFrameReceived l f) s = .next ((((t.setLane l { y with lastStatus := some f.word }).request
          (.lane l)).passEvent (s.ofLane .converterStatus l d f.word
            (match x.lastStatus with | none => 0 | some w => w) x.lastStatus.isNone)).placeInbound l n (.good f.slots)))) ∧
    (∀ cause, frameCause f (slotCapacity (s.domain d).mult) n = some cause →
      let counted : LaneCounters := match cause with
        | .crc => { x.counters with badCrc := satInc x.counters.badCrc }
        | .format => { x.counters with badFormat := satInc x.counters.badFormat }
        | .tag => { x.counters with badTag := satInc x.counters.badTag }
        | .missing => { x.counters with badMissing := satInc x.counters.badMissing }
      let t := (s.setLane l { x with expected := none, badRun := x.badRun + 1, counters := counted }).placeInbound l n .bad
      (x.badRun + 1 ≠ 8 → exec (.laneFrameReceived l f) s = .next t) ∧
      (x.badRun + 1 = 8 → exec (.laneFrameReceived l f) s = .next (t.enterFault l cause n)))) ∧
  (∀ (s : State) (l : Fin 8) (d : Fin 4) (cause : BadCause) (n : Word), (s.lane l).domain = some d →
    let x := s.lane l
    s.enterFault l cause n = ((((s.setLane l { x with
      state := .fault, expected := none, countdown := some 1024, queue := [], lastStatus := none,
      counters := { x.counters with
        dropped := satAdd x.counters.dropped x.queue.length, faults := satInc x.counters.faults } }).request
          (.lane l)).passEvent (s.ofLane .laneFault l d (fields [(0, cause.code), (8, x.queue.length)]) n false)).haltLane l)) ∧
  (∀ (s : State) (l : Fin 8) (d : Fin 4) (n : Word) (k : InboundKind), (s.lane l).domain = some d →
    let x := s.lane l
    let held := x.inbound.countP (fun f => f.kind != .lost)
    (held < 4 → s.placeInbound l n k = (s.setLane l { x with inbound := x.inbound ++ [⟨n, k⟩] }).drainInbound l) ∧
    (4 ≤ held → x.lateIn = false → s.placeInbound l n k =
      (s.setLane l { x with inbound := x.inbound ++ [⟨n, .lost⟩] }).drainInbound l) ∧
    (4 ≤ held → x.lateIn = true → s.placeInbound l n k =
      ((s.setLane l { x with inbound := x.inbound ++ [⟨n, .lost⟩], lateIn := false }).passEvent
        (s.ofLane .engineLate l d (fields [(0, 2)]) n false)).drainInbound l)) ∧
  (∀ (s : State) (l : Fin 8),
    let capturing (i : Fin 32) : Prop := ∃ g, (s.stream i).geom = some g ∧ g.lane = l ∧ g.dir = .capture
    s.drainInbound l = (s.lane l).inbound.foldl (State.leaveInbound l) s ∧
    ∀ f, (∀ i, capturing i → (s.stream i).state ≠ .overflowing) →
      ((∃ i, capturing i ∧ s.delays f.number i = true) → State.leaveInbound l s f = s) ∧
      ((∀ i, capturing i → s.delays f.number i = false) → State.leaveInbound l s f =
        s.setLane l { s.lane l with inbound := (s.lane l).inbound.filter (· != f) })) ∧
  (∀ (s : State) (l : Fin 8) (f : InboundFrame),
    let on (u : State) (i : Fin 32) : Bool := (u.stream i).geom.any (fun g => g.lane == l && g.dir == .capture)
    let t := ((List.finRange 32).filter (on s)).foldl (fun u i =>
      if (u.stream i).state = .overflowing ∧ (u.stream i).storesFrame f.number = true then (u.storeBegin i f.number).1
        else u) s
    ((∃ i, on t i = true ∧ t.delays f.number i = true) → State.leaveInbound l s f = t) ∧
    ((∀ i, on t i = true → t.delays f.number i = false) → State.leaveInbound l s f =
      t.setLane l { t.lane l with inbound := (t.lane l).inbound.filter (· != f) })) ∧
  (∀ (s : State) (i : Fin 32) (n : Word),
    let x := s.stream i
    (x.storesFrame n = true ↔
      (n - x.next).toNat < 2147483648 ∧ ∀ r, x.stop = some r → (r.last - n).toNat < 2147483648) ∧
    (s.delays n i = true ↔ (x.state = .running ∨ x.state = .primed) ∧ x.storesFrame n = true)) ∧
  (∀ (s : State) (l : Fin 8) (cause : BadCause) (n : Word),
    let x := s.lane l
    let c := x.counters
    let t := (s.setLane l { x with
      badRun := x.badRun + 1,
      counters := match cause with
        | .missing => { c with badMissing := satInc c.badMissing }
        | .crc => { c with badCrc := satInc c.badCrc }
        | .format => { c with badFormat := satInc c.badFormat }
        | .tag => { c with badTag := satInc c.badTag } }).placeInbound l n .bad
    (x.badRun + 1 ≠ 8 → s.judgeBad l cause n = t) ∧ (x.badRun + 1 = 8 → s.judgeBad l cause n = t.enterFault l cause n)) ∧
  (∀ (bytes : List Byte) (b : Byte) (r : Half),
    crcOf [] = 0xFFFF#16 ∧ crcOf (bytes ++ [b]) = crcBit^[8] (crcOf bytes ^^^ (b.setWidth 16 <<< 8)) ∧
    crcBit r = if r.getLsbD 15 then (r <<< 1) ^^^ 0x1021#16 else r <<< 1)

/-- R107, R108, R111, R117: what a lane does at a boundary: it judges an open expectation missing, counts down a fault,
and sends TRAIN frame `n` with the announcement, or DATA frame `n` with its staged slots and its oldest command word, or
nothing. R73, R27: a lane of a running domain takes each boundary once, in this order; then frame `n` leaves its
staging. R28: at that leaving the frame is the last carried of each stream noted in it, the played claim is made for
each that carried the last frame of a period, in the order noted (log 44), the place is empty, and a stream whose last
frame it was is IDLE. R29: before it, a stream whose fetch for the frame has not completed, and is not starved, counts a
late frame and its position goes on as if it had; the begin claim of a frame not begun is made then, with what a refusal
does (log 15), and the late frame is one that the stream was carried in (log 16); ENGINE_LATE follows once between ticks.
Late and stopped streams are taken in rising number (log 44). R117: the boundary that ends the countdown of a FAULT lane,
no cue of the list being applied at it: the count rises, and the lane is TRAINING and has sent the TRAIN frame of the frame
just closed (RETRAIN_COUNTDOWN_END stands for that boundary, log 28). R106, R202: the fields of a frame the part sends, the
bytes its CRC is computed over, and the word of the rate announcement. -/
def Obligations.LanesSendAtTheirBoundaries : Prop :=
  (∀ (s : State) (l : Fin 8) (d : Fin 4) (n : Word),
    let x := s.lane l
    (x.state = .training → s.sendFrame l d n = s.setLane l { x with
      sent := some (LaneFrame.make 2 (n.extractLsb' 0 8) [] (some (s.domain d).announcement)), expected := some n }) ∧
    (x.state = .up → x.queue = [] → s.sendFrame l d n = s.setLane l { x with
      sent := some (LaneFrame.make 1 (n.extractLsb' 0 8)
        (x.outbound[placeOf n].slots.toList.take (s.capacity l)) none), expected := some n }) ∧
    (∀ w q, x.state = .up → x.queue = w :: q → s.sendFrame l d n = s.setLane l { x with
      sent := some (LaneFrame.make 1 (n.extractLsb' 0 8)
        (x.outbound[placeOf n].slots.toList.take (s.capacity l)) (some w)), expected := some n, queue := q,
      counters := { x.counters with sent := x.counters.sent + 1 } }) ∧
    (x.state = .fault ∨ x.state = .idle → s.sendFrame l d n = s) ∧
    (x.expected = none → s.closeExpectation l = s) ∧
    (∀ m, x.expected = some m → x.state = .up →
      s.closeExpectation l = (s.setLane l { x with expected := none }).judgeBad l .missing m) ∧
    (∀ m, x.expected = some m → x.state = .training →
      s.closeExpectation l = s.setLane l { x with expected := none, trainingRun := 0 }) ∧
    (∀ k, x.countdown = some (k + 2) → s.countDown l = s.setLane l { x with countdown := some (k + 1) }) ∧
    (x.countdown = some 1 → s.countDown l = ((s.setLane l { x with
      state := .training, trainingRun := 0, badRun := 0, countdown := none, expected := none,
      lastStatus := none }).clearWindow l).request (.lane l))) ∧
  (∀ (s : State) (l : Fin 8) (d : Fin 4),
    let n := (s.domain d).count - 1
    let playing (u : State) : List (Fin 32) := (List.finRange 32).filter (fun i =>
      (u.stream i).geom.any (fun g => g.lane == l && g.dir == .play))
    let judged := s.closeExpectation l
    let counted := if (s.lane l).state = .fault then judged.countDown l else judged
    let fetched := (playing counted).foldl (fun u i => u.leaveUnfetched l n i) counted
    let done (u : State) : State := { u with li := { u.li with atBoundary := u.li.atBoundary.filter (· != l) } }
    (l ∉ s.li.atBoundary → s.takeLane d l = s) ∧
    (l ∈ s.li.atBoundary → (s.domain d).run = .stopped → s.takeLane d l = done s) ∧
    (l ∈ s.li.atBoundary → (s.domain d).run ≠ .stopped →
      s.takeLane d l = done ((fetched.sendFrame l d n).frameLeft l n)) ∧
    let carries := (s.lane l).outbound[placeOf n].carries
    let noted := carries.foldl (fun u r => u.setStream r.stream { u.stream r.stream with lastFrame := some n }) s
    let claimed := carries.foldl (fun u r =>
      if r.frame + 1 = r.frames then u.playedClaim r.stream r.base r.period else u) noted
    let left := claimed.setLane l { claimed.lane l with
      outbound := (claimed.lane l).outbound.set (placeOf n) ⟨Vector.replicate 64 0, []⟩ }
    s.frameLeft l n = (playing left).foldl (fun u i =>
      match (u.stream i).stop with
      | none => u
      | some r =>
        let how : StopHow := match r.mode with | .now => .now | .periodEnd => .periodEnd
        if r.last = n ∧ (u.stream i).state.active = true then u.becomeIdle i how else u) left) ∧
  (∀ (s : State) (l : Fin 8) (n : Word) (i : Fin 32),
    let x := s.stream i
    let fetching := x.state = .primed ∨ x.state = .running ∨ x.state = .starved
    let due := fetching ∧ x.next = n ∧ ∀ r, x.stop = some r → (r.last - n).toNat < 2147483648
    let begun : State × Bool := if x.words = 0 then s.fetchBegin i else (s, true)
    let y := begun.1.stream i
    let late := begun.1.setStream i { y with
      counters := { y.counters with engineLate := satInc y.counters.engineLate } }
    (¬ due → s.leaveUnfetched l n i = s) ∧ (due → begun.2 = false → s.leaveUnfetched l n i = begun.1) ∧
    (due → begun.2 = true →
      s.leaveUnfetched l n i = (late.engineLate l .outbound n).fetchEnd i (x.words != 0))) ∧
  (∀ (s : State) (l : Fin 8) (d : Fin 4) (n : Word), (s.lane l).domain = some d →
    ((s.lane l).lateOut = false → s.engineLate l .outbound n = s) ∧
    ((s.lane l).lateOut = true → s.engineLate l .outbound n = (s.setLane l { s.lane l with lateOut := false }).passEvent
      (s.ofLane .engineLate l d (fields [(0, 1)]) n false))) ∧
  (∀ (s : State) (i : Fin 32) (g : Geometry) (carried : Bool), (s.stream i).geom = some g →
    (s.stream i).frame + 1 < g.frames →
    let x := s.stream i
    let stamp := if carried = true ∧ x.stamp = none then some x.next else x.stamp
    let place := (s.lane g.lane).outbound[placeOf x.next]
    ((s.fetchEnd i carried).lane g.lane).outbound[placeOf x.next] = { place with
      carries := place.carries ++ [⟨i, g.base, x.period, x.frame, g.frames⟩] } ∧
    (s.fetchEnd i carried).stream i = { x with frame := x.frame + 1, next := x.next + 1, words := 0, stamp := stamp }) ∧
  (∀ (l : Fin 8) (dt : Nat) (order : List BoundaryPart) (s : State) (d : Fin 4), s.phase ≠ .held →
    (s.lane l).state = .fault → (s.lane l).countdown = some 1 → (s.lane l).domain = some d → boundaryIsDue (s.domain d) (s.mclk + dt) → s.cu.list = [] →
    (s.domain d).candidate = none → (s.domain d).rateChange = none →
    ∃ t, exec (.retrainCountdownEnd l dt order) s = .next t ∧ (t.domain d).count = (s.domain d).count + 1 ∧
      (t.lane l).state = .training ∧ (t.lane l).countdown = none ∧ (t.lane l).trainingRun = 0 ∧
      (t.lane l).expected = some (s.domain d).count ∧
      (t.lane l).sent = some (LaneFrame.make 2 ((s.domain d).count.extractLsb' 0 8) [] (some (s.domain d).announcement))) ∧
  (∀ (kind tag : Byte) (slots : List Word) (control : Option Word) (x : Domain),
    let f := LaneFrame.make kind tag slots control
    let bytes (w : Word) : List Byte := (List.range 4).map (fun k => w.extractLsb' (8 * k) 8)
    f.kind = kind ∧ f.tag = tag ∧ f.slotCount = BitVec.ofNat 8 slots.length ∧ f.slots = slots ∧ f.crc = crcOf f.body ∧
    (control = none → f.mark = 0 ∧ f.word = 0) ∧ (∀ w, control = some w → f.mark = 1 ∧ f.word = w) ∧
    f.body = [f.kind, f.tag, f.slotCount] ++ slots.flatMap bytes ++ [f.mark] ++ bytes f.word ∧
    x.announcement = fields [(0, x.family.code), (8, x.mult.value)])

/-! ## Word clock outputs -/

/-- R97, R98, R100: a scheduled rise or fall comes at its time and not before; a fall records the last half-period, and
an ENDING output takes the settings staged for it and becomes OFF or WAITING. R97: the half-period of a cycle: the
whole part of divider times half the frame period, from the rate on an internal oscillator and from the last good
measurement otherwise; the six values the rule lists at divider 1. R97, R98: what an output does at an aligned
boundary, at time `t`: nothing when OFF; passed over when ENDING, high or waiting for its guard; else a cycle begins,
under pending settings where they align too, and the line rises at once or when it has been low for the guard; the
boundary is aligned where it is one of the domain and divider in force, and comes after the edges of the line due
before it (log 13). R99: what the stop of its domain makes of an output. R100: its record is asked for at a change of state
and where pending settings are placed or removed. -/
def Obligations.OutputsFollowTheirCycles : Prop :=
  (∀ (s : State) (o : Fin 4) (dt : Nat), s.phase ≠ .held →
    let s0 : State := { s with mclk := s.mclk + dt }
    let x := s.output o
    (x.riseAt = none → exec (.outputRise o dt) s = .next s0) ∧
    (∀ t, x.riseAt = some t → s.mclk + dt < t → exec (.outputRise o dt) s = .next s0) ∧
    (∀ t, x.riseAt = some t → t ≤ s.mclk + dt → exec (.outputRise o dt) s =
      .next (s0.setOutput o { x with line := true, riseAt := none, fallAt := some (t + x.half) })) ∧
    (x.fallAt = none → exec (.outputFall o dt) s = .next s0) ∧
    (∀ t, x.fallAt = some t → s.mclk + dt < t → exec (.outputFall o dt) s = .next s0) ∧
    (∀ t, x.fallAt = some t → t ≤ s.mclk + dt →
      let y : WordOutput := { x with line := false, fallAt := none, lastFall := t, lastHalf := some x.half }
      let p := match x.pendingSettings with | none => x.settings | some p => p
      (x.state ≠ .ending → exec (.outputFall o dt) s = .next (s0.setOutput o y)) ∧
      (x.state = .ending → p.enable = true → exec (.outputFall o dt) s = .next ((s0.setOutput o { y with
        settings := p, pendingSettings := none, state := .waiting }).request (.output o))) ∧
      (x.state = .ending → p.enable = false → exec (.outputFall o dt) s = .next ((s0.setOutput o { y with
        settings := p, pendingSettings := none, state := .off }).request (.output o))))) ∧
  ((∀ (s : State) (d : Fin 4) (k : Factor), (s.domain d).run = .locked →
    (s.domain d).ref = some .int44 ∨ (s.domain d).ref = some .int48 →
    s.halfPeriod d k = k.value * 100000000 / (2 * rateOf (s.domain d).family (s.domain d).mult)) ∧
  (∀ (s : State) (d : Fin 4) (k : Factor) (m : Nat), (s.domain d).lastGood = some m →
    (s.domain d).run = .holdover ∨ (s.domain d).ref = some .wci0 ∨ (s.domain d).ref = some .wci1 →
    s.halfPeriod d k = k.value * m / 128) ∧
  100000000 / (2 * rateOf .f441 .x1) = 1133 ∧ 100000000 / (2 * rateOf .f441 .x2) = 566 ∧
  100000000 / (2 * rateOf .f441 .x4) = 283 ∧ 100000000 / (2 * rateOf .f48 .x1) = 1041 ∧
  100000000 / (2 * rateOf .f48 .x2) = 520 ∧ 100000000 / (2 * rateOf .f48 .x4) = 260) ∧
  (∀ (s : State) (o d : Fin 4) (c : Word) (t : Nat),
    let x := s.output o
    let skipped : WordOutput := { x with passedOver := satInc x.passedOver }
    let quiet := x.line = false ∧ x.riseAt = none
    (x.state = .off → s.alignedBoundary o d c t = x) ∧
    (x.state = .ending → s.alignedBoundary o d c t = skipped) ∧
    (x.state = .waiting → s.alignedBoundary o d c t = x.beginCycle t (s.halfPeriod d x.settings.divider)) ∧
    (x.state = .running → ¬ quiet → s.alignedBoundary o d c t = skipped) ∧
    (x.state = .running → quiet → x.pendingSettings = none →
      s.alignedBoundary o d c t = x.beginCycle t (s.halfPeriod d x.settings.divider)) ∧
    (∀ p, x.state = .running → quiet → x.pendingSettings = some p →
      let y : WordOutput := { x with settings := p, pendingSettings := none }
      (p.domain = d → c.toNat % p.divider.value = 0 →
        s.alignedBoundary o d c t = y.beginCycle t (s.halfPeriod d p.divider)) ∧
      (¬ (p.domain = d ∧ c.toNat % p.divider.value = 0) →
        s.alignedBoundary o d c t = { y with state := .waiting })) ∧
    (∀ (y : WordOutput) (h : Nat),
      let guard := match y.lastHalf with | none => h | some k => min k h
      (y.lastFall + guard ≤ t → y.beginCycle t h = { y with
        state := .running, half := h, line := true, riseAt := none, fallAt := some (t + h) }) ∧
      (t < y.lastFall + guard → y.beginCycle t h = { y with
        state := .running, half := h, riseAt := some (y.lastFall + guard) }))) ∧
  (∀ (s : State) (o d : Fin 4),
    let t := (s.domain d).lastBoundary
    let c := (s.domain d).count
    let u := s.edgesBefore o t
    let x := u.output o
    let aligned := x.settings.domain = d ∧ c.toNat % x.settings.divider.value = 0
    (aligned → s.outputBoundary d o = u.putOutput o (u.alignedBoundary o d c t)) ∧
    (¬ aligned → s.outputBoundary d o = u) ∧
    (t = 0 → u = s) ∧ (t ≠ 0 → u = s.runEdges o (t - 1)) ∧ s.overdueEdges o = s.edgesBefore o s.mclk ∧
    ((∀ a, (s.output o).riseAt = some a → t ≤ a) → (∀ a, (s.output o).fallAt = some a → t ≤ a) → u = s) ∧
    (∀ a, (s.output o).riseAt = none → (s.output o).fallAt = some a → a < t → (s.output o).state = .running →
      x = { s.output o with line := false, fallAt := none, lastFall := a, lastHalf := some (s.output o).half })) ∧
  (∀ x : WordOutput,
    (x.state = .running → x.line = true → x.domainStopped = { x with state := .ending }) ∧
    (x.state = .running → x.line = false → x.domainStopped = { x with
      state := .waiting, riseAt := none, pendingSettings := none,
      settings := match x.pendingSettings with | none => x.settings | some p => p }) ∧
    (x.state ≠ .running → x.domainStopped = x)) ∧
  (∀ (s : State) (o : Fin 4) (y : WordOutput) (limit : Nat),
    let x := s.output o
    let t := s.setOutput o y
    let due (a : Option Nat) : Prop := ∃ n, a = some n ∧ n ≤ limit
    (x.state ≠ y.state ∨ x.pendingSettings ≠ y.pendingSettings → s.putOutput o y = t.request (.output o)) ∧
    (x.state = y.state → x.pendingSettings = y.pendingSettings → s.putOutput o y = t) ∧
    ∃ risen fallen : WordOutput,
      (¬ due x.riseAt → risen = x) ∧
      (∀ a, x.riseAt = some a → a ≤ limit →
        risen = { x with line := true, riseAt := none, fallAt := some (a + x.half) }) ∧
      (¬ due risen.fallAt → fallen = risen) ∧
      (∀ a, risen.fallAt = some a → a ≤ limit →
        let z : WordOutput := { risen with line := false, fallAt := none, lastFall := a, lastHalf := some risen.half }
        let p := match risen.pendingSettings with | none => risen.settings | some p => p
        (risen.state ≠ .ending → fallen = z) ∧
        (risen.state = .ending → fallen = { z with
          settings := p, pendingSettings := none, state := if p.enable then .waiting else .off })) ∧
      s.runEdges o limit = s.putOutput o fallen)

/-! ## Control surfaces -/

/-- An event of port `p` with its stamp (R142). -/
def Sys2Proof.Machine.State.ofPort (s : State) (k : EventKind) (p : Fin 2) (d0 d1 : Word) (flagA : Bool) : Event :=
  { kind := k, source := p.val, stampDomain := (s.surfaceStamp p).1, stampCount := (s.surfaceStamp p).2, d0 := d0, d1 := d1,
    flagA := flagA, flagB := false }

/-- The port's silence has not run out by `now` (R128, log 13). -/
def Sys2Proof.Machine.Port.heard (x : Port) (now : Nat) : Prop := ∀ t0, x.silence = some t0 → now ≤ t0 + 25000000

/-- R125: a valid report is counted and restarts the silence timer. -/
def Sys2Proof.Machine.Port.counted (x : Port) (now : Nat) : Port :=
  { x with silence := some now, counters := { x.counters with taken := x.counters.taken + 1 } }

/-- R126, R127: an ANNOUNCE of counts up to 16 makes the port UP with those counts, WELCOME pending and the draw order
at its start; lamp rows and ladders below the counts and DRIVEN motors are dirty; on a port that was UP what lies at or
above the counts is let go; the image is written and SURFACE_UP passed. R128: 250 ms after its last valid report an UP
port is DOWN: its motors FREE, its faders untouched, nothing dirty or pending, the drop counted, the image written, and
SURFACE_DOWN passed; before that nothing happens (log 13). (What a report does to a message that is still open stands in
`DiscardedReportsAreOnlyCounted`.) -/
def Obligations.LinksComeUpAndGoDown : Prop :=
  (∀ (s : State) (p : Fin 2) (f g e l ck : Byte) (dt : Nat), s.phase ≠ .held →
    (1 : Byte) + f + g + e + l + ck = 0 → f.toNat ≤ 16 → g.toNat ≤ 16 → e.toNat ≤ 16 → l.toNat ≤ 16 →
    (s.port p).heard (s.mclk + dt) → (s.port p).incoming = [] →
    let s0 : State := { s with mclk := s.mclk + dt }
    let x := s.port p
    ∃ y : Port, exec (.announce p f g e l ck dt) s = .next ((s0.setPort p y.draw).requestImage p
        [s.ofPort .surfaceUp p (fields [(0, f.toNat), (8, g.toNat), (16, e.toNat), (24, l.toNat)]) 0 x.up]) ∧
      y = { x.counted (s.mclk + dt) with
        up := true, announced := ⟨f.toNat, g.toNat, e.toNat, l.toNat⟩, welcome := true, roundRobin := 0,
        motors := y.motors, faders := y.faders, dirty := y.dirty } ∧
      (∀ i : Fin 16, y.motors[i] = if x.up = true ∧ f.toNat ≤ i.val then ⟨.free, none⟩ else x.motors[i]) ∧
      (∀ i : Fin 16, y.faders[i] =
        if x.up = true ∧ f.toNat ≤ i.val then { x.faders[i] with touched := false } else x.faders[i]) ∧
      (∀ i : Fin 16, y.dirty[lampItem i] =
        if i.val < g.toNat then .dirty else if x.up then .clean else x.dirty[lampItem i]) ∧
      (∀ i : Fin 16, y.dirty[ladderItem i] =
        if i.val < l.toNat then .dirty else if x.up then .clean else x.dirty[ladderItem i]) ∧
      (∀ i : Fin 16, y.dirty[motorItem i] =
        if i.val < f.toNat then (if x.motors[i].state = .driven then .target else x.dirty[motorItem i])
          else if x.up then .clean else x.dirty[motorItem i])) ∧
  (∀ (s : State) (p : Fin 2) (dt t0 : Nat), s.phase ≠ .held → (s.port p).up = true → (s.port p).silence = some t0 →
    let s0 : State := { s with mclk := s.mclk + dt }
    let x := s.port p
    (t0 + 25000000 ≤ s.mclk + dt →
      exec (.surfaceSilenceTimeout p dt) s = .next ((s0.setPort p { x with
        up := false, silence := none, welcome := false, motors := Vector.replicate 16 ⟨.free, none⟩,
        faders := x.faders.map (fun f => { f with touched := false }), dirty := Vector.replicate 48 .clean,
        counters := { x.counters with linkDrops := satInc x.counters.linkDrops } }).requestImage p
          [s.ofPort .surfaceDown p (nat32 (x.motors.toList.countP (fun m => m.state != .free)))
            (nat32 (x.motors.toList.countP (fun m => m.target.isSome))) false])) ∧
    (s.mclk + dt < t0 + 25000000 → exec (.surfaceSilenceTimeout p dt) s = .next s0))

/-- R125, R133: a BUTTONS report of a group the surface has replaces its states and re-evaluates it: the flag follows,
the image is written, and BUTTON_GROUP is passed where the group has just diverged; unchanged states change nothing
more. R139, R125: an ENCODER report adds its delta to the encoder's count, which wraps, with the image and, where the
notify bit is set, ENCODER_MOVED; a delta of 0 and an IDLE report are counted and change nothing more. -/
def Obligations.ButtonsAndEncodersAreTaken : Prop :=
  (∀ (s : State) (p : Fin 2) (i : Fin 16) (g states ck : Byte) (dt : Nat), s.phase ≠ .held → (s.port p).up = true →
    (s.port p).heard (s.mclk + dt) → (s.port p).incoming = [] → (2 : Byte) + g + states + ck = 0 → g.toNat = i.val →
    i.val < (s.port p).announced.groups →
    let s0 : State := { s with mclk := s.mclk + dt }
    let x := (s.port p).counted (s.mclk + dt)
    let m := x.mirrors.groups[i]
    let conforms : Bool := decide (∀ b : Fin 8, m.select.getLsbD b = true → states.getLsbD b = m.reference.getLsbD b)
    let y : Port := { x with buttons := x.buttons.set i states, diverged := x.diverged.set i (!conforms) }
    (states = x.buttons[i] → exec (.buttons p g states ck dt) s = .next (s0.setPort p x.draw)) ∧
    (states ≠ x.buttons[i] → exec (.buttons p g states ck dt) s = .next ((s0.setPort p y.draw).requestImage p
      (if conforms = false ∧ x.diverged[i] = false then
        [s.ofPort .buttonGroup p (fields [(0, i.val), (8, states.toNat)])
          (fields [(0, m.reference.toNat), (8, m.select.toNat)]) false] else [])))) ∧
  (∀ (s : State) (p : Fin 2) (dt : Nat), s.phase ≠ .held → (s.port p).up = true → (s.port p).heard (s.mclk + dt) →
    (s.port p).incoming = [] →
    let s0 : State := { s with mclk := s.mclk + dt }
    let x := (s.port p).counted (s.mclk + dt)
    (∀ ck : Byte, (5 : Byte) + ck = 0 → exec (.idleReport p ck dt) s = .next (s0.setPort p x.draw)) ∧
    (∀ (i : Fin 16) (e delta ck : Byte), (4 : Byte) + e + delta + ck = 0 → e.toNat = i.val → -64 ≤ delta.toInt →
      delta.toInt ≤ 63 → i.val < x.announced.encoders →
      let n := x.encoders[i] + delta.signExtend 16
      let y : Port := { x with encoders := x.encoders.set i n }
      (delta = 0 → exec (.encoderReport p e delta ck dt) s = .next (s0.setPort p x.draw)) ∧
      (delta ≠ 0 → exec (.encoderReport p e delta ck dt) s = .next ((s0.setPort p y.draw).requestImage p
        (if x.mirrors.notify.getLsbD i then
          [s.ofPort .encoderMoved p (fields [(0, i.val), (16, (delta.signExtend 16).toNat)]) (n.signExtend 32) false]
          else [])))))

/-- R134: a taken FADER report acts on the position first: one that differs replaces the fader's, the window is judged
(R135) and the image written; then on the touch: a new touch or a new release is taken by the fader and by its motor (R136),
the image is written and FADER_TOUCH or FADER_RELEASE passed with the stamp of R142. What is unchanged does nothing. A
FADER_WINDOW of the same report is passed before the FADER_TOUCH or FADER_RELEASE. -/
def Obligations.FaderReportsActOnPositionThenTouch : Prop :=
  ∀ (s : State) (p : Fin 2) (i : Fin 16) (f lo hi ck : Byte) (dt : Nat), s.phase ≠ .held → (s.port p).up = true →
    (s.port p).heard (s.mclk + dt) → (s.port p).incoming = [] → (3 : Byte) + f + lo + hi + ck = 0 → f.toNat = i.val →
    (∀ b, 2 ≤ b → b < 7 → hi.getLsbD b = false) → i.val < (s.port p).announced.faders →
    let s0 : State := { s with mclk := s.mclk + dt }
    let x := (s.port p).counted (s.mclk + dt)
    let old := x.faders[i]
    let pos : BitVec 10 := BitVec.ofNat 10 (lo.toNat + 256 * (hi.toNat % 4))
    let touched := hi.getLsbD 7
    let w := x.mirrors.windows[i]
    let judged : WindowState :=
      if w.high < w.low then .disabled else if w.low ≤ pos ∧ pos ≤ w.high then .inside else .outside
    let a : Port := if pos = old.position then x
      else { x with faders := x.faders.set i { old with position := pos, window := judged } }
    let left : List Event := if pos ≠ old.position ∧ old.window = .inside ∧ judged = .outside then
      [s.ofPort .faderWindow p (fields [(0, i.val), (16, pos.toNat)]) (fields [(0, w.low.toNat), (16, w.high.toNat)]) false]
      else []
    let b : Port := { a with faders := a.faders.set i { a.faders[i] with touched := touched } }
    let motor := x.motors[i]
    let done (z : Port) (k : EventKind) (code : Nat) (sent : Bool) : State := (s0.setPort p z.draw).requestImage p (left ++
      [s.ofPort k p (fields [(0, i.val), (16, pos.toNat)]) (fields [(0, code)]) sent])
    let run := exec (.faderReport p f lo hi ck dt) s
    (touched = old.touched → pos = old.position → run = .next (s0.setPort p x.draw)) ∧
    (touched = old.touched → pos ≠ old.position → run = .next ((s0.setPort p a.draw).requestImage p left)) ∧
    (touched = true → old.touched = false →
      (motor.state = .free → run = .next (done { b with motors := b.motors.set i ⟨.held, none⟩ } .faderTouch 2 false)) ∧
      (motor.state = .driven → run = .next (done { b with
        motors := b.motors.set i ⟨.held, none⟩, dirty := b.dirty.set (motorItem i) .release } .faderTouch 2 false)) ∧
      (motor.state = .held → run = .next (done b .faderTouch 2 false))) ∧
    (touched = false → old.touched = true →
      (∀ t, motor = ⟨.held, some t⟩ → run = .next (done { b with
        motors := b.motors.set i ⟨.driven, some t⟩, dirty := b.dirty.set (motorItem i) .target } .faderRelease 1 true)) ∧
      (motor = ⟨.held, none⟩ → run = .next (done { b with motors := b.motors.set i ⟨.free, none⟩ } .faderRelease 0 false)) ∧
      (motor.state = .free → run = .next (done b .faderRelease 0 false)) ∧
      (motor.state = .driven → run = .next (done b .faderRelease 1 false)))

/-- R124, R125: what is discarded: a report whose sum is not 0, whose kind is unknown, that ends short, or whose
counts, delta or position bits are out of range is malformed; a report on a DOWN port is unannounced; an index at or
above the announced count is an index discard. Only the counter changes. R124, R202: a byte with the framing bit set ends
the open message, if there is one, as malformed and begins another, so a report is judged as where none is open after
that; a message short of its last byte stays open, and is judged at that byte. A kind byte that names no report kind is
counted at once and opens nothing (log 26), and bytes outside a message are let go. -/
def Obligations.DiscardedReportsAreOnlyCounted : Prop :=
  (∀ (s : State) (p : Fin 2) (dt : Nat), s.phase ≠ .held → (s.port p).heard (s.mclk + dt) → (s.port p).incoming = [] →
    let s0 : State := { s with mclk := s.mclk + dt }
    let x := s.port p
    let malformed (u : State) : State := u.setPort p { x with
      counters := { x.counters with malformed := satInc x.counters.malformed } }
    let unannounced : State := s0.setPort p { x with
      counters := { x.counters with unannounced := satInc x.counters.unannounced } }
    let discarded : State := s0.setPort p { x with
      counters := { x.counters with indexDiscards := satInc x.counters.indexDiscards } }
    (∀ a b c d ck : Byte,
      ((1 : Byte) + a + b + c + d + ck ≠ 0 ∨ 16 < a.toNat ∨ 16 < b.toNat ∨ 16 < c.toNat ∨ 16 < d.toNat →
        exec (.announce p a b c d ck dt) s = .next (malformed s0)) ∧
      ((2 : Byte) + a + b + ck ≠ 0 → exec (.buttons p a b ck dt) s = .next (malformed s0)) ∧
      ((3 : Byte) + a + b + c + ck ≠ 0 ∨ (∃ k, 2 ≤ k ∧ k < 7 ∧ c.getLsbD k = true) →
        exec (.faderReport p a b c ck dt) s = .next (malformed s0)) ∧
      ((4 : Byte) + a + b + ck ≠ 0 ∨ b.toInt < -64 ∨ 63 < b.toInt →
        exec (.encoderReport p a b ck dt) s = .next (malformed s0)) ∧
      ((5 : Byte) + ck ≠ 0 → exec (.idleReport p ck dt) s = .next (malformed s0)) ∧
      (x.up = false → (2 : Byte) + a + b + ck = 0 → exec (.buttons p a b ck dt) s = .next unannounced) ∧
      (x.up = false → (3 : Byte) + a + b + c + ck = 0 → (∀ k, 2 ≤ k → k < 7 → c.getLsbD k = false) →
        exec (.faderReport p a b c ck dt) s = .next unannounced) ∧
      (x.up = false → (4 : Byte) + a + b + ck = 0 → -64 ≤ b.toInt → b.toInt ≤ 63 →
        exec (.encoderReport p a b ck dt) s = .next unannounced) ∧
      (x.up = false → (5 : Byte) + ck = 0 → exec (.idleReport p ck dt) s = .next unannounced) ∧
      (x.up = true → (2 : Byte) + a + b + ck = 0 → 16 ≤ a.toNat ∨ x.announced.groups ≤ a.toNat →
        exec (.buttons p a b ck dt) s = .next discarded) ∧
      (x.up = true → (3 : Byte) + a + b + c + ck = 0 → (∀ k, 2 ≤ k → k < 7 → c.getLsbD k = false) →
        16 ≤ a.toNat ∨ x.announced.faders ≤ a.toNat → exec (.faderReport p a b c ck dt) s = .next discarded) ∧
      (x.up = true → (4 : Byte) + a + b + ck = 0 → -64 ≤ b.toInt → b.toInt ≤ 63 →
        16 ≤ a.toNat ∨ x.announced.encoders ≤ a.toNat → exec (.encoderReport p a b ck dt) s = .next discarded))) ∧
  (∀ (s : State) (p : Fin 2) (dt : Nat) (a b c d ck : Byte), s.phase ≠ .held → (s.port p).heard (s.mclk + dt) →
    (s.port p).incoming ≠ [] →
    let x := s.port p
    let ended : State := s.setPort p { x with
      incoming := [], counters := { x.counters with malformed := satInc x.counters.malformed } }
    exec (.announce p a b c d ck dt) s = exec (.announce p a b c d ck dt) ended ∧
    exec (.buttons p a b ck dt) s = exec (.buttons p a b ck dt) ended ∧
    exec (.faderReport p a b c ck dt) s = exec (.faderReport p a b c ck dt) ended ∧
    exec (.encoderReport p a b ck dt) s = exec (.encoderReport p a b ck dt) ended ∧
    exec (.idleReport p ck dt) s = exec (.idleReport p ck dt) ended) ∧
  (∀ (s : State) (p : Fin 2) (k : Byte) (rest : List Byte) (n : Nat), s.phase ≠ .held → (s.port p).heard s.mclk →
    let x := s.port p
    let named : Option Nat := match k.toNat with
      | 1 => some 6 | 2 => some 4 | 3 => some 5 | 4 => some 4 | 5 => some 2 | _ => none
    let row (bytes : List SurfaceByte) : Host.Outcome State Fault Refusal := exec (.malformedSurfaceMessage p bytes) s
    let body (l : List Byte) : List SurfaceByte := l.map (fun b => ⟨false, b⟩)
    let counters : PortCounters := { x.counters with malformed := satInc x.counters.malformed }
    (x.incoming = [] → named = none →
      row (⟨true, k⟩ :: body rest) = .next (s.setPort p { x with counters := counters })) ∧
    (x.incoming = [] → named = some n → rest.length + 1 < n →
      row (⟨true, k⟩ :: body rest) = .next (s.setPort p { x with incoming := k :: rest }) ∧
      (∀ j : Byte, 1 ≤ j.toNat → j.toNat ≤ 5 → row (⟨true, k⟩ :: body rest ++ [⟨true, j⟩]) =
        .next (s.setPort p { x with incoming := [j], counters := counters }))) ∧
    (∀ more : List Byte, x.incoming = k :: rest → named = some n → rest.length + more.length + 1 = n → more ≠ [] →
      (k :: rest ++ more).foldl (· + ·) 0 ≠ 0 →
      row (body more) = .next (s.setPort p { x with incoming := [], counters := counters })))

/-- R129, R130: a command whose last byte has left is counted and the next is drawn: WELCOME first, then the first
dirty item in round-robin order, which becomes clean and sends its value of that moment; nothing is drawn while the
port is DOWN, a command is in flight or no item is dirty. R124, R202: the bytes of a command: its kind, the only byte with
the framing bit set, its fields, and the checksum that makes their sum 0. R136: no MOTOR command is drawn for a fader
that is reported touched. -/
def Obligations.CommandsAreDrawnInOrder : Prop :=
  ((∀ (s : State) (p : Fin 2) (bytes : List SurfaceByte), s.phase ≠ .held → (s.port p).inFlight = some bytes →
    let x := s.port p
    exec (.surfaceCommandSent p) s = .next (s.setPort p ({ x with
      inFlight := none, counters := { x.counters with sent := x.counters.sent + 1 } } : Port).draw)) ∧
  (∀ (s : State) (p : Fin 2), (s.port p).inFlight = none → exec (.surfaceCommandSent p) s = .next s) ∧
  (∀ x : Port,
    (x.up = false ∨ x.inFlight ≠ none → x.draw = x) ∧
    (x.up = true → x.inFlight = none → x.welcome = true →
      x.draw = { x with welcome := false, inFlight := some [⟨true, 0x85⟩, ⟨false, 0x7B⟩] }) ∧
    (x.up = true → x.inFlight = none → x.welcome = false → (∀ k : Fin 48, x.dirty[k] = .clean) → x.draw = x) ∧
    (∀ k j : Fin 48, k = x.roundRobin + j → x.up = true → x.inFlight = none → x.welcome = false →
      x.dirty[k] ≠ .clean → (∀ m : Fin 48, m < j → x.dirty[x.roundRobin + m] = .clean) →
      x.draw = { x with
        dirty := x.dirty.set k .clean, roundRobin := k + 1, inFlight := some (x.command k).bytes }) ∧
    (∀ i : Fin 16, x.command (lampItem i) = .lampRow i.val x.mirrors.lamps[i] ∧
      x.command (ladderItem i) = .ladder i.val x.ladders[i] ∧
      (∀ t, x.dirty[motorItem i] = .target → x.motors[i].target = some t → x.command (motorItem i) = .motor i.val t) ∧
      (x.dirty[motorItem i] = .release → x.command (motorItem i) = .motorRelease i.val)))) ∧
  (∀ (c : SurfaceCommand) (i : Fin 16) (t : BitVec 10) (states : Byte) (v : BitVec 4),
    let index : Byte := BitVec.ofNat 8 i.val
    (∃ (k : Byte) (body : List Byte), c.bytes = ⟨true, k⟩ :: body.map (fun b => ⟨false, b⟩) ∧
      (k :: body).foldl (· + ·) 0 = 0) ∧
    ((SurfaceCommand.motor i.val t).bytes.map (·.value)).dropLast =
      [0x81, index, t.extractLsb' 0 8, (t.extractLsb' 8 2).setWidth 8] ∧
    ((SurfaceCommand.motorRelease i.val).bytes.map (·.value)).dropLast = [0x82, index] ∧
    ((SurfaceCommand.lampRow i.val states).bytes.map (·.value)).dropLast = [0x83, index, states] ∧
    ((SurfaceCommand.ladder i.val v).bytes.map (·.value)).dropLast = [0x84, index, v.setWidth 8]) ∧
  (∀ (x : Port) (i : Fin 16) (k : Fin 48) (t : BitVec 10), x.Interlocked →
    x.command k = .motor i.val t → x.faders[i].touched = false)

/-- R133, R135, R140, R141: what the watcher of each surface word leaves: a group is re-evaluated, a window state is
set again without an event, a lamp row below the count of an UP port is marked, and a binding whose enable is cleared
takes its ladder to level 0. -/
def Obligations.SurfaceWordsTakeEffect : Prop :=
  ∀ (s : State) (p : Fin 2) (i : Fin 16) (w : Word),
    let x := s.port p
    let ref : Byte := w.extractLsb' 0 8
    let sel : Byte := w.extractLsb' 8 8
    let conforms : Bool := decide (∀ b : Fin 8, sel.getLsbD b = true → x.buttons[i].getLsbD b = ref.getLsbD b)
    let y : Port := { x with
      mirrors := { x.mirrors with groups := x.mirrors.groups.set i ⟨ref, sel⟩ }, diverged := x.diverged.set i (!conforms) }
    let low : BitVec 10 := w.extractLsb' 0 10
    let high : BitVec 10 := w.extractLsb' 16 10
    let judged : WindowState := if high < low then .disabled
      else if low ≤ x.faders[i].position ∧ x.faders[i].position ≤ high then .inside else .outside
    let v : Port := { x with
      mirrors := { x.mirrors with windows := x.mirrors.windows.set i ⟨low, high⟩ },
      faders := x.faders.set i { x.faders[i] with window := judged } }
    let lamp : Port := { x with mirrors := { x.mirrors with lamps := x.mirrors.lamps.set i (w.extractLsb' 0 8) } }
    let marked : Port := { lamp with dirty := lamp.dirty.set (lampItem i) .dirty }
    let b := Binding.ofWord w
    let bound : Port := { x with mirrors := { x.mirrors with bindings := x.mirrors.bindings.set i b } }
    let dark : Port := { bound with ladders := bound.ladders.set i 0 }
    let darkMarked : Port := { dark with dirty := dark.dirty.set (ladderItem i) .dirty }
    ((!conforms) = x.diverged[i] → s.groupWritten p i w = s.setPort p y) ∧
    (conforms = true → x.diverged[i] = true → s.groupWritten p i w = (s.setPort p y).requestImage p []) ∧
    (conforms = false → x.diverged[i] = false → s.groupWritten p i w = (s.setPort p y).requestImage p
      [s.ofPort .buttonGroup p (fields [(0, i.val), (8, x.buttons[i].toNat)]) (fields [(0, ref.toNat), (8, sel.toNat)])
        false]) ∧
    s.windowWritten p i w = (if judged = x.faders[i].window then s.setPort p v else (s.setPort p v).requestImage p []) ∧
    (x.up = true → i.val < x.announced.groups → s.lampWritten p i w = s.setPort p marked.draw) ∧
    (x.up = false ∨ x.announced.groups ≤ i.val → s.lampWritten p i w = s.setPort p lamp.draw) ∧
    (¬ (x.mirrors.bindings[i].enable = true ∧ b.enable = false) → s.bindingWritten p i w = s.setPort p bound) ∧
    (x.mirrors.bindings[i].enable = true → b.enable = false →
      let t : State := s.setPort p (if x.up = true ∧ i.val < x.announced.ladders then darkMarked else dark).draw
      s.bindingWritten p i w = if x.ladders[i] = 0 then t else t.requestImage p [])

/-! ## Meters -/

/-- R152, R153: what the threshold watch of a slot makes of a closed peak in each mode, and the event it raises: one
METER_OVER, one METER_SILENT or none. R154, R197: that event's source, its stamp with the count of the tick, and its detail
words. R148: a closing runs the watch for the slots below the capacity, in slot order, and holds its events for the table
write; it is not run for a window that took no good frame. -/
def Obligations.ThresholdWatchFollowsItsMode : Prop :=
  (∀ (x : SlotWatch) (peak : BitVec 23),
    (x.mode = .over → x.threshold ≤ peak → x.flag = false → x.judge peak = ({ x with flag := true }, .over)) ∧
    (x.mode = .over → x.threshold ≤ peak → x.flag = true → x.judge peak = (x, .nothing)) ∧
    (x.mode = .over → peak < x.threshold → x.judge peak = ({ x with flag := false }, .nothing)) ∧
    (x.mode = .silent → peak < x.threshold →
      let n : Byte := if x.silence = 255 then 255 else x.silence + 1
      (x.run ≤ n → x.flag = false → x.judge peak = ({ x with silence := n, flag := true }, .silent)) ∧
      (n < x.run ∨ x.flag = true → x.judge peak = ({ x with silence := n }, .nothing))) ∧
    (x.mode = .silent → x.threshold ≤ peak → x.judge peak = ({ x with silence := 0, flag := false }, .nothing)) ∧
    (x.mode = .off → x.judge peak = (x, .nothing))) ∧
  (∀ (l : Fin 8) (d : Fin 4) (count closing : Word) (i : Fin 64) (peak : BitVec 23) (x : SlotWatch),
    meterEvent l d count closing i peak x .nothing = [] ∧
    meterEvent l d count closing i peak x .over = [
      { kind := .meterOver, source := l.val * 64 + i.val, stampDomain := some d, stampCount := count,
        d0 := fields [(0, l.val), (3, i.val), (9, closing.toNat)],
        d1 := fields [(0, peak.toNat), (23, x.threshold.toNat / 16384)], flagA := false, flagB := false }] ∧
    meterEvent l d count closing i peak x .silent = [
      { kind := .meterSilent, source := l.val * 64 + i.val, stampDomain := some d, stampCount := count,
        d0 := fields [(0, l.val), (3, i.val), (9, closing.toNat)],
        d1 := fields [(0, x.threshold.toNat), (24, x.silence.toNat)], flagA := false, flagB := false }]) ∧
  (∀ (s : State) (d : Fin 4) (l : Fin 8),
    let t := s.closeWindow d l
    (∀ i : Fin 64, (s.window l).good = 0 ∨ s.capacity l ≤ i.val → t.watch l i = s.watch l i) ∧
    (∀ i : Fin 64, (s.window l).good ≠ 0 → i.val < s.capacity l →
      t.watch l i = ((s.watch l i).judge (s.peak l i)).1) ∧
    ((s.window l).good = 0 → (t.window l).events = (s.window l).events) ∧
    ((s.window l).good ≠ 0 → (t.window l).events = (s.window l).events ++ (List.finRange 64).flatMap (fun i =>
      if i.val < s.capacity l then
        let j := (s.watch l i).judge (s.peak l i)
        meterEvent l d (s.domain d).count ((s.window l).closing + 1) i (s.peak l i) j.1 j.2
      else [])))

/-- R146: a good frame raises each slot's peak to the larger of it and the sample's magnitude, and the count of good
frames by 1, saturating; no other lane's window changes. R148, R149, R150: the closing of a lane's window raises its
closing number, fixes its contents for the table write (the header, and each slot's record with its closed peak, its level
and its watch after the closing, R200), clears the peaks and the count (R147), and hands the levels over; the level of a
peak is its step of about 6 dB. R141, R148 step 4, R150: a level handed over is taken by every enabled binding of an UP
port whose lane it is, below the announced count: the ladder has the level and is dirty, and the image is written where a
level changed; port 0 comes before port 1, which is the model's choice (log 44). R151, R201: a threshold word gives the
mode, the threshold and the run of its slot's mirror, with the flag clear and the silence count 0 (run 1 under OFF
whatever the field holds is the model's choice, log 47). -/
def Obligations.ClosingsFixTheWindow : Prop :=
  (∀ (s : State) (l : Fin 8) (slots : List Word),
    ((s.meterFrame l slots).window l).good = satInc (s.window l).good ∧
    ((s.meterFrame l slots).window l).closing = (s.window l).closing ∧
    (∀ k, k ≠ l → (s.meterFrame l slots).window k = s.window k) ∧
    (∀ i : Fin 64, ((s.meterFrame l slots).window l).peaks[i] = match slots[i.val]? with
      | none => (s.window l).peaks[i]
      | some w =>
        let v : BitVec 24 := w.extractLsb' 8 24
        let m : BitVec 23 := if v = 0x800000#24 then 0x7FFFFF#23 else BitVec.ofNat 23 v.toInt.natAbs
        if (s.window l).peaks[i] < m then m else (s.window l).peaks[i])) ∧
  ((∀ (s : State) (d : Fin 4) (l : Fin 8),
    let t := s.closeWindow d l
    (t.window l).closing = (s.window l).closing + 1 ∧ (t.window l).good = 0 ∧
      (t.window l).peaks = Vector.replicate 64 0 ∧
      (∃ u : State, t = ((u.requestMeter l).handLevels l (fun i => ladderLevel (s.peak l i))).clearWindow l ∧
        u.si = s.si) ∧
      ∃ c, (t.window l).table = some c ∧ c.slots = (List.finRange 64).flatMap (fun i =>
        [fields [(0, (s.peak l i).toNat), (24, (ladderLevel (s.peak l i)).toNat)],
          fields [(0, (t.watch l i).mode.code), (8, flagBit ((t.watch l i).flag = true)),
            (16, (t.watch l i).silence.toNat)]]) ∧ c.header = [(s.window l).closing + 1,
        fields [(0, d.val), (8, s.capacity l), (16, (s.lane l).state.code)], (s.domain d).count,
        fields [(0, (s.window l).good.toNat)]]) ∧
  (∀ p : BitVec 23, (p.toNat < 256 → ladderLevel p = 0) ∧
    ∀ k, 1 ≤ k → k ≤ 15 → 2 ^ (k + 7) ≤ p.toNat → p.toNat < 2 ^ (k + 8) → ladderLevel p = BitVec.ofNat 4 k)) ∧
  (∀ (s : State) (l : Fin 8) (level : Fin 64 → BitVec 4) (p : Fin 2),
    let x := s.port p
    let taken (i : Fin 16) : Prop :=
      x.mirrors.bindings[i].enable = true ∧ x.mirrors.bindings[i].lane = l ∧ i.val < x.announced.ladders
    s.handLevels l level = (s.handLevelsTo l level 0).handLevelsTo l level 1 ∧
    (x.up = false → s.handLevelsTo l level p = s) ∧
    (x.up = true → ∃ y : Port, y = { x with ladders := y.ladders, dirty := y.dirty } ∧
      (∀ i, taken i → y.ladders[i] = level x.mirrors.bindings[i].slot ∧ y.dirty[ladderItem i] = .dirty) ∧
      (∀ i, ¬ taken i → y.ladders[i] = x.ladders[i] ∧ y.dirty[ladderItem i] = x.dirty[ladderItem i]) ∧
      (∀ i, y.dirty[lampItem i] = x.dirty[lampItem i] ∧ y.dirty[motorItem i] = x.dirty[motorItem i]) ∧
      (y.ladders = x.ladders → s.handLevelsTo l level p = s.setPort p y.draw) ∧
      (y.ladders ≠ x.ladders → s.handLevelsTo l level p = (s.setPort p y.draw).requestImage p []))) ∧
  (∀ (s : State) (l : Fin 8), s.clearWindow l = s.setWindow l { s.window l with
    peaks := Vector.replicate 64 0, good := 0 }) ∧
  (∀ w : Word,
    let field : Byte := w.extractLsb' 23 8
    let y := SlotWatch.ofWord w
    y.threshold = w.extractLsb' 0 23 ∧ y.flag = false ∧ y.silence = 0 ∧
    (w.getLsbD 31 = true → y.mode = .silent ∧ y.run = if field = 0 then 1 else field) ∧
    (w.getLsbD 31 = false → field = 1 → y.mode = .over ∧ y.run = 1) ∧
    (w.getLsbD 31 = false → field ≠ 1 → y.mode = .off ∧ y.run = 1) ∧
    SlotWatch.ofWord 0x81800800#32 = ⟨.silent, 2048, 3, false, 0⟩ ∧
    SlotWatch.ofWord 0x00FA1200#32 = ⟨.over, 8000000, 1, false, 0⟩)
end

