-- ==== Sys2Proof/Laws/State.lean ====
section
/-! SUPPORT. What each writer of the indexed state leaves, field by field, and what is read back. -/

namespace Sys2Proof.Machine

/-! ## elapse -/

@[simp] theorem State.elapse_hrstn (s : State) (n : Nat) : (s.elapse n).hrstn = s.hrstn := rfl
@[simp] theorem State.elapse_phase (s : State) (n : Nat) : (s.elapse n).phase = s.phase := rfl
@[simp] theorem State.elapse_mem (s : State) (n : Nat) : (s.elapse n).mem = s.mem := rfl
@[simp] theorem State.elapse_mc (s : State) (n : Nat) : (s.elapse n).mc = s.mc := rfl
@[simp] theorem State.elapse_pp (s : State) (n : Nat) : (s.elapse n).pp = s.pp := rfl
@[simp] theorem State.elapse_rw (s : State) (n : Nat) : (s.elapse n).rw = s.rw := rfl
@[simp] theorem State.elapse_se (s : State) (n : Nat) : (s.elapse n).se = s.se := rfl
@[simp] theorem State.elapse_cu (s : State) (n : Nat) : (s.elapse n).cu = s.cu := rfl
@[simp] theorem State.elapse_cb (s : State) (n : Nat) : (s.elapse n).cb = s.cb := rfl
@[simp] theorem State.elapse_li (s : State) (n : Nat) : (s.elapse n).li = s.li := rfl
@[simp] theorem State.elapse_si (s : State) (n : Nat) : (s.elapse n).si = s.si := rfl
@[simp] theorem State.elapse_mu (s : State) (n : Nat) : (s.elapse n).mu = s.mu := rfl
@[simp] theorem State.elapse_ru (s : State) (n : Nat) : (s.elapse n).ru = s.ru := rfl
@[simp] theorem State.elapse_pending (s : State) (n : Nat) : (s.elapse n).pending = s.pending := rfl
@[simp] theorem State.elapse_stream (s : State) (n : Nat) (i' : Fin 32) : (s.elapse n).stream i' = s.stream i' := rfl
@[simp] theorem State.elapse_entry (s : State) (n : Nat) (i' : Fin 32) : (s.elapse n).entry i' = s.entry i' := rfl
@[simp] theorem State.elapse_domain (s : State) (n : Nat) (d' : Fin 4) : (s.elapse n).domain d' = s.domain d' := rfl
@[simp] theorem State.elapse_input (s : State) (n : Nat) (w' : Fin 2) : (s.elapse n).input w' = s.input w' := rfl
@[simp] theorem State.elapse_output (s : State) (n : Nat) (o' : Fin 4) : (s.elapse n).output o' = s.output o' := rfl
@[simp] theorem State.elapse_osc (s : State) (n : Nat) (o' : Osc) : (s.elapse n).osc o' = s.osc o' := rfl
@[simp] theorem State.elapse_lane (s : State) (n : Nat) (l' : Fin 8) : (s.elapse n).lane l' = s.lane l' := rfl
@[simp] theorem State.elapse_port (s : State) (n : Nat) (p' : Fin 2) : (s.elapse n).port p' = s.port p' := rfl
@[simp] theorem State.elapse_window (s : State) (n : Nat) (l' : Fin 8) : (s.elapse n).window l' = s.window l' := rfl
@[simp] theorem State.elapse_base (s : State) (n : Nat) : (s.elapse n).base = s.base := rfl

/-! ## setStream -/

@[simp] theorem State.setStream_mclk (s : State) (i : Fin 32) (x : Stream) : (s.setStream i x).mclk = s.mclk := rfl
@[simp] theorem State.setStream_hrstn (s : State) (i : Fin 32) (x : Stream) : (s.setStream i x).hrstn = s.hrstn := rfl
@[simp] theorem State.setStream_phase (s : State) (i : Fin 32) (x : Stream) : (s.setStream i x).phase = s.phase := rfl
@[simp] theorem State.setStream_mem (s : State) (i : Fin 32) (x : Stream) : (s.setStream i x).mem = s.mem := rfl
@[simp] theorem State.setStream_mc (s : State) (i : Fin 32) (x : Stream) : (s.setStream i x).mc = s.mc := rfl
@[simp] theorem State.setStream_pp (s : State) (i : Fin 32) (x : Stream) : (s.setStream i x).pp = s.pp := rfl
@[simp] theorem State.setStream_rw (s : State) (i : Fin 32) (x : Stream) : (s.setStream i x).rw = s.rw := rfl
@[simp] theorem State.setStream_cu (s : State) (i : Fin 32) (x : Stream) : (s.setStream i x).cu = s.cu := rfl
@[simp] theorem State.setStream_cb (s : State) (i : Fin 32) (x : Stream) : (s.setStream i x).cb = s.cb := rfl
@[simp] theorem State.setStream_li (s : State) (i : Fin 32) (x : Stream) : (s.setStream i x).li = s.li := rfl
@[simp] theorem State.setStream_si (s : State) (i : Fin 32) (x : Stream) : (s.setStream i x).si = s.si := rfl
@[simp] theorem State.setStream_mu (s : State) (i : Fin 32) (x : Stream) : (s.setStream i x).mu = s.mu := rfl
@[simp] theorem State.setStream_ru (s : State) (i : Fin 32) (x : Stream) : (s.setStream i x).ru = s.ru := rfl
@[simp] theorem State.setStream_pending (s : State) (i : Fin 32) (x : Stream) : (s.setStream i x).pending = s.pending := rfl
@[simp] theorem State.setStream_entry (s : State) (i : Fin 32) (x : Stream) (i' : Fin 32) : (s.setStream i x).entry i' = s.entry i' := rfl
@[simp] theorem State.setStream_domain (s : State) (i : Fin 32) (x : Stream) (d' : Fin 4) : (s.setStream i x).domain d' = s.domain d' := rfl
@[simp] theorem State.setStream_input (s : State) (i : Fin 32) (x : Stream) (w' : Fin 2) : (s.setStream i x).input w' = s.input w' := rfl
@[simp] theorem State.setStream_output (s : State) (i : Fin 32) (x : Stream) (o' : Fin 4) : (s.setStream i x).output o' = s.output o' := rfl
@[simp] theorem State.setStream_osc (s : State) (i : Fin 32) (x : Stream) (o' : Osc) : (s.setStream i x).osc o' = s.osc o' := rfl
@[simp] theorem State.setStream_lane (s : State) (i : Fin 32) (x : Stream) (l' : Fin 8) : (s.setStream i x).lane l' = s.lane l' := rfl
@[simp] theorem State.setStream_port (s : State) (i : Fin 32) (x : Stream) (p' : Fin 2) : (s.setStream i x).port p' = s.port p' := rfl
@[simp] theorem State.setStream_window (s : State) (i : Fin 32) (x : Stream) (l' : Fin 8) : (s.setStream i x).window l' = s.window l' := rfl
@[simp] theorem State.setStream_base (s : State) (i : Fin 32) (x : Stream) : (s.setStream i x).base = s.base := rfl

/-! ## setSlotMap -/

@[simp] theorem State.setSlotMap_mclk (s : State) (k : Direction) (l : Fin 8) (m : SlotMap) : (s.setSlotMap k l m).mclk = s.mclk := by cases k <;> rfl
@[simp] theorem State.setSlotMap_hrstn (s : State) (k : Direction) (l : Fin 8) (m : SlotMap) : (s.setSlotMap k l m).hrstn = s.hrstn := by cases k <;> rfl
@[simp] theorem State.setSlotMap_phase (s : State) (k : Direction) (l : Fin 8) (m : SlotMap) : (s.setSlotMap k l m).phase = s.phase := by cases k <;> rfl
@[simp] theorem State.setSlotMap_mem (s : State) (k : Direction) (l : Fin 8) (m : SlotMap) : (s.setSlotMap k l m).mem = s.mem := by cases k <;> rfl
@[simp] theorem State.setSlotMap_mc (s : State) (k : Direction) (l : Fin 8) (m : SlotMap) : (s.setSlotMap k l m).mc = s.mc := by cases k <;> rfl
@[simp] theorem State.setSlotMap_pp (s : State) (k : Direction) (l : Fin 8) (m : SlotMap) : (s.setSlotMap k l m).pp = s.pp := by cases k <;> rfl
@[simp] theorem State.setSlotMap_rw (s : State) (k : Direction) (l : Fin 8) (m : SlotMap) : (s.setSlotMap k l m).rw = s.rw := by cases k <;> rfl
@[simp] theorem State.setSlotMap_cu (s : State) (k : Direction) (l : Fin 8) (m : SlotMap) : (s.setSlotMap k l m).cu = s.cu := by cases k <;> rfl
@[simp] theorem State.setSlotMap_cb (s : State) (k : Direction) (l : Fin 8) (m : SlotMap) : (s.setSlotMap k l m).cb = s.cb := by cases k <;> rfl
@[simp] theorem State.setSlotMap_li (s : State) (k : Direction) (l : Fin 8) (m : SlotMap) : (s.setSlotMap k l m).li = s.li := by cases k <;> rfl
@[simp] theorem State.setSlotMap_si (s : State) (k : Direction) (l : Fin 8) (m : SlotMap) : (s.setSlotMap k l m).si = s.si := by cases k <;> rfl
@[simp] theorem State.setSlotMap_mu (s : State) (k : Direction) (l : Fin 8) (m : SlotMap) : (s.setSlotMap k l m).mu = s.mu := by cases k <;> rfl
@[simp] theorem State.setSlotMap_ru (s : State) (k : Direction) (l : Fin 8) (m : SlotMap) : (s.setSlotMap k l m).ru = s.ru := by cases k <;> rfl
@[simp] theorem State.setSlotMap_pending (s : State) (k : Direction) (l : Fin 8) (m : SlotMap) : (s.setSlotMap k l m).pending = s.pending := by cases k <;> rfl
@[simp] theorem State.setSlotMap_stream (s : State) (k : Direction) (l : Fin 8) (m : SlotMap) (i' : Fin 32) : (s.setSlotMap k l m).stream i' = s.stream i' := by cases k <;> rfl
@[simp] theorem State.setSlotMap_entry (s : State) (k : Direction) (l : Fin 8) (m : SlotMap) (i' : Fin 32) : (s.setSlotMap k l m).entry i' = s.entry i' := by cases k <;> rfl
@[simp] theorem State.setSlotMap_domain (s : State) (k : Direction) (l : Fin 8) (m : SlotMap) (d' : Fin 4) : (s.setSlotMap k l m).domain d' = s.domain d' := by cases k <;> rfl
@[simp] theorem State.setSlotMap_input (s : State) (k : Direction) (l : Fin 8) (m : SlotMap) (w' : Fin 2) : (s.setSlotMap k l m).input w' = s.input w' := by cases k <;> rfl
@[simp] theorem State.setSlotMap_output (s : State) (k : Direction) (l : Fin 8) (m : SlotMap) (o' : Fin 4) : (s.setSlotMap k l m).output o' = s.output o' := by cases k <;> rfl
@[simp] theorem State.setSlotMap_osc (s : State) (k : Direction) (l : Fin 8) (m : SlotMap) (o' : Osc) : (s.setSlotMap k l m).osc o' = s.osc o' := by cases k <;> rfl
@[simp] theorem State.setSlotMap_lane (s : State) (k : Direction) (l : Fin 8) (m : SlotMap) (l' : Fin 8) : (s.setSlotMap k l m).lane l' = s.lane l' := by cases k <;> rfl
@[simp] theorem State.setSlotMap_port (s : State) (k : Direction) (l : Fin 8) (m : SlotMap) (p' : Fin 2) : (s.setSlotMap k l m).port p' = s.port p' := by cases k <;> rfl
@[simp] theorem State.setSlotMap_window (s : State) (k : Direction) (l : Fin 8) (m : SlotMap) (l' : Fin 8) : (s.setSlotMap k l m).window l' = s.window l' := by cases k <;> rfl
@[simp] theorem State.setSlotMap_base (s : State) (k : Direction) (l : Fin 8) (m : SlotMap) : (s.setSlotMap k l m).base = s.base := by cases k <;> rfl

/-! ## setEntry -/

@[simp] theorem State.setEntry_mclk (s : State) (i : Fin 32) (e : Option RingEntry) : (s.setEntry i e).mclk = s.mclk := rfl
@[simp] theorem State.setEntry_hrstn (s : State) (i : Fin 32) (e : Option RingEntry) : (s.setEntry i e).hrstn = s.hrstn := rfl
@[simp] theorem State.setEntry_phase (s : State) (i : Fin 32) (e : Option RingEntry) : (s.setEntry i e).phase = s.phase := rfl
@[simp] theorem State.setEntry_mem (s : State) (i : Fin 32) (e : Option RingEntry) : (s.setEntry i e).mem = s.mem := rfl
@[simp] theorem State.setEntry_mc (s : State) (i : Fin 32) (e : Option RingEntry) : (s.setEntry i e).mc = s.mc := rfl
@[simp] theorem State.setEntry_pp (s : State) (i : Fin 32) (e : Option RingEntry) : (s.setEntry i e).pp = s.pp := rfl
@[simp] theorem State.setEntry_se (s : State) (i : Fin 32) (e : Option RingEntry) : (s.setEntry i e).se = s.se := rfl
@[simp] theorem State.setEntry_cu (s : State) (i : Fin 32) (e : Option RingEntry) : (s.setEntry i e).cu = s.cu := rfl
@[simp] theorem State.setEntry_cb (s : State) (i : Fin 32) (e : Option RingEntry) : (s.setEntry i e).cb = s.cb := rfl
@[simp] theorem State.setEntry_li (s : State) (i : Fin 32) (e : Option RingEntry) : (s.setEntry i e).li = s.li := rfl
@[simp] theorem State.setEntry_si (s : State) (i : Fin 32) (e : Option RingEntry) : (s.setEntry i e).si = s.si := rfl
@[simp] theorem State.setEntry_mu (s : State) (i : Fin 32) (e : Option RingEntry) : (s.setEntry i e).mu = s.mu := rfl
@[simp] theorem State.setEntry_ru (s : State) (i : Fin 32) (e : Option RingEntry) : (s.setEntry i e).ru = s.ru := rfl
@[simp] theorem State.setEntry_pending (s : State) (i : Fin 32) (e : Option RingEntry) : (s.setEntry i e).pending = s.pending := rfl
@[simp] theorem State.setEntry_stream (s : State) (i : Fin 32) (e : Option RingEntry) (i' : Fin 32) : (s.setEntry i e).stream i' = s.stream i' := rfl
@[simp] theorem State.setEntry_domain (s : State) (i : Fin 32) (e : Option RingEntry) (d' : Fin 4) : (s.setEntry i e).domain d' = s.domain d' := rfl
@[simp] theorem State.setEntry_input (s : State) (i : Fin 32) (e : Option RingEntry) (w' : Fin 2) : (s.setEntry i e).input w' = s.input w' := rfl
@[simp] theorem State.setEntry_output (s : State) (i : Fin 32) (e : Option RingEntry) (o' : Fin 4) : (s.setEntry i e).output o' = s.output o' := rfl
@[simp] theorem State.setEntry_osc (s : State) (i : Fin 32) (e : Option RingEntry) (o' : Osc) : (s.setEntry i e).osc o' = s.osc o' := rfl
@[simp] theorem State.setEntry_lane (s : State) (i : Fin 32) (e : Option RingEntry) (l' : Fin 8) : (s.setEntry i e).lane l' = s.lane l' := rfl
@[simp] theorem State.setEntry_port (s : State) (i : Fin 32) (e : Option RingEntry) (p' : Fin 2) : (s.setEntry i e).port p' = s.port p' := rfl
@[simp] theorem State.setEntry_window (s : State) (i : Fin 32) (e : Option RingEntry) (l' : Fin 8) : (s.setEntry i e).window l' = s.window l' := rfl
@[simp] theorem State.setEntry_base (s : State) (i : Fin 32) (e : Option RingEntry) : (s.setEntry i e).base = s.base := rfl

/-! ## setDomain -/

@[simp] theorem State.setDomain_mclk (s : State) (d : Fin 4) (x : Domain) : (s.setDomain d x).mclk = s.mclk := rfl
@[simp] theorem State.setDomain_hrstn (s : State) (d : Fin 4) (x : Domain) : (s.setDomain d x).hrstn = s.hrstn := rfl
@[simp] theorem State.setDomain_phase (s : State) (d : Fin 4) (x : Domain) : (s.setDomain d x).phase = s.phase := rfl
@[simp] theorem State.setDomain_mem (s : State) (d : Fin 4) (x : Domain) : (s.setDomain d x).mem = s.mem := rfl
@[simp] theorem State.setDomain_mc (s : State) (d : Fin 4) (x : Domain) : (s.setDomain d x).mc = s.mc := rfl
@[simp] theorem State.setDomain_pp (s : State) (d : Fin 4) (x : Domain) : (s.setDomain d x).pp = s.pp := rfl
@[simp] theorem State.setDomain_rw (s : State) (d : Fin 4) (x : Domain) : (s.setDomain d x).rw = s.rw := rfl
@[simp] theorem State.setDomain_se (s : State) (d : Fin 4) (x : Domain) : (s.setDomain d x).se = s.se := rfl
@[simp] theorem State.setDomain_cu (s : State) (d : Fin 4) (x : Domain) : (s.setDomain d x).cu = s.cu := rfl
@[simp] theorem State.setDomain_li (s : State) (d : Fin 4) (x : Domain) : (s.setDomain d x).li = s.li := rfl
@[simp] theorem State.setDomain_si (s : State) (d : Fin 4) (x : Domain) : (s.setDomain d x).si = s.si := rfl
@[simp] theorem State.setDomain_mu (s : State) (d : Fin 4) (x : Domain) : (s.setDomain d x).mu = s.mu := rfl
@[simp] theorem State.setDomain_ru (s : State) (d : Fin 4) (x : Domain) : (s.setDomain d x).ru = s.ru := rfl
@[simp] theorem State.setDomain_pending (s : State) (d : Fin 4) (x : Domain) : (s.setDomain d x).pending = s.pending := rfl
@[simp] theorem State.setDomain_stream (s : State) (d : Fin 4) (x : Domain) (i' : Fin 32) : (s.setDomain d x).stream i' = s.stream i' := rfl
@[simp] theorem State.setDomain_entry (s : State) (d : Fin 4) (x : Domain) (i' : Fin 32) : (s.setDomain d x).entry i' = s.entry i' := rfl
@[simp] theorem State.setDomain_input (s : State) (d : Fin 4) (x : Domain) (w' : Fin 2) : (s.setDomain d x).input w' = s.input w' := rfl
@[simp] theorem State.setDomain_output (s : State) (d : Fin 4) (x : Domain) (o' : Fin 4) : (s.setDomain d x).output o' = s.output o' := rfl
@[simp] theorem State.setDomain_osc (s : State) (d : Fin 4) (x : Domain) (o' : Osc) : (s.setDomain d x).osc o' = s.osc o' := rfl
@[simp] theorem State.setDomain_lane (s : State) (d : Fin 4) (x : Domain) (l' : Fin 8) : (s.setDomain d x).lane l' = s.lane l' := rfl
@[simp] theorem State.setDomain_port (s : State) (d : Fin 4) (x : Domain) (p' : Fin 2) : (s.setDomain d x).port p' = s.port p' := rfl
@[simp] theorem State.setDomain_window (s : State) (d : Fin 4) (x : Domain) (l' : Fin 8) : (s.setDomain d x).window l' = s.window l' := rfl
@[simp] theorem State.setDomain_base (s : State) (d : Fin 4) (x : Domain) : (s.setDomain d x).base = s.base := rfl

/-! ## setInput -/

@[simp] theorem State.setInput_mclk (s : State) (w : Fin 2) (x : WordInput) : (s.setInput w x).mclk = s.mclk := rfl
@[simp] theorem State.setInput_hrstn (s : State) (w : Fin 2) (x : WordInput) : (s.setInput w x).hrstn = s.hrstn := rfl
@[simp] theorem State.setInput_phase (s : State) (w : Fin 2) (x : WordInput) : (s.setInput w x).phase = s.phase := rfl
@[simp] theorem State.setInput_mem (s : State) (w : Fin 2) (x : WordInput) : (s.setInput w x).mem = s.mem := rfl
@[simp] theorem State.setInput_mc (s : State) (w : Fin 2) (x : WordInput) : (s.setInput w x).mc = s.mc := rfl
@[simp] theorem State.setInput_pp (s : State) (w : Fin 2) (x : WordInput) : (s.setInput w x).pp = s.pp := rfl
@[simp] theorem State.setInput_rw (s : State) (w : Fin 2) (x : WordInput) : (s.setInput w x).rw = s.rw := rfl
@[simp] theorem State.setInput_se (s : State) (w : Fin 2) (x : WordInput) : (s.setInput w x).se = s.se := rfl
@[simp] theorem State.setInput_cu (s : State) (w : Fin 2) (x : WordInput) : (s.setInput w x).cu = s.cu := rfl
@[simp] theorem State.setInput_li (s : State) (w : Fin 2) (x : WordInput) : (s.setInput w x).li = s.li := rfl
@[simp] theorem State.setInput_si (s : State) (w : Fin 2) (x : WordInput) : (s.setInput w x).si = s.si := rfl
@[simp] theorem State.setInput_mu (s : State) (w : Fin 2) (x : WordInput) : (s.setInput w x).mu = s.mu := rfl
@[simp] theorem State.setInput_ru (s : State) (w : Fin 2) (x : WordInput) : (s.setInput w x).ru = s.ru := rfl
@[simp] theorem State.setInput_pending (s : State) (w : Fin 2) (x : WordInput) : (s.setInput w x).pending = s.pending := rfl
@[simp] theorem State.setInput_stream (s : State) (w : Fin 2) (x : WordInput) (i' : Fin 32) : (s.setInput w x).stream i' = s.stream i' := rfl
@[simp] theorem State.setInput_entry (s : State) (w : Fin 2) (x : WordInput) (i' : Fin 32) : (s.setInput w x).entry i' = s.entry i' := rfl
@[simp] theorem State.setInput_domain (s : State) (w : Fin 2) (x : WordInput) (d' : Fin 4) : (s.setInput w x).domain d' = s.domain d' := rfl
@[simp] theorem State.setInput_output (s : State) (w : Fin 2) (x : WordInput) (o' : Fin 4) : (s.setInput w x).output o' = s.output o' := rfl
@[simp] theorem State.setInput_osc (s : State) (w : Fin 2) (x : WordInput) (o' : Osc) : (s.setInput w x).osc o' = s.osc o' := rfl
@[simp] theorem State.setInput_lane (s : State) (w : Fin 2) (x : WordInput) (l' : Fin 8) : (s.setInput w x).lane l' = s.lane l' := rfl
@[simp] theorem State.setInput_port (s : State) (w : Fin 2) (x : WordInput) (p' : Fin 2) : (s.setInput w x).port p' = s.port p' := rfl
@[simp] theorem State.setInput_window (s : State) (w : Fin 2) (x : WordInput) (l' : Fin 8) : (s.setInput w x).window l' = s.window l' := rfl
@[simp] theorem State.setInput_base (s : State) (w : Fin 2) (x : WordInput) : (s.setInput w x).base = s.base := rfl

/-! ## setOutput -/

@[simp] theorem State.setOutput_mclk (s : State) (o : Fin 4) (x : WordOutput) : (s.setOutput o x).mclk = s.mclk := rfl
@[simp] theorem State.setOutput_hrstn (s : State) (o : Fin 4) (x : WordOutput) : (s.setOutput o x).hrstn = s.hrstn := rfl
@[simp] theorem State.setOutput_phase (s : State) (o : Fin 4) (x : WordOutput) : (s.setOutput o x).phase = s.phase := rfl
@[simp] theorem State.setOutput_mem (s : State) (o : Fin 4) (x : WordOutput) : (s.setOutput o x).mem = s.mem := rfl
@[simp] theorem State.setOutput_mc (s : State) (o : Fin 4) (x : WordOutput) : (s.setOutput o x).mc = s.mc := rfl
@[simp] theorem State.setOutput_pp (s : State) (o : Fin 4) (x : WordOutput) : (s.setOutput o x).pp = s.pp := rfl
@[simp] theorem State.setOutput_rw (s : State) (o : Fin 4) (x : WordOutput) : (s.setOutput o x).rw = s.rw := rfl
@[simp] theorem State.setOutput_se (s : State) (o : Fin 4) (x : WordOutput) : (s.setOutput o x).se = s.se := rfl
@[simp] theorem State.setOutput_cu (s : State) (o : Fin 4) (x : WordOutput) : (s.setOutput o x).cu = s.cu := rfl
@[simp] theorem State.setOutput_li (s : State) (o : Fin 4) (x : WordOutput) : (s.setOutput o x).li = s.li := rfl
@[simp] theorem State.setOutput_si (s : State) (o : Fin 4) (x : WordOutput) : (s.setOutput o x).si = s.si := rfl
@[simp] theorem State.setOutput_mu (s : State) (o : Fin 4) (x : WordOutput) : (s.setOutput o x).mu = s.mu := rfl
@[simp] theorem State.setOutput_ru (s : State) (o : Fin 4) (x : WordOutput) : (s.setOutput o x).ru = s.ru := rfl
@[simp] theorem State.setOutput_pending (s : State) (o : Fin 4) (x : WordOutput) : (s.setOutput o x).pending = s.pending := rfl
@[simp] theorem State.setOutput_stream (s : State) (o : Fin 4) (x : WordOutput) (i' : Fin 32) : (s.setOutput o x).stream i' = s.stream i' := rfl
@[simp] theorem State.setOutput_entry (s : State) (o : Fin 4) (x : WordOutput) (i' : Fin 32) : (s.setOutput o x).entry i' = s.entry i' := rfl
@[simp] theorem State.setOutput_domain (s : State) (o : Fin 4) (x : WordOutput) (d' : Fin 4) : (s.setOutput o x).domain d' = s.domain d' := rfl
@[simp] theorem State.setOutput_input (s : State) (o : Fin 4) (x : WordOutput) (w' : Fin 2) : (s.setOutput o x).input w' = s.input w' := rfl
@[simp] theorem State.setOutput_osc (s : State) (o : Fin 4) (x : WordOutput) (o' : Osc) : (s.setOutput o x).osc o' = s.osc o' := rfl
@[simp] theorem State.setOutput_lane (s : State) (o : Fin 4) (x : WordOutput) (l' : Fin 8) : (s.setOutput o x).lane l' = s.lane l' := rfl
@[simp] theorem State.setOutput_port (s : State) (o : Fin 4) (x : WordOutput) (p' : Fin 2) : (s.setOutput o x).port p' = s.port p' := rfl
@[simp] theorem State.setOutput_window (s : State) (o : Fin 4) (x : WordOutput) (l' : Fin 8) : (s.setOutput o x).window l' = s.window l' := rfl
@[simp] theorem State.setOutput_base (s : State) (o : Fin 4) (x : WordOutput) : (s.setOutput o x).base = s.base := rfl

/-! ## setOsc -/

@[simp] theorem State.setOsc_mclk (s : State) (o : Osc) (x : OscState) : (s.setOsc o x).mclk = s.mclk := by cases o <;> rfl
@[simp] theorem State.setOsc_hrstn (s : State) (o : Osc) (x : OscState) : (s.setOsc o x).hrstn = s.hrstn := by cases o <;> rfl
@[simp] theorem State.setOsc_phase (s : State) (o : Osc) (x : OscState) : (s.setOsc o x).phase = s.phase := by cases o <;> rfl
@[simp] theorem State.setOsc_mem (s : State) (o : Osc) (x : OscState) : (s.setOsc o x).mem = s.mem := by cases o <;> rfl
@[simp] theorem State.setOsc_mc (s : State) (o : Osc) (x : OscState) : (s.setOsc o x).mc = s.mc := by cases o <;> rfl
@[simp] theorem State.setOsc_pp (s : State) (o : Osc) (x : OscState) : (s.setOsc o x).pp = s.pp := by cases o <;> rfl
@[simp] theorem State.setOsc_rw (s : State) (o : Osc) (x : OscState) : (s.setOsc o x).rw = s.rw := by cases o <;> rfl
@[simp] theorem State.setOsc_se (s : State) (o : Osc) (x : OscState) : (s.setOsc o x).se = s.se := by cases o <;> rfl
@[simp] theorem State.setOsc_cu (s : State) (o : Osc) (x : OscState) : (s.setOsc o x).cu = s.cu := by cases o <;> rfl
@[simp] theorem State.setOsc_li (s : State) (o : Osc) (x : OscState) : (s.setOsc o x).li = s.li := by cases o <;> rfl
@[simp] theorem State.setOsc_si (s : State) (o : Osc) (x : OscState) : (s.setOsc o x).si = s.si := by cases o <;> rfl
@[simp] theorem State.setOsc_mu (s : State) (o : Osc) (x : OscState) : (s.setOsc o x).mu = s.mu := by cases o <;> rfl
@[simp] theorem State.setOsc_ru (s : State) (o : Osc) (x : OscState) : (s.setOsc o x).ru = s.ru := by cases o <;> rfl
@[simp] theorem State.setOsc_pending (s : State) (o : Osc) (x : OscState) : (s.setOsc o x).pending = s.pending := by cases o <;> rfl
@[simp] theorem State.setOsc_stream (s : State) (o : Osc) (x : OscState) (i' : Fin 32) : (s.setOsc o x).stream i' = s.stream i' := by cases o <;> rfl
@[simp] theorem State.setOsc_entry (s : State) (o : Osc) (x : OscState) (i' : Fin 32) : (s.setOsc o x).entry i' = s.entry i' := by cases o <;> rfl
@[simp] theorem State.setOsc_domain (s : State) (o : Osc) (x : OscState) (d' : Fin 4) : (s.setOsc o x).domain d' = s.domain d' := by cases o <;> rfl
@[simp] theorem State.setOsc_input (s : State) (o : Osc) (x : OscState) (w' : Fin 2) : (s.setOsc o x).input w' = s.input w' := by cases o <;> rfl
@[simp] theorem State.setOsc_output (s : State) (o : Osc) (x : OscState) (o' : Fin 4) : (s.setOsc o x).output o' = s.output o' := by cases o <;> rfl
@[simp] theorem State.setOsc_lane (s : State) (o : Osc) (x : OscState) (l' : Fin 8) : (s.setOsc o x).lane l' = s.lane l' := by cases o <;> rfl
@[simp] theorem State.setOsc_port (s : State) (o : Osc) (x : OscState) (p' : Fin 2) : (s.setOsc o x).port p' = s.port p' := by cases o <;> rfl
@[simp] theorem State.setOsc_window (s : State) (o : Osc) (x : OscState) (l' : Fin 8) : (s.setOsc o x).window l' = s.window l' := by cases o <;> rfl
@[simp] theorem State.setOsc_base (s : State) (o : Osc) (x : OscState) : (s.setOsc o x).base = s.base := by cases o <;> rfl

/-! ## setLane -/

@[simp] theorem State.setLane_mclk (s : State) (l : Fin 8) (x : Lane) : (s.setLane l x).mclk = s.mclk := rfl
@[simp] theorem State.setLane_hrstn (s : State) (l : Fin 8) (x : Lane) : (s.setLane l x).hrstn = s.hrstn := rfl
@[simp] theorem State.setLane_phase (s : State) (l : Fin 8) (x : Lane) : (s.setLane l x).phase = s.phase := rfl
@[simp] theorem State.setLane_mem (s : State) (l : Fin 8) (x : Lane) : (s.setLane l x).mem = s.mem := rfl
@[simp] theorem State.setLane_mc (s : State) (l : Fin 8) (x : Lane) : (s.setLane l x).mc = s.mc := rfl
@[simp] theorem State.setLane_pp (s : State) (l : Fin 8) (x : Lane) : (s.setLane l x).pp = s.pp := rfl
@[simp] theorem State.setLane_rw (s : State) (l : Fin 8) (x : Lane) : (s.setLane l x).rw = s.rw := rfl
@[simp] theorem State.setLane_se (s : State) (l : Fin 8) (x : Lane) : (s.setLane l x).se = s.se := rfl
@[simp] theorem State.setLane_cu (s : State) (l : Fin 8) (x : Lane) : (s.setLane l x).cu = s.cu := rfl
@[simp] theorem State.setLane_cb (s : State) (l : Fin 8) (x : Lane) : (s.setLane l x).cb = s.cb := rfl
@[simp] theorem State.setLane_si (s : State) (l : Fin 8) (x : Lane) : (s.setLane l x).si = s.si := rfl
@[simp] theorem State.setLane_mu (s : State) (l : Fin 8) (x : Lane) : (s.setLane l x).mu = s.mu := rfl
@[simp] theorem State.setLane_ru (s : State) (l : Fin 8) (x : Lane) : (s.setLane l x).ru = s.ru := rfl
@[simp] theorem State.setLane_pending (s : State) (l : Fin 8) (x : Lane) : (s.setLane l x).pending = s.pending := rfl
@[simp] theorem State.setLane_stream (s : State) (l : Fin 8) (x : Lane) (i' : Fin 32) : (s.setLane l x).stream i' = s.stream i' := rfl
@[simp] theorem State.setLane_entry (s : State) (l : Fin 8) (x : Lane) (i' : Fin 32) : (s.setLane l x).entry i' = s.entry i' := rfl
@[simp] theorem State.setLane_domain (s : State) (l : Fin 8) (x : Lane) (d' : Fin 4) : (s.setLane l x).domain d' = s.domain d' := rfl
@[simp] theorem State.setLane_input (s : State) (l : Fin 8) (x : Lane) (w' : Fin 2) : (s.setLane l x).input w' = s.input w' := rfl
@[simp] theorem State.setLane_output (s : State) (l : Fin 8) (x : Lane) (o' : Fin 4) : (s.setLane l x).output o' = s.output o' := rfl
@[simp] theorem State.setLane_osc (s : State) (l : Fin 8) (x : Lane) (o' : Osc) : (s.setLane l x).osc o' = s.osc o' := rfl
@[simp] theorem State.setLane_port (s : State) (l : Fin 8) (x : Lane) (p' : Fin 2) : (s.setLane l x).port p' = s.port p' := rfl
@[simp] theorem State.setLane_window (s : State) (l : Fin 8) (x : Lane) (l' : Fin 8) : (s.setLane l x).window l' = s.window l' := rfl
@[simp] theorem State.setLane_base (s : State) (l : Fin 8) (x : Lane) : (s.setLane l x).base = s.base := rfl

/-! ## setPort -/

@[simp] theorem State.setPort_mclk (s : State) (p : Fin 2) (x : Port) : (s.setPort p x).mclk = s.mclk := rfl
@[simp] theorem State.setPort_hrstn (s : State) (p : Fin 2) (x : Port) : (s.setPort p x).hrstn = s.hrstn := rfl
@[simp] theorem State.setPort_phase (s : State) (p : Fin 2) (x : Port) : (s.setPort p x).phase = s.phase := rfl
@[simp] theorem State.setPort_mem (s : State) (p : Fin 2) (x : Port) : (s.setPort p x).mem = s.mem := rfl
@[simp] theorem State.setPort_mc (s : State) (p : Fin 2) (x : Port) : (s.setPort p x).mc = s.mc := rfl
@[simp] theorem State.setPort_pp (s : State) (p : Fin 2) (x : Port) : (s.setPort p x).pp = s.pp := rfl
@[simp] theorem State.setPort_rw (s : State) (p : Fin 2) (x : Port) : (s.setPort p x).rw = s.rw := rfl
@[simp] theorem State.setPort_se (s : State) (p : Fin 2) (x : Port) : (s.setPort p x).se = s.se := rfl
@[simp] theorem State.setPort_cu (s : State) (p : Fin 2) (x : Port) : (s.setPort p x).cu = s.cu := rfl
@[simp] theorem State.setPort_cb (s : State) (p : Fin 2) (x : Port) : (s.setPort p x).cb = s.cb := rfl
@[simp] theorem State.setPort_li (s : State) (p : Fin 2) (x : Port) : (s.setPort p x).li = s.li := rfl
@[simp] theorem State.setPort_mu (s : State) (p : Fin 2) (x : Port) : (s.setPort p x).mu = s.mu := rfl
@[simp] theorem State.setPort_ru (s : State) (p : Fin 2) (x : Port) : (s.setPort p x).ru = s.ru := rfl
@[simp] theorem State.setPort_pending (s : State) (p : Fin 2) (x : Port) : (s.setPort p x).pending = s.pending := rfl
@[simp] theorem State.setPort_stream (s : State) (p : Fin 2) (x : Port) (i' : Fin 32) : (s.setPort p x).stream i' = s.stream i' := rfl
@[simp] theorem State.setPort_entry (s : State) (p : Fin 2) (x : Port) (i' : Fin 32) : (s.setPort p x).entry i' = s.entry i' := rfl
@[simp] theorem State.setPort_domain (s : State) (p : Fin 2) (x : Port) (d' : Fin 4) : (s.setPort p x).domain d' = s.domain d' := rfl
@[simp] theorem State.setPort_input (s : State) (p : Fin 2) (x : Port) (w' : Fin 2) : (s.setPort p x).input w' = s.input w' := rfl
@[simp] theorem State.setPort_output (s : State) (p : Fin 2) (x : Port) (o' : Fin 4) : (s.setPort p x).output o' = s.output o' := rfl
@[simp] theorem State.setPort_osc (s : State) (p : Fin 2) (x : Port) (o' : Osc) : (s.setPort p x).osc o' = s.osc o' := rfl
@[simp] theorem State.setPort_lane (s : State) (p : Fin 2) (x : Port) (l' : Fin 8) : (s.setPort p x).lane l' = s.lane l' := rfl
@[simp] theorem State.setPort_window (s : State) (p : Fin 2) (x : Port) (l' : Fin 8) : (s.setPort p x).window l' = s.window l' := rfl
@[simp] theorem State.setPort_base (s : State) (p : Fin 2) (x : Port) : (s.setPort p x).base = s.base := rfl

/-! ## setWindow -/

@[simp] theorem State.setWindow_mclk (s : State) (l : Fin 8) (x : LaneWindow) : (s.setWindow l x).mclk = s.mclk := rfl
@[simp] theorem State.setWindow_hrstn (s : State) (l : Fin 8) (x : LaneWindow) : (s.setWindow l x).hrstn = s.hrstn := rfl
@[simp] theorem State.setWindow_phase (s : State) (l : Fin 8) (x : LaneWindow) : (s.setWindow l x).phase = s.phase := rfl
@[simp] theorem State.setWindow_mem (s : State) (l : Fin 8) (x : LaneWindow) : (s.setWindow l x).mem = s.mem := rfl
@[simp] theorem State.setWindow_mc (s : State) (l : Fin 8) (x : LaneWindow) : (s.setWindow l x).mc = s.mc := rfl
@[simp] theorem State.setWindow_pp (s : State) (l : Fin 8) (x : LaneWindow) : (s.setWindow l x).pp = s.pp := rfl
@[simp] theorem State.setWindow_rw (s : State) (l : Fin 8) (x : LaneWindow) : (s.setWindow l x).rw = s.rw := rfl
@[simp] theorem State.setWindow_se (s : State) (l : Fin 8) (x : LaneWindow) : (s.setWindow l x).se = s.se := rfl
@[simp] theorem State.setWindow_cu (s : State) (l : Fin 8) (x : LaneWindow) : (s.setWindow l x).cu = s.cu := rfl
@[simp] theorem State.setWindow_cb (s : State) (l : Fin 8) (x : LaneWindow) : (s.setWindow l x).cb = s.cb := rfl
@[simp] theorem State.setWindow_li (s : State) (l : Fin 8) (x : LaneWindow) : (s.setWindow l x).li = s.li := rfl
@[simp] theorem State.setWindow_si (s : State) (l : Fin 8) (x : LaneWindow) : (s.setWindow l x).si = s.si := rfl
@[simp] theorem State.setWindow_ru (s : State) (l : Fin 8) (x : LaneWindow) : (s.setWindow l x).ru = s.ru := rfl
@[simp] theorem State.setWindow_pending (s : State) (l : Fin 8) (x : LaneWindow) : (s.setWindow l x).pending = s.pending := rfl
@[simp] theorem State.setWindow_stream (s : State) (l : Fin 8) (x : LaneWindow) (i' : Fin 32) : (s.setWindow l x).stream i' = s.stream i' := rfl
@[simp] theorem State.setWindow_entry (s : State) (l : Fin 8) (x : LaneWindow) (i' : Fin 32) : (s.setWindow l x).entry i' = s.entry i' := rfl
@[simp] theorem State.setWindow_domain (s : State) (l : Fin 8) (x : LaneWindow) (d' : Fin 4) : (s.setWindow l x).domain d' = s.domain d' := rfl
@[simp] theorem State.setWindow_input (s : State) (l : Fin 8) (x : LaneWindow) (w' : Fin 2) : (s.setWindow l x).input w' = s.input w' := rfl
@[simp] theorem State.setWindow_output (s : State) (l : Fin 8) (x : LaneWindow) (o' : Fin 4) : (s.setWindow l x).output o' = s.output o' := rfl
@[simp] theorem State.setWindow_osc (s : State) (l : Fin 8) (x : LaneWindow) (o' : Osc) : (s.setWindow l x).osc o' = s.osc o' := rfl
@[simp] theorem State.setWindow_lane (s : State) (l : Fin 8) (x : LaneWindow) (l' : Fin 8) : (s.setWindow l x).lane l' = s.lane l' := rfl
@[simp] theorem State.setWindow_port (s : State) (l : Fin 8) (x : LaneWindow) (p' : Fin 2) : (s.setWindow l x).port p' = s.port p' := rfl
@[simp] theorem State.setWindow_base (s : State) (l : Fin 8) (x : LaneWindow) : (s.setWindow l x).base = s.base := rfl

/-! ## setWatch -/

@[simp] theorem State.setWatch_mclk (s : State) (l : Fin 8) (i : Fin 64) (x : SlotWatch) : (s.setWatch l i x).mclk = s.mclk := rfl
@[simp] theorem State.setWatch_hrstn (s : State) (l : Fin 8) (i : Fin 64) (x : SlotWatch) : (s.setWatch l i x).hrstn = s.hrstn := rfl
@[simp] theorem State.setWatch_phase (s : State) (l : Fin 8) (i : Fin 64) (x : SlotWatch) : (s.setWatch l i x).phase = s.phase := rfl
@[simp] theorem State.setWatch_mem (s : State) (l : Fin 8) (i : Fin 64) (x : SlotWatch) : (s.setWatch l i x).mem = s.mem := rfl
@[simp] theorem State.setWatch_mc (s : State) (l : Fin 8) (i : Fin 64) (x : SlotWatch) : (s.setWatch l i x).mc = s.mc := rfl
@[simp] theorem State.setWatch_pp (s : State) (l : Fin 8) (i : Fin 64) (x : SlotWatch) : (s.setWatch l i x).pp = s.pp := rfl
@[simp] theorem State.setWatch_rw (s : State) (l : Fin 8) (i : Fin 64) (x : SlotWatch) : (s.setWatch l i x).rw = s.rw := rfl
@[simp] theorem State.setWatch_se (s : State) (l : Fin 8) (i : Fin 64) (x : SlotWatch) : (s.setWatch l i x).se = s.se := rfl
@[simp] theorem State.setWatch_cu (s : State) (l : Fin 8) (i : Fin 64) (x : SlotWatch) : (s.setWatch l i x).cu = s.cu := rfl
@[simp] theorem State.setWatch_cb (s : State) (l : Fin 8) (i : Fin 64) (x : SlotWatch) : (s.setWatch l i x).cb = s.cb := rfl
@[simp] theorem State.setWatch_li (s : State) (l : Fin 8) (i : Fin 64) (x : SlotWatch) : (s.setWatch l i x).li = s.li := rfl
@[simp] theorem State.setWatch_si (s : State) (l : Fin 8) (i : Fin 64) (x : SlotWatch) : (s.setWatch l i x).si = s.si := rfl
@[simp] theorem State.setWatch_ru (s : State) (l : Fin 8) (i : Fin 64) (x : SlotWatch) : (s.setWatch l i x).ru = s.ru := rfl
@[simp] theorem State.setWatch_pending (s : State) (l : Fin 8) (i : Fin 64) (x : SlotWatch) : (s.setWatch l i x).pending = s.pending := rfl
@[simp] theorem State.setWatch_stream (s : State) (l : Fin 8) (i : Fin 64) (x : SlotWatch) (i' : Fin 32) : (s.setWatch l i x).stream i' = s.stream i' := rfl
@[simp] theorem State.setWatch_entry (s : State) (l : Fin 8) (i : Fin 64) (x : SlotWatch) (i' : Fin 32) : (s.setWatch l i x).entry i' = s.entry i' := rfl
@[simp] theorem State.setWatch_domain (s : State) (l : Fin 8) (i : Fin 64) (x : SlotWatch) (d' : Fin 4) : (s.setWatch l i x).domain d' = s.domain d' := rfl
@[simp] theorem State.setWatch_input (s : State) (l : Fin 8) (i : Fin 64) (x : SlotWatch) (w' : Fin 2) : (s.setWatch l i x).input w' = s.input w' := rfl
@[simp] theorem State.setWatch_output (s : State) (l : Fin 8) (i : Fin 64) (x : SlotWatch) (o' : Fin 4) : (s.setWatch l i x).output o' = s.output o' := rfl
@[simp] theorem State.setWatch_osc (s : State) (l : Fin 8) (i : Fin 64) (x : SlotWatch) (o' : Osc) : (s.setWatch l i x).osc o' = s.osc o' := rfl
@[simp] theorem State.setWatch_lane (s : State) (l : Fin 8) (i : Fin 64) (x : SlotWatch) (l' : Fin 8) : (s.setWatch l i x).lane l' = s.lane l' := rfl
@[simp] theorem State.setWatch_port (s : State) (l : Fin 8) (i : Fin 64) (x : SlotWatch) (p' : Fin 2) : (s.setWatch l i x).port p' = s.port p' := rfl
@[simp] theorem State.setWatch_window (s : State) (l : Fin 8) (i : Fin 64) (x : SlotWatch) (l' : Fin 8) : (s.setWatch l i x).window l' = s.window l' := rfl
@[simp] theorem State.setWatch_base (s : State) (l : Fin 8) (i : Fin 64) (x : SlotWatch) : (s.setWatch l i x).base = s.base := rfl

/-! ## Reading what was written -/

@[simp] theorem State.stream_setStream_self (s : State) (i : Fin 32) (x : Stream) : (s.setStream i x).stream i = x := by
  simp [State.setStream, State.stream]
theorem State.stream_setStream_of_ne (s : State) {i j : Fin 32} (x : Stream) (h : i ≠ j) : (s.setStream i x).stream j = s.stream j := by
  have h2 : i.val ≠ j.val := fun e => h (Fin.ext e)
  simp [State.setStream, State.stream, h2]
@[simp] theorem State.entry_setEntry_self (s : State) (i : Fin 32) (x : (Option RingEntry)) : (s.setEntry i x).entry i = x := by
  simp [State.setEntry, State.entry]
theorem State.entry_setEntry_of_ne (s : State) {i j : Fin 32} (x : (Option RingEntry)) (h : i ≠ j) : (s.setEntry i x).entry j = s.entry j := by
  have h2 : i.val ≠ j.val := fun e => h (Fin.ext e)
  simp [State.setEntry, State.entry, h2]
@[simp] theorem State.domain_setDomain_self (s : State) (i : Fin 4) (x : Domain) : (s.setDomain i x).domain i = x := by
  simp [State.setDomain, State.domain]
theorem State.domain_setDomain_of_ne (s : State) {i j : Fin 4} (x : Domain) (h : i ≠ j) : (s.setDomain i x).domain j = s.domain j := by
  have h2 : i.val ≠ j.val := fun e => h (Fin.ext e)
  simp [State.setDomain, State.domain, h2]
@[simp] theorem State.input_setInput_self (s : State) (i : Fin 2) (x : WordInput) : (s.setInput i x).input i = x := by
  simp [State.setInput, State.input]
theorem State.input_setInput_of_ne (s : State) {i j : Fin 2} (x : WordInput) (h : i ≠ j) : (s.setInput i x).input j = s.input j := by
  have h2 : i.val ≠ j.val := fun e => h (Fin.ext e)
  simp [State.setInput, State.input, h2]
@[simp] theorem State.output_setOutput_self (s : State) (i : Fin 4) (x : WordOutput) : (s.setOutput i x).output i = x := by
  simp [State.setOutput, State.output]
theorem State.output_setOutput_of_ne (s : State) {i j : Fin 4} (x : WordOutput) (h : i ≠ j) : (s.setOutput i x).output j = s.output j := by
  have h2 : i.val ≠ j.val := fun e => h (Fin.ext e)
  simp [State.setOutput, State.output, h2]
@[simp] theorem State.lane_setLane_self (s : State) (i : Fin 8) (x : Lane) : (s.setLane i x).lane i = x := by
  simp [State.setLane, State.lane]
theorem State.lane_setLane_of_ne (s : State) {i j : Fin 8} (x : Lane) (h : i ≠ j) : (s.setLane i x).lane j = s.lane j := by
  have h2 : i.val ≠ j.val := fun e => h (Fin.ext e)
  simp [State.setLane, State.lane, h2]
@[simp] theorem State.port_setPort_self (s : State) (i : Fin 2) (x : Port) : (s.setPort i x).port i = x := by
  simp [State.setPort, State.port]
theorem State.port_setPort_of_ne (s : State) {i j : Fin 2} (x : Port) (h : i ≠ j) : (s.setPort i x).port j = s.port j := by
  have h2 : i.val ≠ j.val := fun e => h (Fin.ext e)
  simp [State.setPort, State.port, h2]
@[simp] theorem State.window_setWindow_self (s : State) (i : Fin 8) (x : LaneWindow) : (s.setWindow i x).window i = x := by
  simp [State.setWindow, State.window]
theorem State.window_setWindow_of_ne (s : State) {i j : Fin 8} (x : LaneWindow) (h : i ≠ j) : (s.setWindow i x).window j = s.window j := by
  have h2 : i.val ≠ j.val := fun e => h (Fin.ext e)
  simp [State.setWindow, State.window, h2]
@[simp] theorem State.osc_setOsc_self (s : State) (o : Osc) (x : OscState) : (s.setOsc o x).osc o = x := by
  cases o <;> rfl
@[simp] theorem State.elapse_mclk (s : State) (n : Nat) : (s.elapse n).mclk = s.mclk + n := rfl

/-! ## Writing twice, and writing back what was read -/

@[simp] theorem State.setStream_setStream (s : State) (i : Fin 32) (x y : Stream) : (s.setStream i x).setStream i y = s.setStream i y := by
  simp [State.setStream]
@[simp] theorem State.setStream_stream (s : State) (i : Fin 32) : s.setStream i (s.stream i) = s := by
  simp [State.setStream, State.stream]

@[simp] theorem State.setEntry_setEntry (s : State) (i : Fin 32) (x y : Option RingEntry) : (s.setEntry i x).setEntry i y = s.setEntry i y := by
  simp [State.setEntry]
@[simp] theorem State.setEntry_entry (s : State) (i : Fin 32) : s.setEntry i (s.entry i) = s := by
  simp [State.setEntry, State.entry]

@[simp] theorem State.setDomain_setDomain (s : State) (i : Fin 4) (x y : Domain) : (s.setDomain i x).setDomain i y = s.setDomain i y := by
  simp [State.setDomain]
@[simp] theorem State.setDomain_domain (s : State) (i : Fin 4) : s.setDomain i (s.domain i) = s := by
  simp [State.setDomain, State.domain]

@[simp] theorem State.setInput_setInput (s : State) (i : Fin 2) (x y : WordInput) : (s.setInput i x).setInput i y = s.setInput i y := by
  simp [State.setInput]
@[simp] theorem State.setInput_input (s : State) (i : Fin 2) : s.setInput i (s.input i) = s := by
  simp [State.setInput, State.input]

@[simp] theorem State.setOutput_setOutput (s : State) (i : Fin 4) (x y : WordOutput) : (s.setOutput i x).setOutput i y = s.setOutput i y := by
  simp [State.setOutput]
@[simp] theorem State.setOutput_output (s : State) (i : Fin 4) : s.setOutput i (s.output i) = s := by
  simp [State.setOutput, State.output]

@[simp] theorem State.setLane_setLane (s : State) (i : Fin 8) (x y : Lane) : (s.setLane i x).setLane i y = s.setLane i y := by
  simp [State.setLane]
@[simp] theorem State.setLane_lane (s : State) (i : Fin 8) : s.setLane i (s.lane i) = s := by
  simp [State.setLane, State.lane]

@[simp] theorem State.setPort_setPort (s : State) (i : Fin 2) (x y : Port) : (s.setPort i x).setPort i y = s.setPort i y := by
  simp [State.setPort]
@[simp] theorem State.setPort_port (s : State) (i : Fin 2) : s.setPort i (s.port i) = s := by
  simp [State.setPort, State.port]

@[simp] theorem State.setWindow_setWindow (s : State) (i : Fin 8) (x y : LaneWindow) : (s.setWindow i x).setWindow i y = s.setWindow i y := by
  simp [State.setWindow]
@[simp] theorem State.setWindow_window (s : State) (i : Fin 8) : s.setWindow i (s.window i) = s := by
  simp [State.setWindow, State.window]

end Sys2Proof.Machine
end

