-- ==== Sys2Proof/Laws/Report.lean ====
section
/-! SUPPORT. What the reporting operations leave alone: a request for a record and an event passed change only the Record
order and the Report Unit. -/

namespace Sys2Proof.Machine

namespace ReportOnly

theorem refl (s : State) : ReportOnly s s := by constructor <;> rfl

theorem trans {s t u : State} (a : ReportOnly s t) (b : ReportOnly t u) : ReportOnly s u := by
  constructor
  · rw [b.mclk, a.mclk]
  · rw [b.hrstn, a.hrstn]
  · rw [b.phase, a.phase]
  · rw [b.mem, a.mem]
  · rw [b.pp, a.pp]
  · rw [b.rw, a.rw]
  · rw [b.se, a.se]
  · rw [b.cu, a.cu]
  · rw [b.cb, a.cb]
  · rw [b.li, a.li]
  · rw [b.si, a.si]
  · rw [b.mu, a.mu]
  · rw [b.pending, a.pending]
  · rw [b.mc, a.mc]

theorem ofRecords (s : State) (l : List RecordItem) : ReportOnly s { s with mc := { s.mc with records := l } } := by
  constructor <;> rfl

theorem ofReport (s : State) (r : ReportUnit) : ReportOnly s { s with ru := r } := by constructor <;> rfl

theorem foldl {α : Type} {f : State → α → State} (h : ∀ s a, ReportOnly s (f s a)) (l : List α) (s : State) :
    ReportOnly s (l.foldl f s) := by
  induction l generalizing s with
  | nil => exact refl s
  | cons a l ih => exact (h s a).trans (ih _)

end ReportOnly

theorem request_only (s : State) (id : RecordId) : ReportOnly s (s.request id) := by
  unfold State.request; split
  · exact .refl s
  · dsimp only; split <;> exact .ofRecords s _

theorem requestAll_only (s : State) (ids : List RecordId) : ReportOnly s (s.requestAll ids) :=
  ReportOnly.foldl request_only ids s

theorem reserve_only (s : State) (e : Event) : ReportOnly s (s.reserve e) := by constructor <;> rfl

theorem loseEvent_only (s : State) (e : Event) : ReportOnly s (s.loseEvent e) :=
  (ReportOnly.ofReport s _).trans (request_only _ _)

theorem passEvent_only (s : State) (e : Event) : ReportOnly s (s.passEvent e) := by
  unfold State.passEvent; split
  · exact .refl s
  · split
    · exact loseEvent_only s e
    · exact reserve_only s e

theorem passEvents_only (s : State) (es : List Event) : ReportOnly s (s.passEvents es) :=
  ReportOnly.foldl passEvent_only es s

/-- R166: with the port open, or at the end of a host reset, events wait for their write. -/
@[simp] theorem heldEvents_of_taken {s : State} (h : s.phase.discardsEvents = false) (es : List Event) :
    s.heldEvents es = es := if_neg (by simp [h])

/-- R166: during a start-up or a host reset no event waits. -/
@[simp] theorem heldEvents_of_discarded {s : State} (h : s.phase.discardsEvents = true) (es : List Event) :
    s.heldEvents es = [] := if_pos h

theorem requestImage_only (s : State) (p : Fin 2) (es : List Event) : ReportOnly s (s.requestImage p es) := by
  unfold State.requestImage; split
  · exact .refl s
  · split <;> exact .ofRecords s _

theorem requestMeter_only (s : State) (l : Fin 8) : ReportOnly s (s.requestMeter l) := by
  unfold State.requestMeter; split
  · exact .refl s
  · split
    · exact .refl s
    · exact .ofRecords s _

theorem evalAttn_only (s : State) : ReportOnly s s.evalAttn := ReportOnly.ofReport s _

theorem raiseEventsLost_only (s : State) : ReportOnly s s.raiseEventsLost := by
  unfold State.raiseEventsLost; split
  · exact .refl s
  · exact ((ReportOnly.ofReport s _).trans (passEvent_only _ _)).trans (request_only _ _)

theorem takeMarkWritten_only (s : State) (m : BitVec 10) : ReportOnly s (s.takeMarkWritten m) := by
  unfold State.takeMarkWritten; dsimp only; split
  · exact (evalAttn_only s).trans (request_only _ _)
  · split
    · exact (((ReportOnly.ofReport s _).trans (evalAttn_only _)).trans (request_only _ _)).trans (raiseEventsLost_only _)
    · exact (ReportOnly.ofReport s _).trans (request_only _ _)

theorem maskWritten_only (s : State) (w : Word) : ReportOnly s (s.maskWritten w) :=
  ((ReportOnly.ofReport s _).trans (evalAttn_only _)).trans (request_only _ _)

theorem reportStream_only (s : State) (i : Fin 32) (e : Event) : ReportOnly s (s.reportStream i e) :=
  (request_only _ _).trans (passEvent_only _ _)

theorem periodEvent_only (s : State) (k : EventKind) (i : Fin 32) (p : Nat) (d1 : Word) :
    ReportOnly s (s.periodEvent k i p d1) := passEvent_only _ _

/-! ## request -/

@[simp] theorem State.request_mclk (s : State) (id : RecordId) : (s.request id).mclk = s.mclk := (request_only s id).mclk
@[simp] theorem State.request_hrstn (s : State) (id : RecordId) : (s.request id).hrstn = s.hrstn := (request_only s id).hrstn
@[simp] theorem State.request_phase (s : State) (id : RecordId) : (s.request id).phase = s.phase := (request_only s id).phase
@[simp] theorem State.request_mem (s : State) (id : RecordId) : (s.request id).mem = s.mem := (request_only s id).mem
@[simp] theorem State.request_pp (s : State) (id : RecordId) : (s.request id).pp = s.pp := (request_only s id).pp
@[simp] theorem State.request_rw (s : State) (id : RecordId) : (s.request id).rw = s.rw := (request_only s id).rw
@[simp] theorem State.request_se (s : State) (id : RecordId) : (s.request id).se = s.se := (request_only s id).se
@[simp] theorem State.request_cu (s : State) (id : RecordId) : (s.request id).cu = s.cu := (request_only s id).cu
@[simp] theorem State.request_cb (s : State) (id : RecordId) : (s.request id).cb = s.cb := (request_only s id).cb
@[simp] theorem State.request_li (s : State) (id : RecordId) : (s.request id).li = s.li := (request_only s id).li
@[simp] theorem State.request_si (s : State) (id : RecordId) : (s.request id).si = s.si := (request_only s id).si
@[simp] theorem State.request_mu (s : State) (id : RecordId) : (s.request id).mu = s.mu := (request_only s id).mu
@[simp] theorem State.request_pending (s : State) (id : RecordId) : (s.request id).pending = s.pending := (request_only s id).pending
@[simp] theorem State.request_stream (s : State) (id : RecordId) (j : Fin 32) : (s.request id).stream j = s.stream j := by simp [State.stream]
@[simp] theorem State.request_entry (s : State) (id : RecordId) (j : Fin 32) : (s.request id).entry j = s.entry j := by simp [State.entry]
@[simp] theorem State.request_domain (s : State) (id : RecordId) (j : Fin 4) : (s.request id).domain j = s.domain j := by simp [State.domain]
@[simp] theorem State.request_input (s : State) (id : RecordId) (j : Fin 2) : (s.request id).input j = s.input j := by simp [State.input]
@[simp] theorem State.request_output (s : State) (id : RecordId) (j : Fin 4) : (s.request id).output j = s.output j := by simp [State.output]
@[simp] theorem State.request_osc (s : State) (id : RecordId) (j : Osc) : (s.request id).osc j = s.osc j := by cases j <;> simp [State.osc]
@[simp] theorem State.request_lane (s : State) (id : RecordId) (j : Fin 8) : (s.request id).lane j = s.lane j := by simp [State.lane]
@[simp] theorem State.request_port (s : State) (id : RecordId) (j : Fin 2) : (s.request id).port j = s.port j := by simp [State.port]
@[simp] theorem State.request_window (s : State) (id : RecordId) (j : Fin 8) : (s.request id).window j = s.window j := by simp [State.window]
@[simp] theorem State.request_mc_size (s : State) (id : RecordId) : (s.request id).mc.size = s.mc.size := by rw [(request_only s id).mc]
@[simp] theorem State.request_mc_refreshPending (s : State) (id : RecordId) : (s.request id).mc.refreshPending = s.mc.refreshPending := by rw [(request_only s id).mc]
@[simp] theorem State.request_mc_refreshTimer (s : State) (id : RecordId) : (s.request id).mc.refreshTimer = s.mc.refreshTimer := by rw [(request_only s id).mc]
@[simp] theorem State.request_mc_lastOfThree (s : State) (id : RecordId) : (s.request id).mc.lastOfThree = s.mc.lastOfThree := by rw [(request_only s id).mc]
@[simp] theorem State.request_mc_scrubNext (s : State) (id : RecordId) : (s.request id).mc.scrubNext = s.mc.scrubNext := by rw [(request_only s id).mc]
@[simp] theorem State.request_base (s : State) (id : RecordId) : (s.request id).base = s.base := by simp [State.base]

/-! ## requestAll -/

@[simp] theorem State.requestAll_mclk (s : State) (ids : List RecordId) : (s.requestAll ids).mclk = s.mclk := (requestAll_only s ids).mclk
@[simp] theorem State.requestAll_hrstn (s : State) (ids : List RecordId) : (s.requestAll ids).hrstn = s.hrstn := (requestAll_only s ids).hrstn
@[simp] theorem State.requestAll_phase (s : State) (ids : List RecordId) : (s.requestAll ids).phase = s.phase := (requestAll_only s ids).phase
@[simp] theorem State.requestAll_mem (s : State) (ids : List RecordId) : (s.requestAll ids).mem = s.mem := (requestAll_only s ids).mem
@[simp] theorem State.requestAll_pp (s : State) (ids : List RecordId) : (s.requestAll ids).pp = s.pp := (requestAll_only s ids).pp
@[simp] theorem State.requestAll_rw (s : State) (ids : List RecordId) : (s.requestAll ids).rw = s.rw := (requestAll_only s ids).rw
@[simp] theorem State.requestAll_se (s : State) (ids : List RecordId) : (s.requestAll ids).se = s.se := (requestAll_only s ids).se
@[simp] theorem State.requestAll_cu (s : State) (ids : List RecordId) : (s.requestAll ids).cu = s.cu := (requestAll_only s ids).cu
@[simp] theorem State.requestAll_cb (s : State) (ids : List RecordId) : (s.requestAll ids).cb = s.cb := (requestAll_only s ids).cb
@[simp] theorem State.requestAll_li (s : State) (ids : List RecordId) : (s.requestAll ids).li = s.li := (requestAll_only s ids).li
@[simp] theorem State.requestAll_si (s : State) (ids : List RecordId) : (s.requestAll ids).si = s.si := (requestAll_only s ids).si
@[simp] theorem State.requestAll_mu (s : State) (ids : List RecordId) : (s.requestAll ids).mu = s.mu := (requestAll_only s ids).mu
@[simp] theorem State.requestAll_pending (s : State) (ids : List RecordId) : (s.requestAll ids).pending = s.pending := (requestAll_only s ids).pending
@[simp] theorem State.requestAll_stream (s : State) (ids : List RecordId) (j : Fin 32) : (s.requestAll ids).stream j = s.stream j := by simp [State.stream]
@[simp] theorem State.requestAll_entry (s : State) (ids : List RecordId) (j : Fin 32) : (s.requestAll ids).entry j = s.entry j := by simp [State.entry]
@[simp] theorem State.requestAll_domain (s : State) (ids : List RecordId) (j : Fin 4) : (s.requestAll ids).domain j = s.domain j := by simp [State.domain]
@[simp] theorem State.requestAll_input (s : State) (ids : List RecordId) (j : Fin 2) : (s.requestAll ids).input j = s.input j := by simp [State.input]
@[simp] theorem State.requestAll_output (s : State) (ids : List RecordId) (j : Fin 4) : (s.requestAll ids).output j = s.output j := by simp [State.output]
@[simp] theorem State.requestAll_osc (s : State) (ids : List RecordId) (j : Osc) : (s.requestAll ids).osc j = s.osc j := by cases j <;> simp [State.osc]
@[simp] theorem State.requestAll_lane (s : State) (ids : List RecordId) (j : Fin 8) : (s.requestAll ids).lane j = s.lane j := by simp [State.lane]
@[simp] theorem State.requestAll_port (s : State) (ids : List RecordId) (j : Fin 2) : (s.requestAll ids).port j = s.port j := by simp [State.port]
@[simp] theorem State.requestAll_window (s : State) (ids : List RecordId) (j : Fin 8) : (s.requestAll ids).window j = s.window j := by simp [State.window]
@[simp] theorem State.requestAll_mc_size (s : State) (ids : List RecordId) : (s.requestAll ids).mc.size = s.mc.size := by rw [(requestAll_only s ids).mc]
@[simp] theorem State.requestAll_mc_refreshPending (s : State) (ids : List RecordId) : (s.requestAll ids).mc.refreshPending = s.mc.refreshPending := by rw [(requestAll_only s ids).mc]
@[simp] theorem State.requestAll_mc_refreshTimer (s : State) (ids : List RecordId) : (s.requestAll ids).mc.refreshTimer = s.mc.refreshTimer := by rw [(requestAll_only s ids).mc]
@[simp] theorem State.requestAll_mc_lastOfThree (s : State) (ids : List RecordId) : (s.requestAll ids).mc.lastOfThree = s.mc.lastOfThree := by rw [(requestAll_only s ids).mc]
@[simp] theorem State.requestAll_mc_scrubNext (s : State) (ids : List RecordId) : (s.requestAll ids).mc.scrubNext = s.mc.scrubNext := by rw [(requestAll_only s ids).mc]
@[simp] theorem State.requestAll_base (s : State) (ids : List RecordId) : (s.requestAll ids).base = s.base := by simp [State.base]

/-! ## passEvent -/

@[simp] theorem State.passEvent_mclk (s : State) (e : Event) : (s.passEvent e).mclk = s.mclk := (passEvent_only s e).mclk
@[simp] theorem State.passEvent_hrstn (s : State) (e : Event) : (s.passEvent e).hrstn = s.hrstn := (passEvent_only s e).hrstn
@[simp] theorem State.passEvent_phase (s : State) (e : Event) : (s.passEvent e).phase = s.phase := (passEvent_only s e).phase
@[simp] theorem State.passEvent_mem (s : State) (e : Event) : (s.passEvent e).mem = s.mem := (passEvent_only s e).mem
@[simp] theorem State.passEvent_pp (s : State) (e : Event) : (s.passEvent e).pp = s.pp := (passEvent_only s e).pp
@[simp] theorem State.passEvent_rw (s : State) (e : Event) : (s.passEvent e).rw = s.rw := (passEvent_only s e).rw
@[simp] theorem State.passEvent_se (s : State) (e : Event) : (s.passEvent e).se = s.se := (passEvent_only s e).se
@[simp] theorem State.passEvent_cu (s : State) (e : Event) : (s.passEvent e).cu = s.cu := (passEvent_only s e).cu
@[simp] theorem State.passEvent_cb (s : State) (e : Event) : (s.passEvent e).cb = s.cb := (passEvent_only s e).cb
@[simp] theorem State.passEvent_li (s : State) (e : Event) : (s.passEvent e).li = s.li := (passEvent_only s e).li
@[simp] theorem State.passEvent_si (s : State) (e : Event) : (s.passEvent e).si = s.si := (passEvent_only s e).si
@[simp] theorem State.passEvent_mu (s : State) (e : Event) : (s.passEvent e).mu = s.mu := (passEvent_only s e).mu
@[simp] theorem State.passEvent_pending (s : State) (e : Event) : (s.passEvent e).pending = s.pending := (passEvent_only s e).pending
@[simp] theorem State.passEvent_stream (s : State) (e : Event) (j : Fin 32) : (s.passEvent e).stream j = s.stream j := by simp [State.stream]
@[simp] theorem State.passEvent_entry (s : State) (e : Event) (j : Fin 32) : (s.passEvent e).entry j = s.entry j := by simp [State.entry]
@[simp] theorem State.passEvent_domain (s : State) (e : Event) (j : Fin 4) : (s.passEvent e).domain j = s.domain j := by simp [State.domain]
@[simp] theorem State.passEvent_input (s : State) (e : Event) (j : Fin 2) : (s.passEvent e).input j = s.input j := by simp [State.input]
@[simp] theorem State.passEvent_output (s : State) (e : Event) (j : Fin 4) : (s.passEvent e).output j = s.output j := by simp [State.output]
@[simp] theorem State.passEvent_osc (s : State) (e : Event) (j : Osc) : (s.passEvent e).osc j = s.osc j := by cases j <;> simp [State.osc]
@[simp] theorem State.passEvent_lane (s : State) (e : Event) (j : Fin 8) : (s.passEvent e).lane j = s.lane j := by simp [State.lane]
@[simp] theorem State.passEvent_port (s : State) (e : Event) (j : Fin 2) : (s.passEvent e).port j = s.port j := by simp [State.port]
@[simp] theorem State.passEvent_window (s : State) (e : Event) (j : Fin 8) : (s.passEvent e).window j = s.window j := by simp [State.window]
@[simp] theorem State.passEvent_mc_size (s : State) (e : Event) : (s.passEvent e).mc.size = s.mc.size := by rw [(passEvent_only s e).mc]
@[simp] theorem State.passEvent_mc_refreshPending (s : State) (e : Event) : (s.passEvent e).mc.refreshPending = s.mc.refreshPending := by rw [(passEvent_only s e).mc]
@[simp] theorem State.passEvent_mc_refreshTimer (s : State) (e : Event) : (s.passEvent e).mc.refreshTimer = s.mc.refreshTimer := by rw [(passEvent_only s e).mc]
@[simp] theorem State.passEvent_mc_lastOfThree (s : State) (e : Event) : (s.passEvent e).mc.lastOfThree = s.mc.lastOfThree := by rw [(passEvent_only s e).mc]
@[simp] theorem State.passEvent_mc_scrubNext (s : State) (e : Event) : (s.passEvent e).mc.scrubNext = s.mc.scrubNext := by rw [(passEvent_only s e).mc]
@[simp] theorem State.passEvent_base (s : State) (e : Event) : (s.passEvent e).base = s.base := by simp [State.base]

/-! ## passEvents -/

@[simp] theorem State.passEvents_mclk (s : State) (es : List Event) : (s.passEvents es).mclk = s.mclk := (passEvents_only s es).mclk
@[simp] theorem State.passEvents_hrstn (s : State) (es : List Event) : (s.passEvents es).hrstn = s.hrstn := (passEvents_only s es).hrstn
@[simp] theorem State.passEvents_phase (s : State) (es : List Event) : (s.passEvents es).phase = s.phase := (passEvents_only s es).phase
@[simp] theorem State.passEvents_mem (s : State) (es : List Event) : (s.passEvents es).mem = s.mem := (passEvents_only s es).mem
@[simp] theorem State.passEvents_pp (s : State) (es : List Event) : (s.passEvents es).pp = s.pp := (passEvents_only s es).pp
@[simp] theorem State.passEvents_rw (s : State) (es : List Event) : (s.passEvents es).rw = s.rw := (passEvents_only s es).rw
@[simp] theorem State.passEvents_se (s : State) (es : List Event) : (s.passEvents es).se = s.se := (passEvents_only s es).se
@[simp] theorem State.passEvents_cu (s : State) (es : List Event) : (s.passEvents es).cu = s.cu := (passEvents_only s es).cu
@[simp] theorem State.passEvents_cb (s : State) (es : List Event) : (s.passEvents es).cb = s.cb := (passEvents_only s es).cb
@[simp] theorem State.passEvents_li (s : State) (es : List Event) : (s.passEvents es).li = s.li := (passEvents_only s es).li
@[simp] theorem State.passEvents_si (s : State) (es : List Event) : (s.passEvents es).si = s.si := (passEvents_only s es).si
@[simp] theorem State.passEvents_mu (s : State) (es : List Event) : (s.passEvents es).mu = s.mu := (passEvents_only s es).mu
@[simp] theorem State.passEvents_pending (s : State) (es : List Event) : (s.passEvents es).pending = s.pending := (passEvents_only s es).pending
@[simp] theorem State.passEvents_stream (s : State) (es : List Event) (j : Fin 32) : (s.passEvents es).stream j = s.stream j := by simp [State.stream]
@[simp] theorem State.passEvents_entry (s : State) (es : List Event) (j : Fin 32) : (s.passEvents es).entry j = s.entry j := by simp [State.entry]
@[simp] theorem State.passEvents_domain (s : State) (es : List Event) (j : Fin 4) : (s.passEvents es).domain j = s.domain j := by simp [State.domain]
@[simp] theorem State.passEvents_input (s : State) (es : List Event) (j : Fin 2) : (s.passEvents es).input j = s.input j := by simp [State.input]
@[simp] theorem State.passEvents_output (s : State) (es : List Event) (j : Fin 4) : (s.passEvents es).output j = s.output j := by simp [State.output]
@[simp] theorem State.passEvents_osc (s : State) (es : List Event) (j : Osc) : (s.passEvents es).osc j = s.osc j := by cases j <;> simp [State.osc]
@[simp] theorem State.passEvents_lane (s : State) (es : List Event) (j : Fin 8) : (s.passEvents es).lane j = s.lane j := by simp [State.lane]
@[simp] theorem State.passEvents_port (s : State) (es : List Event) (j : Fin 2) : (s.passEvents es).port j = s.port j := by simp [State.port]
@[simp] theorem State.passEvents_window (s : State) (es : List Event) (j : Fin 8) : (s.passEvents es).window j = s.window j := by simp [State.window]
@[simp] theorem State.passEvents_mc_size (s : State) (es : List Event) : (s.passEvents es).mc.size = s.mc.size := by rw [(passEvents_only s es).mc]
@[simp] theorem State.passEvents_mc_refreshPending (s : State) (es : List Event) : (s.passEvents es).mc.refreshPending = s.mc.refreshPending := by rw [(passEvents_only s es).mc]
@[simp] theorem State.passEvents_mc_refreshTimer (s : State) (es : List Event) : (s.passEvents es).mc.refreshTimer = s.mc.refreshTimer := by rw [(passEvents_only s es).mc]
@[simp] theorem State.passEvents_mc_lastOfThree (s : State) (es : List Event) : (s.passEvents es).mc.lastOfThree = s.mc.lastOfThree := by rw [(passEvents_only s es).mc]
@[simp] theorem State.passEvents_mc_scrubNext (s : State) (es : List Event) : (s.passEvents es).mc.scrubNext = s.mc.scrubNext := by rw [(passEvents_only s es).mc]
@[simp] theorem State.passEvents_base (s : State) (es : List Event) : (s.passEvents es).base = s.base := by simp [State.base]

/-! ## requestImage -/

@[simp] theorem State.requestImage_mclk (s : State) (p : Fin 2) (es : List Event) : (s.requestImage p es).mclk = s.mclk := (requestImage_only s p es).mclk
@[simp] theorem State.requestImage_hrstn (s : State) (p : Fin 2) (es : List Event) : (s.requestImage p es).hrstn = s.hrstn := (requestImage_only s p es).hrstn
@[simp] theorem State.requestImage_phase (s : State) (p : Fin 2) (es : List Event) : (s.requestImage p es).phase = s.phase := (requestImage_only s p es).phase
@[simp] theorem State.requestImage_mem (s : State) (p : Fin 2) (es : List Event) : (s.requestImage p es).mem = s.mem := (requestImage_only s p es).mem
@[simp] theorem State.requestImage_pp (s : State) (p : Fin 2) (es : List Event) : (s.requestImage p es).pp = s.pp := (requestImage_only s p es).pp
@[simp] theorem State.requestImage_rw (s : State) (p : Fin 2) (es : List Event) : (s.requestImage p es).rw = s.rw := (requestImage_only s p es).rw
@[simp] theorem State.requestImage_se (s : State) (p : Fin 2) (es : List Event) : (s.requestImage p es).se = s.se := (requestImage_only s p es).se
@[simp] theorem State.requestImage_cu (s : State) (p : Fin 2) (es : List Event) : (s.requestImage p es).cu = s.cu := (requestImage_only s p es).cu
@[simp] theorem State.requestImage_cb (s : State) (p : Fin 2) (es : List Event) : (s.requestImage p es).cb = s.cb := (requestImage_only s p es).cb
@[simp] theorem State.requestImage_li (s : State) (p : Fin 2) (es : List Event) : (s.requestImage p es).li = s.li := (requestImage_only s p es).li
@[simp] theorem State.requestImage_si (s : State) (p : Fin 2) (es : List Event) : (s.requestImage p es).si = s.si := (requestImage_only s p es).si
@[simp] theorem State.requestImage_mu (s : State) (p : Fin 2) (es : List Event) : (s.requestImage p es).mu = s.mu := (requestImage_only s p es).mu
@[simp] theorem State.requestImage_pending (s : State) (p : Fin 2) (es : List Event) : (s.requestImage p es).pending = s.pending := (requestImage_only s p es).pending
@[simp] theorem State.requestImage_stream (s : State) (p : Fin 2) (es : List Event) (j : Fin 32) : (s.requestImage p es).stream j = s.stream j := by simp [State.stream]
@[simp] theorem State.requestImage_entry (s : State) (p : Fin 2) (es : List Event) (j : Fin 32) : (s.requestImage p es).entry j = s.entry j := by simp [State.entry]
@[simp] theorem State.requestImage_domain (s : State) (p : Fin 2) (es : List Event) (j : Fin 4) : (s.requestImage p es).domain j = s.domain j := by simp [State.domain]
@[simp] theorem State.requestImage_input (s : State) (p : Fin 2) (es : List Event) (j : Fin 2) : (s.requestImage p es).input j = s.input j := by simp [State.input]
@[simp] theorem State.requestImage_output (s : State) (p : Fin 2) (es : List Event) (j : Fin 4) : (s.requestImage p es).output j = s.output j := by simp [State.output]
@[simp] theorem State.requestImage_osc (s : State) (p : Fin 2) (es : List Event) (j : Osc) : (s.requestImage p es).osc j = s.osc j := by cases j <;> simp [State.osc]
@[simp] theorem State.requestImage_lane (s : State) (p : Fin 2) (es : List Event) (j : Fin 8) : (s.requestImage p es).lane j = s.lane j := by simp [State.lane]
@[simp] theorem State.requestImage_port (s : State) (p : Fin 2) (es : List Event) (j : Fin 2) : (s.requestImage p es).port j = s.port j := by simp [State.port]
@[simp] theorem State.requestImage_window (s : State) (p : Fin 2) (es : List Event) (j : Fin 8) : (s.requestImage p es).window j = s.window j := by simp [State.window]
@[simp] theorem State.requestImage_mc_size (s : State) (p : Fin 2) (es : List Event) : (s.requestImage p es).mc.size = s.mc.size := by rw [(requestImage_only s p es).mc]
@[simp] theorem State.requestImage_mc_refreshPending (s : State) (p : Fin 2) (es : List Event) : (s.requestImage p es).mc.refreshPending = s.mc.refreshPending := by rw [(requestImage_only s p es).mc]
@[simp] theorem State.requestImage_mc_refreshTimer (s : State) (p : Fin 2) (es : List Event) : (s.requestImage p es).mc.refreshTimer = s.mc.refreshTimer := by rw [(requestImage_only s p es).mc]
@[simp] theorem State.requestImage_mc_lastOfThree (s : State) (p : Fin 2) (es : List Event) : (s.requestImage p es).mc.lastOfThree = s.mc.lastOfThree := by rw [(requestImage_only s p es).mc]
@[simp] theorem State.requestImage_mc_scrubNext (s : State) (p : Fin 2) (es : List Event) : (s.requestImage p es).mc.scrubNext = s.mc.scrubNext := by rw [(requestImage_only s p es).mc]
@[simp] theorem State.requestImage_base (s : State) (p : Fin 2) (es : List Event) : (s.requestImage p es).base = s.base := by simp [State.base]

/-! ## requestMeter -/

@[simp] theorem State.requestMeter_mclk (s : State) (l : Fin 8) : (s.requestMeter l).mclk = s.mclk := (requestMeter_only s l).mclk
@[simp] theorem State.requestMeter_hrstn (s : State) (l : Fin 8) : (s.requestMeter l).hrstn = s.hrstn := (requestMeter_only s l).hrstn
@[simp] theorem State.requestMeter_phase (s : State) (l : Fin 8) : (s.requestMeter l).phase = s.phase := (requestMeter_only s l).phase
@[simp] theorem State.requestMeter_mem (s : State) (l : Fin 8) : (s.requestMeter l).mem = s.mem := (requestMeter_only s l).mem
@[simp] theorem State.requestMeter_pp (s : State) (l : Fin 8) : (s.requestMeter l).pp = s.pp := (requestMeter_only s l).pp
@[simp] theorem State.requestMeter_rw (s : State) (l : Fin 8) : (s.requestMeter l).rw = s.rw := (requestMeter_only s l).rw
@[simp] theorem State.requestMeter_se (s : State) (l : Fin 8) : (s.requestMeter l).se = s.se := (requestMeter_only s l).se
@[simp] theorem State.requestMeter_cu (s : State) (l : Fin 8) : (s.requestMeter l).cu = s.cu := (requestMeter_only s l).cu
@[simp] theorem State.requestMeter_cb (s : State) (l : Fin 8) : (s.requestMeter l).cb = s.cb := (requestMeter_only s l).cb
@[simp] theorem State.requestMeter_li (s : State) (l : Fin 8) : (s.requestMeter l).li = s.li := (requestMeter_only s l).li
@[simp] theorem State.requestMeter_si (s : State) (l : Fin 8) : (s.requestMeter l).si = s.si := (requestMeter_only s l).si
@[simp] theorem State.requestMeter_mu (s : State) (l : Fin 8) : (s.requestMeter l).mu = s.mu := (requestMeter_only s l).mu
@[simp] theorem State.requestMeter_pending (s : State) (l : Fin 8) : (s.requestMeter l).pending = s.pending := (requestMeter_only s l).pending
@[simp] theorem State.requestMeter_stream (s : State) (l : Fin 8) (j : Fin 32) : (s.requestMeter l).stream j = s.stream j := by simp [State.stream]
@[simp] theorem State.requestMeter_entry (s : State) (l : Fin 8) (j : Fin 32) : (s.requestMeter l).entry j = s.entry j := by simp [State.entry]
@[simp] theorem State.requestMeter_domain (s : State) (l : Fin 8) (j : Fin 4) : (s.requestMeter l).domain j = s.domain j := by simp [State.domain]
@[simp] theorem State.requestMeter_input (s : State) (l : Fin 8) (j : Fin 2) : (s.requestMeter l).input j = s.input j := by simp [State.input]
@[simp] theorem State.requestMeter_output (s : State) (l : Fin 8) (j : Fin 4) : (s.requestMeter l).output j = s.output j := by simp [State.output]
@[simp] theorem State.requestMeter_osc (s : State) (l : Fin 8) (j : Osc) : (s.requestMeter l).osc j = s.osc j := by cases j <;> simp [State.osc]
@[simp] theorem State.requestMeter_lane (s : State) (l : Fin 8) (j : Fin 8) : (s.requestMeter l).lane j = s.lane j := by simp [State.lane]
@[simp] theorem State.requestMeter_port (s : State) (l : Fin 8) (j : Fin 2) : (s.requestMeter l).port j = s.port j := by simp [State.port]
@[simp] theorem State.requestMeter_window (s : State) (l : Fin 8) (j : Fin 8) : (s.requestMeter l).window j = s.window j := by simp [State.window]
@[simp] theorem State.requestMeter_mc_size (s : State) (l : Fin 8) : (s.requestMeter l).mc.size = s.mc.size := by rw [(requestMeter_only s l).mc]
@[simp] theorem State.requestMeter_mc_refreshPending (s : State) (l : Fin 8) : (s.requestMeter l).mc.refreshPending = s.mc.refreshPending := by rw [(requestMeter_only s l).mc]
@[simp] theorem State.requestMeter_mc_refreshTimer (s : State) (l : Fin 8) : (s.requestMeter l).mc.refreshTimer = s.mc.refreshTimer := by rw [(requestMeter_only s l).mc]
@[simp] theorem State.requestMeter_mc_lastOfThree (s : State) (l : Fin 8) : (s.requestMeter l).mc.lastOfThree = s.mc.lastOfThree := by rw [(requestMeter_only s l).mc]
@[simp] theorem State.requestMeter_mc_scrubNext (s : State) (l : Fin 8) : (s.requestMeter l).mc.scrubNext = s.mc.scrubNext := by rw [(requestMeter_only s l).mc]
@[simp] theorem State.requestMeter_base (s : State) (l : Fin 8) : (s.requestMeter l).base = s.base := by simp [State.base]

/-! ## raiseEventsLost -/

@[simp] theorem State.raiseEventsLost_mclk (s : State) : (s.raiseEventsLost).mclk = s.mclk := (raiseEventsLost_only s).mclk
@[simp] theorem State.raiseEventsLost_hrstn (s : State) : (s.raiseEventsLost).hrstn = s.hrstn := (raiseEventsLost_only s).hrstn
@[simp] theorem State.raiseEventsLost_phase (s : State) : (s.raiseEventsLost).phase = s.phase := (raiseEventsLost_only s).phase
@[simp] theorem State.raiseEventsLost_mem (s : State) : (s.raiseEventsLost).mem = s.mem := (raiseEventsLost_only s).mem
@[simp] theorem State.raiseEventsLost_pp (s : State) : (s.raiseEventsLost).pp = s.pp := (raiseEventsLost_only s).pp
@[simp] theorem State.raiseEventsLost_rw (s : State) : (s.raiseEventsLost).rw = s.rw := (raiseEventsLost_only s).rw
@[simp] theorem State.raiseEventsLost_se (s : State) : (s.raiseEventsLost).se = s.se := (raiseEventsLost_only s).se
@[simp] theorem State.raiseEventsLost_cu (s : State) : (s.raiseEventsLost).cu = s.cu := (raiseEventsLost_only s).cu
@[simp] theorem State.raiseEventsLost_cb (s : State) : (s.raiseEventsLost).cb = s.cb := (raiseEventsLost_only s).cb
@[simp] theorem State.raiseEventsLost_li (s : State) : (s.raiseEventsLost).li = s.li := (raiseEventsLost_only s).li
@[simp] theorem State.raiseEventsLost_si (s : State) : (s.raiseEventsLost).si = s.si := (raiseEventsLost_only s).si
@[simp] theorem State.raiseEventsLost_mu (s : State) : (s.raiseEventsLost).mu = s.mu := (raiseEventsLost_only s).mu
@[simp] theorem State.raiseEventsLost_pending (s : State) : (s.raiseEventsLost).pending = s.pending := (raiseEventsLost_only s).pending
@[simp] theorem State.raiseEventsLost_stream (s : State) (j : Fin 32) : (s.raiseEventsLost).stream j = s.stream j := by simp [State.stream]
@[simp] theorem State.raiseEventsLost_entry (s : State) (j : Fin 32) : (s.raiseEventsLost).entry j = s.entry j := by simp [State.entry]
@[simp] theorem State.raiseEventsLost_domain (s : State) (j : Fin 4) : (s.raiseEventsLost).domain j = s.domain j := by simp [State.domain]
@[simp] theorem State.raiseEventsLost_input (s : State) (j : Fin 2) : (s.raiseEventsLost).input j = s.input j := by simp [State.input]
@[simp] theorem State.raiseEventsLost_output (s : State) (j : Fin 4) : (s.raiseEventsLost).output j = s.output j := by simp [State.output]
@[simp] theorem State.raiseEventsLost_osc (s : State) (j : Osc) : (s.raiseEventsLost).osc j = s.osc j := by cases j <;> simp [State.osc]
@[simp] theorem State.raiseEventsLost_lane (s : State) (j : Fin 8) : (s.raiseEventsLost).lane j = s.lane j := by simp [State.lane]
@[simp] theorem State.raiseEventsLost_port (s : State) (j : Fin 2) : (s.raiseEventsLost).port j = s.port j := by simp [State.port]
@[simp] theorem State.raiseEventsLost_window (s : State) (j : Fin 8) : (s.raiseEventsLost).window j = s.window j := by simp [State.window]
@[simp] theorem State.raiseEventsLost_mc_size (s : State) : (s.raiseEventsLost).mc.size = s.mc.size := by rw [(raiseEventsLost_only s).mc]
@[simp] theorem State.raiseEventsLost_mc_refreshPending (s : State) : (s.raiseEventsLost).mc.refreshPending = s.mc.refreshPending := by rw [(raiseEventsLost_only s).mc]
@[simp] theorem State.raiseEventsLost_mc_refreshTimer (s : State) : (s.raiseEventsLost).mc.refreshTimer = s.mc.refreshTimer := by rw [(raiseEventsLost_only s).mc]
@[simp] theorem State.raiseEventsLost_mc_lastOfThree (s : State) : (s.raiseEventsLost).mc.lastOfThree = s.mc.lastOfThree := by rw [(raiseEventsLost_only s).mc]
@[simp] theorem State.raiseEventsLost_mc_scrubNext (s : State) : (s.raiseEventsLost).mc.scrubNext = s.mc.scrubNext := by rw [(raiseEventsLost_only s).mc]
@[simp] theorem State.raiseEventsLost_base (s : State) : (s.raiseEventsLost).base = s.base := by simp [State.base]

/-! ## takeMarkWritten -/

@[simp] theorem State.takeMarkWritten_mclk (s : State) (m : BitVec 10) : (s.takeMarkWritten m).mclk = s.mclk := (takeMarkWritten_only s m).mclk
@[simp] theorem State.takeMarkWritten_hrstn (s : State) (m : BitVec 10) : (s.takeMarkWritten m).hrstn = s.hrstn := (takeMarkWritten_only s m).hrstn
@[simp] theorem State.takeMarkWritten_phase (s : State) (m : BitVec 10) : (s.takeMarkWritten m).phase = s.phase := (takeMarkWritten_only s m).phase
@[simp] theorem State.takeMarkWritten_mem (s : State) (m : BitVec 10) : (s.takeMarkWritten m).mem = s.mem := (takeMarkWritten_only s m).mem
@[simp] theorem State.takeMarkWritten_pp (s : State) (m : BitVec 10) : (s.takeMarkWritten m).pp = s.pp := (takeMarkWritten_only s m).pp
@[simp] theorem State.takeMarkWritten_rw (s : State) (m : BitVec 10) : (s.takeMarkWritten m).rw = s.rw := (takeMarkWritten_only s m).rw
@[simp] theorem State.takeMarkWritten_se (s : State) (m : BitVec 10) : (s.takeMarkWritten m).se = s.se := (takeMarkWritten_only s m).se
@[simp] theorem State.takeMarkWritten_cu (s : State) (m : BitVec 10) : (s.takeMarkWritten m).cu = s.cu := (takeMarkWritten_only s m).cu
@[simp] theorem State.takeMarkWritten_cb (s : State) (m : BitVec 10) : (s.takeMarkWritten m).cb = s.cb := (takeMarkWritten_only s m).cb
@[simp] theorem State.takeMarkWritten_li (s : State) (m : BitVec 10) : (s.takeMarkWritten m).li = s.li := (takeMarkWritten_only s m).li
@[simp] theorem State.takeMarkWritten_si (s : State) (m : BitVec 10) : (s.takeMarkWritten m).si = s.si := (takeMarkWritten_only s m).si
@[simp] theorem State.takeMarkWritten_mu (s : State) (m : BitVec 10) : (s.takeMarkWritten m).mu = s.mu := (takeMarkWritten_only s m).mu
@[simp] theorem State.takeMarkWritten_pending (s : State) (m : BitVec 10) : (s.takeMarkWritten m).pending = s.pending := (takeMarkWritten_only s m).pending
@[simp] theorem State.takeMarkWritten_stream (s : State) (m : BitVec 10) (j : Fin 32) : (s.takeMarkWritten m).stream j = s.stream j := by simp [State.stream]
@[simp] theorem State.takeMarkWritten_entry (s : State) (m : BitVec 10) (j : Fin 32) : (s.takeMarkWritten m).entry j = s.entry j := by simp [State.entry]
@[simp] theorem State.takeMarkWritten_domain (s : State) (m : BitVec 10) (j : Fin 4) : (s.takeMarkWritten m).domain j = s.domain j := by simp [State.domain]
@[simp] theorem State.takeMarkWritten_input (s : State) (m : BitVec 10) (j : Fin 2) : (s.takeMarkWritten m).input j = s.input j := by simp [State.input]
@[simp] theorem State.takeMarkWritten_output (s : State) (m : BitVec 10) (j : Fin 4) : (s.takeMarkWritten m).output j = s.output j := by simp [State.output]
@[simp] theorem State.takeMarkWritten_osc (s : State) (m : BitVec 10) (j : Osc) : (s.takeMarkWritten m).osc j = s.osc j := by cases j <;> simp [State.osc]
@[simp] theorem State.takeMarkWritten_lane (s : State) (m : BitVec 10) (j : Fin 8) : (s.takeMarkWritten m).lane j = s.lane j := by simp [State.lane]
@[simp] theorem State.takeMarkWritten_port (s : State) (m : BitVec 10) (j : Fin 2) : (s.takeMarkWritten m).port j = s.port j := by simp [State.port]
@[simp] theorem State.takeMarkWritten_window (s : State) (m : BitVec 10) (j : Fin 8) : (s.takeMarkWritten m).window j = s.window j := by simp [State.window]
@[simp] theorem State.takeMarkWritten_mc_size (s : State) (m : BitVec 10) : (s.takeMarkWritten m).mc.size = s.mc.size := by rw [(takeMarkWritten_only s m).mc]
@[simp] theorem State.takeMarkWritten_mc_refreshPending (s : State) (m : BitVec 10) : (s.takeMarkWritten m).mc.refreshPending = s.mc.refreshPending := by rw [(takeMarkWritten_only s m).mc]
@[simp] theorem State.takeMarkWritten_mc_refreshTimer (s : State) (m : BitVec 10) : (s.takeMarkWritten m).mc.refreshTimer = s.mc.refreshTimer := by rw [(takeMarkWritten_only s m).mc]
@[simp] theorem State.takeMarkWritten_mc_lastOfThree (s : State) (m : BitVec 10) : (s.takeMarkWritten m).mc.lastOfThree = s.mc.lastOfThree := by rw [(takeMarkWritten_only s m).mc]
@[simp] theorem State.takeMarkWritten_mc_scrubNext (s : State) (m : BitVec 10) : (s.takeMarkWritten m).mc.scrubNext = s.mc.scrubNext := by rw [(takeMarkWritten_only s m).mc]
@[simp] theorem State.takeMarkWritten_base (s : State) (m : BitVec 10) : (s.takeMarkWritten m).base = s.base := by simp [State.base]

/-! ## maskWritten -/

@[simp] theorem State.maskWritten_mclk (s : State) (w : Word) : (s.maskWritten w).mclk = s.mclk := (maskWritten_only s w).mclk
@[simp] theorem State.maskWritten_hrstn (s : State) (w : Word) : (s.maskWritten w).hrstn = s.hrstn := (maskWritten_only s w).hrstn
@[simp] theorem State.maskWritten_phase (s : State) (w : Word) : (s.maskWritten w).phase = s.phase := (maskWritten_only s w).phase
@[simp] theorem State.maskWritten_mem (s : State) (w : Word) : (s.maskWritten w).mem = s.mem := (maskWritten_only s w).mem
@[simp] theorem State.maskWritten_pp (s : State) (w : Word) : (s.maskWritten w).pp = s.pp := (maskWritten_only s w).pp
@[simp] theorem State.maskWritten_rw (s : State) (w : Word) : (s.maskWritten w).rw = s.rw := (maskWritten_only s w).rw
@[simp] theorem State.maskWritten_se (s : State) (w : Word) : (s.maskWritten w).se = s.se := (maskWritten_only s w).se
@[simp] theorem State.maskWritten_cu (s : State) (w : Word) : (s.maskWritten w).cu = s.cu := (maskWritten_only s w).cu
@[simp] theorem State.maskWritten_cb (s : State) (w : Word) : (s.maskWritten w).cb = s.cb := (maskWritten_only s w).cb
@[simp] theorem State.maskWritten_li (s : State) (w : Word) : (s.maskWritten w).li = s.li := (maskWritten_only s w).li
@[simp] theorem State.maskWritten_si (s : State) (w : Word) : (s.maskWritten w).si = s.si := (maskWritten_only s w).si
@[simp] theorem State.maskWritten_mu (s : State) (w : Word) : (s.maskWritten w).mu = s.mu := (maskWritten_only s w).mu
@[simp] theorem State.maskWritten_pending (s : State) (w : Word) : (s.maskWritten w).pending = s.pending := (maskWritten_only s w).pending
@[simp] theorem State.maskWritten_stream (s : State) (w : Word) (j : Fin 32) : (s.maskWritten w).stream j = s.stream j := by simp [State.stream]
@[simp] theorem State.maskWritten_entry (s : State) (w : Word) (j : Fin 32) : (s.maskWritten w).entry j = s.entry j := by simp [State.entry]
@[simp] theorem State.maskWritten_domain (s : State) (w : Word) (j : Fin 4) : (s.maskWritten w).domain j = s.domain j := by simp [State.domain]
@[simp] theorem State.maskWritten_input (s : State) (w : Word) (j : Fin 2) : (s.maskWritten w).input j = s.input j := by simp [State.input]
@[simp] theorem State.maskWritten_output (s : State) (w : Word) (j : Fin 4) : (s.maskWritten w).output j = s.output j := by simp [State.output]
@[simp] theorem State.maskWritten_osc (s : State) (w : Word) (j : Osc) : (s.maskWritten w).osc j = s.osc j := by cases j <;> simp [State.osc]
@[simp] theorem State.maskWritten_lane (s : State) (w : Word) (j : Fin 8) : (s.maskWritten w).lane j = s.lane j := by simp [State.lane]
@[simp] theorem State.maskWritten_port (s : State) (w : Word) (j : Fin 2) : (s.maskWritten w).port j = s.port j := by simp [State.port]
@[simp] theorem State.maskWritten_window (s : State) (w : Word) (j : Fin 8) : (s.maskWritten w).window j = s.window j := by simp [State.window]
@[simp] theorem State.maskWritten_mc_size (s : State) (w : Word) : (s.maskWritten w).mc.size = s.mc.size := by rw [(maskWritten_only s w).mc]
@[simp] theorem State.maskWritten_mc_refreshPending (s : State) (w : Word) : (s.maskWritten w).mc.refreshPending = s.mc.refreshPending := by rw [(maskWritten_only s w).mc]
@[simp] theorem State.maskWritten_mc_refreshTimer (s : State) (w : Word) : (s.maskWritten w).mc.refreshTimer = s.mc.refreshTimer := by rw [(maskWritten_only s w).mc]
@[simp] theorem State.maskWritten_mc_lastOfThree (s : State) (w : Word) : (s.maskWritten w).mc.lastOfThree = s.mc.lastOfThree := by rw [(maskWritten_only s w).mc]
@[simp] theorem State.maskWritten_mc_scrubNext (s : State) (w : Word) : (s.maskWritten w).mc.scrubNext = s.mc.scrubNext := by rw [(maskWritten_only s w).mc]
@[simp] theorem State.maskWritten_base (s : State) (w : Word) : (s.maskWritten w).base = s.base := by simp [State.base]

/-! ## reportStream -/

@[simp] theorem State.reportStream_mclk (s : State) (i : Fin 32) (e : Event) : (s.reportStream i e).mclk = s.mclk := (reportStream_only s i e).mclk
@[simp] theorem State.reportStream_hrstn (s : State) (i : Fin 32) (e : Event) : (s.reportStream i e).hrstn = s.hrstn := (reportStream_only s i e).hrstn
@[simp] theorem State.reportStream_phase (s : State) (i : Fin 32) (e : Event) : (s.reportStream i e).phase = s.phase := (reportStream_only s i e).phase
@[simp] theorem State.reportStream_mem (s : State) (i : Fin 32) (e : Event) : (s.reportStream i e).mem = s.mem := (reportStream_only s i e).mem
@[simp] theorem State.reportStream_pp (s : State) (i : Fin 32) (e : Event) : (s.reportStream i e).pp = s.pp := (reportStream_only s i e).pp
@[simp] theorem State.reportStream_rw (s : State) (i : Fin 32) (e : Event) : (s.reportStream i e).rw = s.rw := (reportStream_only s i e).rw
@[simp] theorem State.reportStream_se (s : State) (i : Fin 32) (e : Event) : (s.reportStream i e).se = s.se := (reportStream_only s i e).se
@[simp] theorem State.reportStream_cu (s : State) (i : Fin 32) (e : Event) : (s.reportStream i e).cu = s.cu := (reportStream_only s i e).cu
@[simp] theorem State.reportStream_cb (s : State) (i : Fin 32) (e : Event) : (s.reportStream i e).cb = s.cb := (reportStream_only s i e).cb
@[simp] theorem State.reportStream_li (s : State) (i : Fin 32) (e : Event) : (s.reportStream i e).li = s.li := (reportStream_only s i e).li
@[simp] theorem State.reportStream_si (s : State) (i : Fin 32) (e : Event) : (s.reportStream i e).si = s.si := (reportStream_only s i e).si
@[simp] theorem State.reportStream_mu (s : State) (i : Fin 32) (e : Event) : (s.reportStream i e).mu = s.mu := (reportStream_only s i e).mu
@[simp] theorem State.reportStream_pending (s : State) (i : Fin 32) (e : Event) : (s.reportStream i e).pending = s.pending := (reportStream_only s i e).pending
@[simp] theorem State.reportStream_stream (s : State) (i : Fin 32) (e : Event) (j : Fin 32) : (s.reportStream i e).stream j = s.stream j := by simp [State.stream]
@[simp] theorem State.reportStream_entry (s : State) (i : Fin 32) (e : Event) (j : Fin 32) : (s.reportStream i e).entry j = s.entry j := by simp [State.entry]
@[simp] theorem State.reportStream_domain (s : State) (i : Fin 32) (e : Event) (j : Fin 4) : (s.reportStream i e).domain j = s.domain j := by simp [State.domain]
@[simp] theorem State.reportStream_input (s : State) (i : Fin 32) (e : Event) (j : Fin 2) : (s.reportStream i e).input j = s.input j := by simp [State.input]
@[simp] theorem State.reportStream_output (s : State) (i : Fin 32) (e : Event) (j : Fin 4) : (s.reportStream i e).output j = s.output j := by simp [State.output]
@[simp] theorem State.reportStream_osc (s : State) (i : Fin 32) (e : Event) (j : Osc) : (s.reportStream i e).osc j = s.osc j := by cases j <;> simp [State.osc]
@[simp] theorem State.reportStream_lane (s : State) (i : Fin 32) (e : Event) (j : Fin 8) : (s.reportStream i e).lane j = s.lane j := by simp [State.lane]
@[simp] theorem State.reportStream_port (s : State) (i : Fin 32) (e : Event) (j : Fin 2) : (s.reportStream i e).port j = s.port j := by simp [State.port]
@[simp] theorem State.reportStream_window (s : State) (i : Fin 32) (e : Event) (j : Fin 8) : (s.reportStream i e).window j = s.window j := by simp [State.window]
@[simp] theorem State.reportStream_mc_size (s : State) (i : Fin 32) (e : Event) : (s.reportStream i e).mc.size = s.mc.size := by rw [(reportStream_only s i e).mc]
@[simp] theorem State.reportStream_mc_refreshPending (s : State) (i : Fin 32) (e : Event) : (s.reportStream i e).mc.refreshPending = s.mc.refreshPending := by rw [(reportStream_only s i e).mc]
@[simp] theorem State.reportStream_mc_refreshTimer (s : State) (i : Fin 32) (e : Event) : (s.reportStream i e).mc.refreshTimer = s.mc.refreshTimer := by rw [(reportStream_only s i e).mc]
@[simp] theorem State.reportStream_mc_lastOfThree (s : State) (i : Fin 32) (e : Event) : (s.reportStream i e).mc.lastOfThree = s.mc.lastOfThree := by rw [(reportStream_only s i e).mc]
@[simp] theorem State.reportStream_mc_scrubNext (s : State) (i : Fin 32) (e : Event) : (s.reportStream i e).mc.scrubNext = s.mc.scrubNext := by rw [(reportStream_only s i e).mc]
@[simp] theorem State.reportStream_base (s : State) (i : Fin 32) (e : Event) : (s.reportStream i e).base = s.base := by simp [State.base]

/-! ## periodEvent -/

@[simp] theorem State.periodEvent_mclk (s : State) (k : EventKind) (i : Fin 32) (p : Nat) (d1 : Word) : (s.periodEvent k i p d1).mclk = s.mclk := (periodEvent_only s k i p d1).mclk
@[simp] theorem State.periodEvent_hrstn (s : State) (k : EventKind) (i : Fin 32) (p : Nat) (d1 : Word) : (s.periodEvent k i p d1).hrstn = s.hrstn := (periodEvent_only s k i p d1).hrstn
@[simp] theorem State.periodEvent_phase (s : State) (k : EventKind) (i : Fin 32) (p : Nat) (d1 : Word) : (s.periodEvent k i p d1).phase = s.phase := (periodEvent_only s k i p d1).phase
@[simp] theorem State.periodEvent_mem (s : State) (k : EventKind) (i : Fin 32) (p : Nat) (d1 : Word) : (s.periodEvent k i p d1).mem = s.mem := (periodEvent_only s k i p d1).mem
@[simp] theorem State.periodEvent_pp (s : State) (k : EventKind) (i : Fin 32) (p : Nat) (d1 : Word) : (s.periodEvent k i p d1).pp = s.pp := (periodEvent_only s k i p d1).pp
@[simp] theorem State.periodEvent_rw (s : State) (k : EventKind) (i : Fin 32) (p : Nat) (d1 : Word) : (s.periodEvent k i p d1).rw = s.rw := (periodEvent_only s k i p d1).rw
@[simp] theorem State.periodEvent_se (s : State) (k : EventKind) (i : Fin 32) (p : Nat) (d1 : Word) : (s.periodEvent k i p d1).se = s.se := (periodEvent_only s k i p d1).se
@[simp] theorem State.periodEvent_cu (s : State) (k : EventKind) (i : Fin 32) (p : Nat) (d1 : Word) : (s.periodEvent k i p d1).cu = s.cu := (periodEvent_only s k i p d1).cu
@[simp] theorem State.periodEvent_cb (s : State) (k : EventKind) (i : Fin 32) (p : Nat) (d1 : Word) : (s.periodEvent k i p d1).cb = s.cb := (periodEvent_only s k i p d1).cb
@[simp] theorem State.periodEvent_li (s : State) (k : EventKind) (i : Fin 32) (p : Nat) (d1 : Word) : (s.periodEvent k i p d1).li = s.li := (periodEvent_only s k i p d1).li
@[simp] theorem State.periodEvent_si (s : State) (k : EventKind) (i : Fin 32) (p : Nat) (d1 : Word) : (s.periodEvent k i p d1).si = s.si := (periodEvent_only s k i p d1).si
@[simp] theorem State.periodEvent_mu (s : State) (k : EventKind) (i : Fin 32) (p : Nat) (d1 : Word) : (s.periodEvent k i p d1).mu = s.mu := (periodEvent_only s k i p d1).mu
@[simp] theorem State.periodEvent_pending (s : State) (k : EventKind) (i : Fin 32) (p : Nat) (d1 : Word) : (s.periodEvent k i p d1).pending = s.pending := (periodEvent_only s k i p d1).pending
@[simp] theorem State.periodEvent_stream (s : State) (k : EventKind) (i : Fin 32) (p : Nat) (d1 : Word) (j : Fin 32) : (s.periodEvent k i p d1).stream j = s.stream j := by simp [State.stream]
@[simp] theorem State.periodEvent_entry (s : State) (k : EventKind) (i : Fin 32) (p : Nat) (d1 : Word) (j : Fin 32) : (s.periodEvent k i p d1).entry j = s.entry j := by simp [State.entry]
@[simp] theorem State.periodEvent_domain (s : State) (k : EventKind) (i : Fin 32) (p : Nat) (d1 : Word) (j : Fin 4) : (s.periodEvent k i p d1).domain j = s.domain j := by simp [State.domain]
@[simp] theorem State.periodEvent_input (s : State) (k : EventKind) (i : Fin 32) (p : Nat) (d1 : Word) (j : Fin 2) : (s.periodEvent k i p d1).input j = s.input j := by simp [State.input]
@[simp] theorem State.periodEvent_output (s : State) (k : EventKind) (i : Fin 32) (p : Nat) (d1 : Word) (j : Fin 4) : (s.periodEvent k i p d1).output j = s.output j := by simp [State.output]
@[simp] theorem State.periodEvent_osc (s : State) (k : EventKind) (i : Fin 32) (p : Nat) (d1 : Word) (j : Osc) : (s.periodEvent k i p d1).osc j = s.osc j := by cases j <;> simp [State.osc]
@[simp] theorem State.periodEvent_lane (s : State) (k : EventKind) (i : Fin 32) (p : Nat) (d1 : Word) (j : Fin 8) : (s.periodEvent k i p d1).lane j = s.lane j := by simp [State.lane]
@[simp] theorem State.periodEvent_port (s : State) (k : EventKind) (i : Fin 32) (p : Nat) (d1 : Word) (j : Fin 2) : (s.periodEvent k i p d1).port j = s.port j := by simp [State.port]
@[simp] theorem State.periodEvent_window (s : State) (k : EventKind) (i : Fin 32) (p : Nat) (d1 : Word) (j : Fin 8) : (s.periodEvent k i p d1).window j = s.window j := by simp [State.window]
@[simp] theorem State.periodEvent_mc_size (s : State) (k : EventKind) (i : Fin 32) (p : Nat) (d1 : Word) : (s.periodEvent k i p d1).mc.size = s.mc.size := by rw [(periodEvent_only s k i p d1).mc]
@[simp] theorem State.periodEvent_mc_refreshPending (s : State) (k : EventKind) (i : Fin 32) (p : Nat) (d1 : Word) : (s.periodEvent k i p d1).mc.refreshPending = s.mc.refreshPending := by rw [(periodEvent_only s k i p d1).mc]
@[simp] theorem State.periodEvent_mc_refreshTimer (s : State) (k : EventKind) (i : Fin 32) (p : Nat) (d1 : Word) : (s.periodEvent k i p d1).mc.refreshTimer = s.mc.refreshTimer := by rw [(periodEvent_only s k i p d1).mc]
@[simp] theorem State.periodEvent_mc_lastOfThree (s : State) (k : EventKind) (i : Fin 32) (p : Nat) (d1 : Word) : (s.periodEvent k i p d1).mc.lastOfThree = s.mc.lastOfThree := by rw [(periodEvent_only s k i p d1).mc]
@[simp] theorem State.periodEvent_mc_scrubNext (s : State) (k : EventKind) (i : Fin 32) (p : Nat) (d1 : Word) : (s.periodEvent k i p d1).mc.scrubNext = s.mc.scrubNext := by rw [(periodEvent_only s k i p d1).mc]
@[simp] theorem State.periodEvent_base (s : State) (k : EventKind) (i : Fin 32) (p : Nat) (d1 : Word) : (s.periodEvent k i p d1).base = s.base := by simp [State.base]

end Sys2Proof.Machine
end

