-- ==== Sys2Proof/Laws/Engine.lean ====
section
/-! SUPPORT. What the Stream Engine's operations leave alone (`EngineOnly`). -/

namespace Sys2Proof.Machine

set_option linter.unusedTactic false
set_option linter.unreachableTactic false
set_option linter.unusedSimpArgs false

theorem EngineOnly.refl (s : State) : EngineOnly s s := by constructor <;> intros <;> rfl

theorem EngineOnly.trans {s t u : State} (a : EngineOnly s t) (b : EngineOnly t u) : EngineOnly s u := by
  constructor
  · rw [b.mclk, a.mclk]
  · rw [b.hrstn, a.hrstn]
  · rw [b.phase, a.phase]
  · rw [b.pp, a.pp]
  · rw [b.cu, a.cu]
  · rw [b.cb, a.cb]
  · rw [b.si, a.si]
  · rw [b.mu, a.mu]
  · rw [b.pending, a.pending]
  · rw [b.mc, a.mc]
  · rw [b.atBoundary, a.atBoundary]
  · intro l; rw [b.lanes l, a.lanes l]

theorem EngineOnly.ofReport {s t : State} (a : ReportOnly s t) : EngineOnly s t :=
  ⟨a.mclk, a.hrstn, a.phase, a.pp, a.cu, a.cb, a.si, a.mu, a.pending, a.mc, by rw [a.li], by
    intro l; simp only [State.lane, a.li]⟩

theorem engine_foldl {α : Type} {f : State → α → State} {s0 : State} (hf : ∀ s a, EngineOnly s0 s → EngineOnly s0 (f s a))
    (l : List α) {s : State} (h : EngineOnly s0 s) : EngineOnly s0 (l.foldl f s) := by
  induction l generalizing s with
  | nil => exact h
  | cons a l ih => exact ih (hf s a h)

variable {s0 s : State}

/-! ## The writers the engine uses -/

@[simp] theorem engine_setStream (h : EngineOnly s0 s) (i : Fin 32) (x : Stream) : EngineOnly s0 (s.setStream i x) :=
  h.trans (by constructor <;> intros <;> rfl)
@[simp] theorem engine_setEntry (h : EngineOnly s0 s) (i : Fin 32) (e : Option RingEntry) : EngineOnly s0 (s.setEntry i e) :=
  h.trans (by constructor <;> intros <;> rfl)
@[simp] theorem engine_setSlotMap (h : EngineOnly s0 s) (dir : Direction) (l : Fin 8) (m : SlotMap) :
    EngineOnly s0 (s.setSlotMap dir l m) := h.trans (by cases dir <;> constructor <;> intros <;> rfl)
@[simp] theorem engine_writeWords (h : EngineOnly s0 s) (a : Nat) (ws : List Word) :
    EngineOnly s0 { s with mem := s.mem.writeWords a ws } := h.trans (by constructor <;> intros <;> rfl)

/-- A lane's record changes in its staging and its late allowances alone. -/
theorem engine_setLane (h : EngineOnly s0 s) (l : Fin 8) (x : Lane) (hx : x = { s.lane l with
    outbound := x.outbound, inbound := x.inbound, lateOut := x.lateOut, lateIn := x.lateIn }) :
    EngineOnly s0 (s.setLane l x) := by
  refine h.trans ?_
  constructor <;> try rfl
  intro k
  by_cases hk : l = k
  · subst hk; rw [State.lane_setLane_self]; exact hx
  · rw [State.lane_setLane_of_ne s x hk]

theorem engine_mapLane (h : EngineOnly s0 s) (l : Fin 8) (f : Lane → Lane) (hf : ∀ x, f x = { x with
    outbound := (f x).outbound, inbound := (f x).inbound, lateOut := (f x).lateOut, lateIn := (f x).lateIn }) :
    EngineOnly s0 (s.mapLane l f) := engine_setLane h l _ (hf _)


@[simp] theorem engine_request (h : EngineOnly s0 s) (id : RecordId) : EngineOnly s0 (s.request id) := h.trans (.ofReport (request_only _ id))

@[simp] theorem engine_passEvent (h : EngineOnly s0 s) (e : Event) : EngineOnly s0 (s.passEvent e) := h.trans (.ofReport (passEvent_only _ e))

@[simp] theorem engine_periodEvent (h : EngineOnly s0 s) (k : EventKind) (i : Fin 32) (p : Nat) (d1 : Word) : EngineOnly s0 (s.periodEvent k i p d1) := h.trans (.ofReport (periodEvent_only _ k i p d1))

@[simp] theorem engine_reportStream (h : EngineOnly s0 s) (i : Fin 32) (e : Event) : EngineOnly s0 (s.reportStream i e) := h.trans (.ofReport (reportStream_only _ i e))

@[simp] theorem engine_setPeriod (h : EngineOnly s0 s) (i : Fin 32) (part : RingPart) (p : Nat) (x : PeriodRec) : EngineOnly s0 (s.setPeriod i part p x) := by
  unfold State.setPeriod; (try dsimp only); repeat' split
  all_goals first
    | (simp (maxDischargeDepth := 20) [h]; done)
    | (refine engine_setLane h _ _ ?_; rfl)
    | (refine engine_mapLane h _ _ (fun _ => ?_); rfl)
    | (refine engine_passEvent (engine_setLane h _ _ ?_) _; rfl)

@[simp] theorem engine_wrapRing (h : EngineOnly s0 s) (i : Fin 32) : EngineOnly s0 (s.wrapRing i) := by
  unfold State.wrapRing; (try dsimp only); repeat' split
  all_goals first
    | (simp (maxDischargeDepth := 20) [h]; done)
    | (refine engine_setLane h _ _ ?_; rfl)
    | (refine engine_mapLane h _ _ (fun _ => ?_); rfl)
    | (refine engine_passEvent (engine_setLane h _ _ ?_) _; rfl)

@[simp] theorem engine_removeEntry (h : EngineOnly s0 s) (i : Fin 32) : EngineOnly s0 (s.removeEntry i) := by
  unfold State.removeEntry; (try dsimp only); repeat' split
  all_goals first
    | (simp (maxDischargeDepth := 20) [h]; done)
    | (refine engine_setLane h _ _ ?_; rfl)
    | (refine engine_mapLane h _ _ (fun _ => ?_); rfl)
    | (refine engine_passEvent (engine_setLane h _ _ ?_) _; rfl)

@[simp] theorem engine_beginClaim (h : EngineOnly s0 s) (i : Fin 32) (p : Nat) : EngineOnly s0 ((s.beginClaim i p).1) := by
  unfold State.beginClaim; (try dsimp only); repeat' split
  all_goals first
    | (simp (maxDischargeDepth := 20) [h]; done)
    | (refine engine_setLane h _ _ ?_; rfl)
    | (refine engine_mapLane h _ _ (fun _ => ?_); rfl)
    | (refine engine_passEvent (engine_setLane h _ _ ?_) _; rfl)

@[simp] theorem engine_playedClaim (h : EngineOnly s0 s) (i : Fin 32) (b p : Nat) : EngineOnly s0 (s.playedClaim i b p) := by
  unfold State.playedClaim; (try dsimp only); repeat' split
  all_goals first
    | (simp (maxDischargeDepth := 20) [h]; done)
    | (refine engine_setLane h _ _ ?_; rfl)
    | (refine engine_mapLane h _ _ (fun _ => ?_); rfl)
    | (refine engine_passEvent (engine_setLane h _ _ ?_) _; rfl)

@[simp] theorem engine_firstStoreClaim (h : EngineOnly s0 s) (i : Fin 32) (p : Nat) (q : StreamPolicy) : EngineOnly s0 ((s.firstStoreClaim i p q).1) := by
  unfold State.firstStoreClaim; (try dsimp only); repeat' split
  all_goals first
    | (simp (maxDischargeDepth := 20) [h]; done)
    | (refine engine_setLane h _ _ ?_; rfl)
    | (refine engine_mapLane h _ _ (fun _ => ?_); rfl)
    | (refine engine_passEvent (engine_setLane h _ _ ?_) _; rfl)

@[simp] theorem engine_lastStoreClaim (h : EngineOnly s0 s) (i : Fin 32) (p : Nat) : EngineOnly s0 (s.lastStoreClaim i p) := by
  unfold State.lastStoreClaim; (try dsimp only); repeat' split
  all_goals first
    | (simp (maxDischargeDepth := 20) [h]; done)
    | (refine engine_setLane h _ _ ?_; rfl)
    | (refine engine_mapLane h _ _ (fun _ => ?_); rfl)
    | (refine engine_passEvent (engine_setLane h _ _ ?_) _; rfl)

@[simp] theorem engine_mapStream (h : EngineOnly s0 s) (i : Fin 32) (f : Stream → Stream) : EngineOnly s0 (s.mapStream i f) := by
  unfold State.mapStream; (try dsimp only); repeat' split
  all_goals first
    | (simp (maxDischargeDepth := 20) [h]; done)
    | (refine engine_setLane h _ _ ?_; rfl)
    | (refine engine_mapLane h _ _ (fun _ => ?_); rfl)
    | (refine engine_passEvent (engine_setLane h _ _ ?_) _; rfl)

@[simp] theorem engine_engineLate (h : EngineOnly s0 s) (l : Fin 8) (dir : FlowDir) (n : Word) : EngineOnly s0 (s.engineLate l dir n) := by
  unfold State.engineLate; (try dsimp only); repeat' split
  all_goals first
    | (simp (maxDischargeDepth := 20) [h]; done)
    | (refine engine_setLane h _ _ ?_; rfl)
    | (refine engine_mapLane h _ _ (fun _ => ?_); rfl)
    | (refine engine_passEvent (engine_setLane h _ _ ?_) _; rfl)

@[simp] theorem engine_silence (h : EngineOnly s0 s) (i : Fin 32) : EngineOnly s0 (s.silence i) := by
  unfold State.silence; (try dsimp only); repeat' split
  all_goals first
    | (simp (maxDischargeDepth := 20) [h]; done)
    | (refine engine_setLane h _ _ ?_; rfl)
    | (refine engine_mapLane h _ _ (fun _ => ?_); rfl)
    | (refine engine_passEvent (engine_setLane h _ _ ?_) _; rfl)

@[simp] theorem engine_silenceBeyond (h : EngineOnly s0 s) (i : Fin 32) (c n : Word) : EngineOnly s0 (s.silenceBeyond i c n) := by
  unfold State.silenceBeyond; (try dsimp only); repeat' split
  all_goals first
    | (simp (maxDischargeDepth := 20) [h]; done)
    | (refine engine_setLane h _ _ ?_; rfl)
    | (refine engine_mapLane h _ _ (fun _ => ?_); rfl)
    | (refine engine_passEvent (engine_setLane h _ _ ?_) _; rfl)

@[simp] theorem engine_clearSlots (h : EngineOnly s0 s) (i : Fin 32) : EngineOnly s0 (s.clearSlots i) := by
  unfold State.clearSlots; (try dsimp only); repeat' split
  all_goals first
    | (simp (maxDischargeDepth := 20) [h]; done)
    | (refine engine_setLane h _ _ ?_; rfl)
    | (refine engine_mapLane h _ _ (fun _ => ?_); rfl)
    | (refine engine_passEvent (engine_setLane h _ _ ?_) _; rfl)

@[simp] theorem engine_wrapStream (h : EngineOnly s0 s) (i : Fin 32) : EngineOnly s0 (s.wrapStream i) := by
  unfold State.wrapStream; (try dsimp only); repeat' split
  all_goals first
    | (simp (maxDischargeDepth := 20) [h]; done)
    | (refine engine_setLane h _ _ ?_; rfl)
    | (refine engine_mapLane h _ _ (fun _ => ?_); rfl)
    | (refine engine_passEvent (engine_setLane h _ _ ?_) _; rfl)

@[simp] theorem engine_advance (h : EngineOnly s0 s) (i : Fin 32) : EngineOnly s0 (s.advance i) := by
  unfold State.advance; (try dsimp only); repeat' split
  all_goals first
    | (simp (maxDischargeDepth := 20) [h]; done)
    | (refine engine_setLane h _ _ ?_; rfl)
    | (refine engine_mapLane h _ _ (fun _ => ?_); rfl)
    | (refine engine_passEvent (engine_setLane h _ _ ?_) _; rfl)

@[simp] theorem engine_becomeIdle (h : EngineOnly s0 s) (i : Fin 32) (how : StopHow) : EngineOnly s0 (s.becomeIdle i how) := by
  unfold State.becomeIdle; (try dsimp only); repeat' split
  all_goals first
    | (simp (maxDischargeDepth := 20) [h]; done)
    | (refine engine_setLane h _ _ ?_; rfl)
    | (refine engine_mapLane h _ _ (fun _ => ?_); rfl)
    | (refine engine_passEvent (engine_setLane h _ _ ?_) _; rfl)

@[simp] theorem engine_haltStream (h : EngineOnly s0 s) (i : Fin 32) : EngineOnly s0 (s.haltStream i) := by
  unfold State.haltStream; (try dsimp only); repeat' split
  all_goals first
    | (simp (maxDischargeDepth := 20) [h]; done)
    | (refine engine_setLane h _ _ ?_; rfl)
    | (refine engine_mapLane h _ _ (fun _ => ?_); rfl)
    | (refine engine_passEvent (engine_setLane h _ _ ?_) _; rfl)

@[simp] theorem engine_frameDone (h : EngineOnly s0 s) (i : Fin 32) (n : Word) : EngineOnly s0 (s.frameDone i n) := by
  unfold State.frameDone; (try dsimp only); repeat' split
  all_goals first
    | (simp (maxDischargeDepth := 20) [h]; done)
    | (refine engine_setLane h _ _ ?_; rfl)
    | (refine engine_mapLane h _ _ (fun _ => ?_); rfl)
    | (refine engine_passEvent (engine_setLane h _ _ ?_) _; rfl)

@[simp] theorem engine_dropFrame (h : EngineOnly s0 s) (i : Fin 32) (n : Word) : EngineOnly s0 (s.dropFrame i n) := by
  unfold State.dropFrame; (try dsimp only); repeat' split
  all_goals first
    | (simp (maxDischargeDepth := 20) [h]; done)
    | (refine engine_setLane h _ _ ?_; rfl)
    | (refine engine_mapLane h _ _ (fun _ => ?_); rfl)
    | (refine engine_passEvent (engine_setLane h _ _ ?_) _; rfl)

@[simp] theorem engine_storeBegin (h : EngineOnly s0 s) (i : Fin 32) (n : Word) : EngineOnly s0 ((s.storeBegin i n).1) := by
  unfold State.storeBegin; (try dsimp only); repeat' split
  all_goals first
    | (simp (maxDischargeDepth := 20) [h]; done)
    | (refine engine_setLane h _ _ ?_; rfl)
    | (refine engine_mapLane h _ _ (fun _ => ?_); rfl)
    | (refine engine_passEvent (engine_setLane h _ _ ?_) _; rfl)

@[simp] theorem engine_overflowTake (h : EngineOnly s0 s) (l : Fin 8) (n : Word) : EngineOnly s0 (s.overflowTake l n) :=
  engine_foldl (fun _ _ h => by split <;> simp [h]) _ h

@[simp] theorem engine_leaveInbound (h : EngineOnly s0 s) (l : Fin 8) (f : InboundFrame) :
    EngineOnly s0 (State.leaveInbound l s f) := by
  unfold State.leaveInbound
  dsimp only
  split
  · simp [h]
  · refine engine_mapLane (engine_overflowTake h _ _) _ _ (fun _ => ?_)
    rfl

@[simp] theorem engine_drainInbound (h : EngineOnly s0 s) (l : Fin 8) : EngineOnly s0 (s.drainInbound l) :=
  engine_foldl (fun _ _ h => engine_leaveInbound h _ _) _ h

@[simp] theorem engine_drainLaneOf (h : EngineOnly s0 s) (g : Option Geometry) : EngineOnly s0 (s.drainLaneOf g) := by
  unfold State.drainLaneOf; (try dsimp only); repeat' split
  all_goals first
    | (simp (maxDischargeDepth := 20) [h]; done)
    | (refine engine_setLane h _ _ ?_; rfl)
    | (refine engine_mapLane h _ _ (fun _ => ?_); rfl)
    | (refine engine_passEvent (engine_setLane h _ _ ?_) _; rfl)

@[simp] theorem engine_storeEnd (h : EngineOnly s0 s) (i : Fin 32) (f : InboundFrame) : EngineOnly s0 (s.storeEnd i f) := by
  unfold State.storeEnd; (try dsimp only); repeat' split
  all_goals first
    | (simp (maxDischargeDepth := 20) [h]; done)
    | (refine engine_setLane h _ _ ?_; rfl)
    | (refine engine_mapLane h _ _ (fun _ => ?_); rfl)
    | (refine engine_passEvent (engine_setLane h _ _ ?_) _; rfl)

@[simp] theorem engine_storeWords (h : EngineOnly s0 s) (i : Fin 32) (f : InboundFrame) (k : Nat) : EngineOnly s0 (s.storeWords i f k) := by
  unfold State.storeWords; (try dsimp only); repeat' split
  all_goals first
    | (simp (maxDischargeDepth := 20) [h]; done)
    | (refine engine_setLane h _ _ ?_; rfl)
    | (refine engine_mapLane h _ _ (fun _ => ?_); rfl)
    | (refine engine_passEvent (engine_setLane h _ _ ?_) _; rfl)

@[simp] theorem engine_storeFrame (h : EngineOnly s0 s) (i : Fin 32) (e : Extent) : EngineOnly s0 (s.storeFrame i e) := by
  unfold State.storeFrame; (try dsimp only); repeat' split
  all_goals first
    | (simp (maxDischargeDepth := 20) [h]; done)
    | (refine engine_setLane h _ _ ?_; rfl)
    | (refine engine_mapLane h _ _ (fun _ => ?_); rfl)
    | (refine engine_passEvent (engine_setLane h _ _ ?_) _; rfl)

@[simp] theorem engine_starveFrame (h : EngineOnly s0 s) (i : Fin 32) : EngineOnly s0 (s.starveFrame i) := by
  unfold State.starveFrame; (try dsimp only); repeat' split
  all_goals first
    | (simp (maxDischargeDepth := 20) [h]; done)
    | (refine engine_setLane h _ _ ?_; rfl)
    | (refine engine_mapLane h _ _ (fun _ => ?_); rfl)
    | (refine engine_passEvent (engine_setLane h _ _ ?_) _; rfl)

@[simp] theorem engine_fetchBegin (h : EngineOnly s0 s) (i : Fin 32) : EngineOnly s0 ((s.fetchBegin i).1) := by
  unfold State.fetchBegin; (try dsimp only); repeat' split
  all_goals first
    | (simp (maxDischargeDepth := 20) [h]; done)
    | (refine engine_setLane h _ _ ?_; rfl)
    | (refine engine_mapLane h _ _ (fun _ => ?_); rfl)
    | (refine engine_passEvent (engine_setLane h _ _ ?_) _; rfl)

@[simp] theorem engine_fetchEnd (h : EngineOnly s0 s) (i : Fin 32) (c : Bool) : EngineOnly s0 (s.fetchEnd i c) := by
  unfold State.fetchEnd
  dsimp only
  split
  · exact h
  · split
    · refine engine_mapStream (engine_advance (engine_request (engine_setStream (engine_mapLane h _ _ (fun _ => ?_)) _ _) _) _)
        _ _
      rfl
    · refine engine_mapStream (engine_advance (engine_mapLane h _ _ (fun _ => ?_)) _) _ _
      rfl

@[simp] theorem engine_fetchWords (h : EngineOnly s0 s) (i : Fin 32) (k : Nat) : EngineOnly s0 (s.fetchWords i k) := by
  unfold State.fetchWords
  dsimp only
  split
  · exact h
  · split
    · refine engine_setStream (engine_mapLane h _ _ (fun _ => ?_)) _ _
      rfl
    · refine engine_fetchEnd (engine_mapLane h _ _ (fun _ => ?_)) _ _
      rfl

@[simp] theorem engine_fetchFrame (h : EngineOnly s0 s) (i : Fin 32) (e : Extent) : EngineOnly s0 (s.fetchFrame i e) := by
  unfold State.fetchFrame; (try dsimp only); repeat' split
  all_goals first
    | (simp (maxDischargeDepth := 20) [h]; done)
    | (refine engine_setLane h _ _ ?_; rfl)
    | (refine engine_mapLane h _ _ (fun _ => ?_); rfl)
    | (refine engine_passEvent (engine_setLane h _ _ ?_) _; rfl)

@[simp] theorem engine_leaveUnfetched (h : EngineOnly s0 s) (l : Fin 8) (n : Word) (i : Fin 32) : EngineOnly s0 (s.leaveUnfetched l n i) := by
  unfold State.leaveUnfetched; (try dsimp only); repeat' split
  all_goals first
    | (simp (maxDischargeDepth := 20) [h]; done)
    | (refine engine_setLane h _ _ ?_; rfl)
    | (refine engine_mapLane h _ _ (fun _ => ?_); rfl)
    | (refine engine_passEvent (engine_setLane h _ _ ?_) _; rfl)

@[simp] theorem engine_frameLeft (h : EngineOnly s0 s) (l : Fin 8) (n : Word) : EngineOnly s0 (s.frameLeft l n) := by
  unfold State.frameLeft
  refine engine_foldl (fun s i h => ?_) _ (engine_mapLane (engine_foldl (fun s c h => ?_) _
    (engine_foldl (fun s c h => engine_mapStream h _ _) _ h)) _ _ (fun _ => rfl))
  · repeat' split
    all_goals simp [h]
  · split <;> simp [h]

@[simp] theorem engine_haltLane (h : EngineOnly s0 s) (l : Fin 8) : EngineOnly s0 (s.haltLane l) :=
  engine_drainInbound (engine_foldl (fun _ _ h => engine_haltStream h _) _ h) _

@[simp] theorem engine_placeStop (h : EngineOnly s0 s) (i : Fin 32) (m : StopMode) (n : Word) : EngineOnly s0 (s.placeStop i m n) := by
  unfold State.placeStop; (try dsimp only); repeat' split
  all_goals first
    | (simp (maxDischargeDepth := 20) [h]; done)
    | (refine engine_setLane h _ _ ?_; rfl)
    | (refine engine_mapLane h _ _ (fun _ => ?_); rfl)
    | (refine engine_passEvent (engine_setLane h _ _ ?_) _; rfl)

@[simp] theorem engine_stopAtPeriodEnd (h : EngineOnly s0 s) (i : Fin 32) (g : Geometry) : EngineOnly s0 (s.stopAtPeriodEnd i g) := by
  unfold State.stopAtPeriodEnd; (try dsimp only); repeat' split
  all_goals first
    | (simp (maxDischargeDepth := 20) [h]; done)
    | (refine engine_setLane h _ _ ?_; rfl)
    | (refine engine_mapLane h _ _ (fun _ => ?_); rfl)
    | (refine engine_passEvent (engine_setLane h _ _ ?_) _; rfl)

@[simp] theorem engine_stopNow (h : EngineOnly s0 s) (i : Fin 32) (g : Geometry) (n : Word) : EngineOnly s0 (s.stopNow i g n) := by
  unfold State.stopNow; (try dsimp only); repeat' split
  all_goals first
    | (simp (maxDischargeDepth := 20) [h]; done)
    | (refine engine_setLane h _ _ ?_; rfl)
    | (refine engine_mapLane h _ _ (fun _ => ?_); rfl)
    | (refine engine_passEvent (engine_setLane h _ _ ?_) _; rfl)

@[simp] theorem engine_placeInbound (h : EngineOnly s0 s) (l : Fin 8) (n : Word) (k : InboundKind) :
    EngineOnly s0 (s.placeInbound l n k) := by
  unfold State.placeInbound
  dsimp only
  split
  · refine engine_drainInbound (engine_mapLane h _ _ (fun _ => ?_)) _
    rfl
  · refine engine_drainInbound (engine_engineLate (engine_mapLane h _ _ (fun _ => ?_)) _ _ _) _
    rfl

/-! ## Work that leaves memory alone -/

@[simp] theorem State.setPeriod_mem (s : State) (i : Fin 32) (part : RingPart) (p : Nat) (x : PeriodRec) : (s.setPeriod i part p x).mem = s.mem := by
  unfold State.setPeriod; (try dsimp only); repeat' split
  all_goals simp

@[simp] theorem State.wrapRing_mem (s : State) (i : Fin 32) : (s.wrapRing i).mem = s.mem := by
  unfold State.wrapRing; (try dsimp only); repeat' split
  all_goals simp

@[simp] theorem State.beginClaim_mem (s : State) (i : Fin 32) (p : Nat) : ((s.beginClaim i p).1).mem = s.mem := by
  unfold State.beginClaim; (try dsimp only); repeat' split
  all_goals simp

@[simp] theorem State.mapStream_mem (s : State) (i : Fin 32) (f : Stream → Stream) : (s.mapStream i f).mem = s.mem := by
  unfold State.mapStream; (try dsimp only); repeat' split
  all_goals simp

@[simp] theorem State.mapLane_mem (s : State) (l : Fin 8) (f : Lane → Lane) : (s.mapLane l f).mem = s.mem := by
  unfold State.mapLane; (try dsimp only); repeat' split
  all_goals simp

@[simp] theorem State.wrapStream_mem (s : State) (i : Fin 32) : (s.wrapStream i).mem = s.mem := by
  unfold State.wrapStream; (try dsimp only); repeat' split
  all_goals simp

@[simp] theorem State.advance_mem (s : State) (i : Fin 32) : (s.advance i).mem = s.mem := by
  unfold State.advance; (try dsimp only); repeat' split
  all_goals simp

@[simp] theorem State.starveFrame_mem (s : State) (i : Fin 32) : (s.starveFrame i).mem = s.mem := by
  unfold State.starveFrame; (try dsimp only); repeat' split
  all_goals simp

@[simp] theorem State.fetchBegin_mem (s : State) (i : Fin 32) : ((s.fetchBegin i).1).mem = s.mem := by
  unfold State.fetchBegin; (try dsimp only); repeat' split
  all_goals simp

@[simp] theorem State.fetchEnd_mem (s : State) (i : Fin 32) (c : Bool) : (s.fetchEnd i c).mem = s.mem := by
  unfold State.fetchEnd; (try dsimp only); repeat' split
  all_goals simp

@[simp] theorem State.fetchWords_mem (s : State) (i : Fin 32) (k : Nat) : (s.fetchWords i k).mem = s.mem := by
  unfold State.fetchWords; (try dsimp only); repeat' split
  all_goals simp

@[simp] theorem State.fetchFrame_mem (s : State) (i : Fin 32) (e : Extent) : (s.fetchFrame i e).mem = s.mem := by
  unfold State.fetchFrame; (try dsimp only); repeat' split
  all_goals simp

end Sys2Proof.Machine
end

