-- ==== Sys2Proof/Laws/Arbiter.lean ====
section
/-! SUPPORT. What arbitration may change (R175, R176), and the owners' reads of stage entries in their turn (log 49). -/

namespace Sys2Proof.Machine

/-- What no grant to any requester changes: the clocks and the time, the pins, the queue, the list of cues, the memory's
size, and of the lanes all but their staging and late allowances. -/
structure ArbiterOnly (s t : State) : Prop where
  mclk : t.mclk = s.mclk
  hrstn : t.hrstn = s.hrstn
  phase : t.phase = s.phase
  cb : t.cb = s.cb
  pending : t.pending = s.pending
  list : t.cu.list = s.cu.list
  size : t.mc.size = s.mc.size
  atBoundary : t.li.atBoundary = s.li.atBoundary
  lanes : ∀ l, t.lane l = { s.lane l with
    outbound := (t.lane l).outbound, inbound := (t.lane l).inbound, lateOut := (t.lane l).lateOut,
    lateIn := (t.lane l).lateIn }

namespace ArbiterOnly

theorem refl (s : State) : ArbiterOnly s s := by constructor <;> intros <;> rfl

theorem trans {s t u : State} (a : ArbiterOnly s t) (b : ArbiterOnly t u) : ArbiterOnly s u :=
  ⟨b.mclk.trans a.mclk, b.hrstn.trans a.hrstn, b.phase.trans a.phase, b.cb.trans a.cb, b.pending.trans a.pending,
    b.list.trans a.list, b.size.trans a.size, b.atBoundary.trans a.atBoundary,
    fun l => by rw [b.lanes l, a.lanes l]⟩

theorem ofEngine {s t : State} (h : EngineOnly s t) : ArbiterOnly s t :=
  ⟨h.mclk, h.hrstn, h.phase, h.cb, h.pending, by rw [h.cu], by rw [h.mc], h.atBoundary, h.lanes⟩

theorem ofReport {s t : State} (h : ReportOnly s t) : ArbiterOnly s t := ofEngine (.ofReport h)

end ArbiterOnly

variable {s0 s : State}

theorem arbiter_passEvents (h : ArbiterOnly s0 s) (es : List Event) : ArbiterOnly s0 (s.passEvents es) :=
  h.trans (.ofReport (passEvents_only s es))

@[simp] theorem arbiter_requestImage (h : ArbiterOnly s0 s) (p : Fin 2) (es : List Event) :
    ArbiterOnly s0 (s.requestImage p es) := h.trans (.ofReport (requestImage_only s p es))

@[simp] theorem arbiter_setPort (h : ArbiterOnly s0 s) (p : Fin 2) (x : Port) : ArbiterOnly s0 (s.setPort p x) :=
  h.trans (by constructor <;> intros <;> rfl)

@[simp] theorem arbiter_putPort (h : ArbiterOnly s0 s) (p : Fin 2) (x : Port) : ArbiterOnly s0 (s.putPort p x) :=
  arbiter_setPort h p x.draw

@[simp] theorem arbiter_setWatch (h : ArbiterOnly s0 s) (l : Fin 8) (i : Fin 64) (x : SlotWatch) :
    ArbiterOnly s0 (s.setWatch l i x) := h.trans (by constructor <;> intros <;> rfl)

@[simp] theorem arbiter_beginTake (h : ArbiterOnly s0 s) : ArbiterOnly s0 s.beginTake := by
  unfold State.beginTake
  split
  · exact h.trans (by constructor <;> intros <;> rfl)
  · exact h

@[simp] theorem arbiter_configWritten (h : ArbiterOnly s0 s) (p : Fin 2) (o : Nat) (w : Word) :
    ArbiterOnly s0 (s.configWritten p o w) := by
  unfold State.configWritten State.groupWritten State.windowWritten State.bindingWritten State.lampWritten
  dsimp only
  repeat' split
  all_goals simp [h]

@[simp] theorem arbiter_watchWord (h : ArbiterOnly s0 s) (o : Nat) (w : Word) : ArbiterOnly s0 (s.watchWord o w) := by
  unfold State.watchWord
  dsimp only
  repeat' split
  · exact arbiter_beginTake (h.trans (by constructor <;> intros <;> rfl))
  · exact h.trans (.ofReport (takeMarkWritten_only s _))
  · exact h.trans (.ofReport (maskWritten_only s w))
  all_goals simp [h, State.thresholdWritten]

theorem arbiter_watchWords : ∀ (ws : List WriteWord) (a : Nat) {s : State}, ArbiterOnly s0 s → ArbiterOnly s0 (s.watchWords a ws)
  | [], _, _, h => h
  | w :: ws, a, s, h => by
    unfold State.watchWords
    refine arbiter_watchWords ws _ ?_
    split
    · simp [h]
    · exact h

/-- A claim of the host on a ring. -/
theorem engine_hostWriteClaim (h : EngineOnly s0 s) (f : Found) (a : Nat) (b : Bool) :
    EngineOnly s0 (s.hostWriteClaim f a b).1 := by
  unfold State.hostWriteClaim State.lateWrite State.fillNotice
  dsimp only
  repeat' split
  all_goals first | exact h | simp (maxDischargeDepth := 20) [h]

theorem engine_hostReadClaim (h : EngineOnly s0 s) (f : Found) (a : Nat) : EngineOnly s0 (s.hostReadClaim f a) := by
  unfold State.hostReadClaim
  dsimp only
  repeat' split
  all_goals first | exact h | simp (maxDischargeDepth := 20) [h]

/-- A grant to Pass. -/
theorem arbiter_grantPass (s : State) (x : PassTransaction) : ArbiterOnly s (s.grantPass x) := by
  have h0 : ArbiterOnly s { s with mc := { s.mc with lastOfThree := .pass }, pp := { s.pp with inHand := none } } := by
    constructor <;> intros <;> rfl
  have claim {u v : State} (h : ArbiterOnly s u) (e : EngineOnly u v) : ArbiterOnly s v := h.trans (.ofEngine e)
  have answer {u : State} (h : ArbiterOnly s u) (t : PassTransaction) (r : Response) (ws : List Word) :
      ArbiterOnly s (u.answer t r ws) := h.trans (by constructor <;> intros <;> rfl)
  unfold State.grantPass State.performPass
  split
  · unfold State.performRead
    dsimp only
    repeat' split
    · exact answer h0 _ _ _
    · exact answer (claim h0 (engine_hostReadClaim (.refl _) _ _)) _ _ _
    · exact answer h0 _ _ _
  · rename_i ws _
    unfold State.performPassWrite
    dsimp only
    have lands {u : State} (h : ArbiterOnly s u) : ArbiterOnly s
        (({ u with mem := u.mem.writeEnabledWords x.start ws } : State).watchWords x.start ws) :=
      arbiter_watchWords ws _ (h.trans (by constructor <;> intros <;> rfl))
    have judged : ArbiterOnly s (match State.findRing { s with
        mc := { s.mc with lastOfThree := .pass }, pp := { s.pp with inHand := none } } x.start with
      | none => (({ s with mc := { s.mc with lastOfThree := .pass }, pp := { s.pp with inHand := none } } : State),
          WriteVerdict.lands)
      | some f =>
        if f.entry.dir = Direction.play then
          State.hostWriteClaim { s with mc := { s.mc with lastOfThree := .pass }, pp := { s.pp with inHand := none } } f
            x.start (touchesWord ws x.start (f.ring.lastWord (f.ring.periodOf x.start)))
        else ({ s with mc := { s.mc with lastOfThree := .pass }, pp := { s.pp with inHand := none } }, .lands)).1 := by
      repeat' split
      · exact h0
      · exact claim h0 (engine_hostWriteClaim (.refl _) _ _ _)
      · exact h0
    split
    · exact answer judged _ _ _
    · exact answer (lands judged) _ _ _

/-- A grant to Stream. -/
theorem arbiter_grantStream (s : State) (g : Fin 8 × FlowDir) : ArbiterOnly s (s.grantStream g) := by
  have h : ArbiterOnly s (s.serve g) := by constructor <;> intros <;> rfl
  unfold State.grantStream
  dsimp only
  repeat' split
  · exact h
  · exact h.trans (.ofEngine (engine_fetchFrame (.refl _) _ _))
  · exact h
  · exact h.trans (.ofEngine (engine_storeFrame (.refl _) _ _))

theorem arbiter_beginItem (s : State) (it : RecordItem) : ArbiterOnly s (s.beginItem it).2 := by
  unfold State.beginItem
  dsimp only
  repeat' split
  all_goals constructor <;> intros <;> rfl

theorem arbiter_finishItem (h : ArbiterOnly s0 s) (it : RecordItem) : ArbiterOnly s0 (s.finishItem it) := by
  unfold State.finishItem
  split
  · exact h.trans (by constructor <;> intros <;> rfl)
  · exact h.trans (by constructor <;> intros <;> rfl)
  · exact arbiter_passEvents h _
  · exact arbiter_passEvents h _
  · exact arbiter_passEvents h _
  · exact h.trans (by constructor <;> intros <;> rfl)
  all_goals exact h

/-- One transaction of the Record order. -/
theorem arbiter_grantItem (s : State) : ArbiterOnly s s.grantItem := by
  unfold State.grantItem
  split
  · exact .refl s
  · rename_i it rest _
    dsimp only
    have h := arbiter_beginItem s it
    split
    · exact arbiter_finishItem (h.trans (by constructor <;> intros <;> rfl)) _
    · split
      · exact arbiter_finishItem (h.trans (by constructor <;> intros <;> rfl)) _
      · exact h.trans (by constructor <;> intros <;> rfl)

/-- Every transaction of the head of the Record order. -/
theorem arbiter_completeHead (s : State) : ArbiterOnly s s.completeHead := by
  unfold State.completeHead
  split
  · exact .refl s
  · rename_i it rest _
    dsimp only
    have fold : ∀ (ws : List MemWrite) (u : State), ArbiterOnly u (ws.foldl State.performWrite u) := by
      intro ws
      induction ws with
      | nil => exact fun u => .refl u
      | cons w ws ih => exact fun u => ArbiterOnly.trans (by constructor <;> intros <;> rfl) (ih (u.performWrite w))
    exact arbiter_finishItem (((arbiter_beginItem s it).trans (fold _ _)).trans (by constructor <;> intros <;> rfl)) _

theorem arbiter_completeItems : ∀ (n : Nat) (s : State), ArbiterOnly s (s.completeItems n)
  | 0, s => .refl s
  | n + 1, s => (arbiter_completeHead s).trans (arbiter_completeItems n _)

theorem arbiter_completeThrough (s : State) (p : RecordWork → Bool) : ArbiterOnly s (s.completeThrough p) := by
  unfold State.completeThrough
  split
  · exact .refl s
  · exact arbiter_completeItems _ s

/-- A grant to Record. -/
theorem arbiter_grantRecord (s : State) : ArbiterOnly s s.grantRecord := by
  have h : ArbiterOnly s { s with mc := { s.mc with lastOfThree := .record } } := by constructor <;> intros <;> rfl
  unfold State.grantRecord
  dsimp only
  repeat' split
  · exact h
  · exact h.trans (by constructor <;> intros <;> rfl)
  · exact h.trans (arbiter_grantItem _)

/-- R176: one arbitration point. -/
theorem arbiter_arbitrate (s : State) : ArbiterOnly s s.arbitrate := by
  have refresh : ArbiterOnly s s.grantRefresh := by constructor <;> intros <;> rfl
  unfold State.arbitrate
  repeat' split
  · exact refresh
  · exact arbiter_grantStream s _
  · exact refresh
  · cases hg : (rotation s.mc.lastOfThree).findSome? s.tryGrant with
    | none => exact .refl s
    | some t =>
      obtain ⟨r, -, hr⟩ := List.exists_of_findSome?_eq_some hg
      show ArbiterOnly s t
      cases r
      · obtain ⟨x, -, rfl⟩ := Option.map_eq_some_iff.mp hr
        exact arbiter_grantPass s x
      · obtain ⟨x, -, rfl⟩ := Option.map_eq_some_iff.mp hr
        exact arbiter_grantStream s x
      · unfold State.tryGrant at hr
        dsimp only at hr
        split at hr
        · cases hr; exact arbiter_grantRecord s
        · cases hr

theorem arbiter_grantInTurn : ∀ (n : Nat) (s : State), ArbiterOnly s (s.grantInTurn n)
  | 0, s => .refl s
  | n + 1, s => by
    unfold State.grantInTurn
    split
    · exact (arbiter_arbitrate s).trans (arbiter_grantInTurn n _)
    · exact .refl s

theorem arbiter_awaitRead : ∀ (n : Nat) (s : State), ArbiterOnly s (s.awaitRead n)
  | 0, s => arbiter_completeThrough s _
  | n + 1, s => by
    unfold State.awaitRead
    split
    · exact (arbiter_arbitrate s).trans (arbiter_awaitRead n _)
    · exact .refl s

/-- R20, R63, R175: an owner's read of a stage entry. -/
theorem arbiter_recordRead (s : State) : ArbiterOnly s s.recordRead :=
  ArbiterOnly.trans (t := { s with mc := { s.mc with records := s.mc.records ++ [⟨.stageRead, false, [], []⟩] } })
    (by constructor <;> intros <;> rfl) (arbiter_awaitRead _ _)

/-- R176: with nothing that comes before it, an owner's read is no more than a grant to Record. -/
theorem State.recordRead_of_next (hr : s.mc.records = []) (hp : s.mc.refreshPending = 0) (hu : s.urgentStream = none)
    (hn : s.mc.lastOfThree = .stream ∨ (s.mc.lastOfThree = .pass ∧ s.streamWork = none) ∨
      (s.mc.lastOfThree = .record ∧ s.pp.inHand = none ∧ s.streamWork = none)) :
    s.recordRead = { s with mc := { s.mc with lastOfThree := .record } } := by
  let u : State := { s with mc := { s.mc with records := [⟨.stageRead, false, [], []⟩] } }
  have e : s.recordRead = u.awaitRead Config.grantPoints := by
    unfold State.recordRead; rw [hr]; rfl
  have hu' : u.urgentStream = none := hu
  have g : u.grantRecord = { s with mc := { s.mc with lastOfThree := .record } } := by
    show ({ s with mc := { s.mc with records := [], lastOfThree := .record } } : State) = _
    rw [← hr]
  have a : u.arbitrate = u.grantRecord := by
    unfold State.arbitrate
    have h1 : u.mc.refreshPending = 0 := hp
    rw [h1, hu']
    have hb : u.tryGrant .record = some u.grantRecord := rfl
    rcases hn with hn | ⟨hn, hw⟩ | ⟨hn, hi, hw⟩
    · have : u.mc.lastOfThree = .stream := hn
      rw [this]; simp [rotation, hb]
    · have : u.mc.lastOfThree = .pass := hn
      have hs : u.tryGrant .stream = none := by simp [State.tryGrant]; exact hw
      rw [this]; simp [rotation, hb, hs]
    · have : u.mc.lastOfThree = .record := hn
      have hs : u.tryGrant .stream = none := by simp [State.tryGrant]; exact hw
      have hpp : u.tryGrant .pass = none := by simp [State.tryGrant]; exact hi
      rw [this]; simp [rotation, hb, hs, hpp]
  rw [e]
  have d : (u.grantRecord).readWaits = false := by rw [g]; simp [State.readWaits, hr]
  show u.awaitRead 16384 = _
  rw [State.awaitRead, if_pos (show u.readWaits = true from rfl), a, State.awaitRead, if_neg (by rw [d]; decide), g]

@[simp] theorem State.recordRead_mclk (s : State) : s.recordRead.mclk = s.mclk := (arbiter_recordRead s).mclk
@[simp] theorem State.recordRead_phase (s : State) : s.recordRead.phase = s.phase := (arbiter_recordRead s).phase
@[simp] theorem State.recordRead_cb (s : State) : s.recordRead.cb = s.cb := (arbiter_recordRead s).cb
@[simp] theorem State.recordRead_pending (s : State) : s.recordRead.pending = s.pending := (arbiter_recordRead s).pending
@[simp] theorem State.recordRead_list (s : State) : s.recordRead.cu.list = s.cu.list := (arbiter_recordRead s).list
@[simp] theorem State.recordRead_base (s : State) : s.recordRead.base = s.base := by
  simp [State.base, (arbiter_recordRead s).size]
@[simp] theorem State.recordRead_domain (s : State) (d : Fin 4) : s.recordRead.domain d = s.domain d := by
  simp [State.domain]
@[simp] theorem State.recordRead_input (s : State) (w : Fin 2) : s.recordRead.input w = s.input w := by simp [State.input]
@[simp] theorem State.recordRead_output (s : State) (o : Fin 4) : s.recordRead.output o = s.output o := by
  simp [State.output]
@[simp] theorem State.recordRead_osc (s : State) (o : Osc) : s.recordRead.osc o = s.osc o := by
  cases o <;> simp [State.osc]

end Sys2Proof.Machine
end

