-- ==== Sys2Proof/Laws/Memory.lean ====
section
/-! SUPPORT. Memory: every operation keeps the canonical form, and what a byte reads as after each operation. -/

namespace Sys2Proof.Machine

/-- The canonical form as an order: addresses rising from `lo` on, no entry that equals an unlisted byte. -/
def Memory.From (lo : Nat) : Memory → Prop
  | [] => True
  | (a, v) :: m => lo ≤ a ∧ v ≠ Memory.unlisted ∧ Memory.From (a + 1) m

theorem Memory.from_mono {m : Memory} : ∀ {lo hi : Nat}, lo ≤ hi → Memory.From hi m → Memory.From lo m := by
  cases m with
  | nil => intros; trivial
  | cons c m => rintro lo hi h ⟨h1, h2⟩; exact ⟨le_trans h h1, h2⟩

theorem Memory.wf_cons (a : Nat) (v : Byte) (m : Memory) :
    Memory.wf ((a, v) :: m) = true ↔ v ≠ Memory.unlisted ∧ Memory.From (a + 1) m := by
  induction m generalizing a v with
  | nil => simp [Memory.wf, Memory.From]
  | cons c m ih =>
    obtain ⟨b, w⟩ := c
    have := ih b w
    simp only [Memory.wf, Bool.and_eq_true, bne_iff_ne, decide_eq_true_eq, this, Memory.From]
    constructor
    · rintro ⟨⟨h1, h2⟩, h3, h4⟩; exact ⟨h1, h2, h3, h4⟩
    · rintro ⟨h1, h2, h3, h4⟩; exact ⟨⟨h1, h2⟩, h3, h4⟩

theorem Memory.wf_iff (m : Memory) : m.wf = true ↔ Memory.From 0 m := by
  cases m with
  | nil => simp [Memory.wf, Memory.From]
  | cons c m =>
    obtain ⟨a, v⟩ := c
    rw [Memory.wf_cons]; simp [Memory.From]

theorem Memory.from_writeByte {m : Memory} {a : Nat} {v : Byte} :
    ∀ {lo : Nat}, lo ≤ a → Memory.From lo m → Memory.From lo (m.writeByte a v) := by
  induction m with
  | nil =>
    intro lo h _
    simp only [Memory.writeByte]; split
    · trivial
    · next hv => exact ⟨h, hv, trivial⟩
  | cons c m ih =>
    obtain ⟨b, w⟩ := c
    rintro lo h ⟨h1, h2, h3⟩
    simp only [Memory.writeByte]
    split
    · next hab =>
      split
      · exact ⟨h1, h2, h3⟩
      · next hv => exact ⟨h, hv, hab, h2, h3⟩
    · next hab =>
      split
      · next he =>
        subst he; split
        · exact Memory.from_mono (by omega) h3
        · next hv => exact ⟨h1, hv, h3⟩
      · next hne => exact ⟨h1, h2, ih (by omega) h3⟩

theorem Memory.wf_writeByte {m : Memory} (h : m.wf = true) (a : Nat) (v : Byte) : (m.writeByte a v).wf = true := by
  rw [Memory.wf_iff] at *; exact Memory.from_writeByte (Nat.zero_le _) h

theorem Memory.readByte_of_from {m : Memory} : ∀ {lo a : Nat}, Memory.From lo m → a < lo → m.readByte a = Memory.unlisted := by
  cases m with
  | nil => intros; rfl
  | cons c m =>
    obtain ⟨b, w⟩ := c
    rintro lo a ⟨h1, _, _⟩ h
    simp only [Memory.readByte]
    rw [if_neg (by omega), if_pos (by omega)]

theorem Memory.readByte_writeByte_from {m : Memory} {a : Nat} {v : Byte} :
    ∀ {lo : Nat}, Memory.From lo m → ∀ b, (m.writeByte a v).readByte b = if b = a then v else m.readByte b := by
  induction m with
  | nil =>
    intro lo _ b
    simp only [Memory.writeByte]
    split
    · next hv => simp only [Memory.readByte]; split <;> simp_all
    · simp only [Memory.readByte]; split <;> simp
  | cons c m ih =>
    obtain ⟨d, w⟩ := c
    rintro lo ⟨h1, h2, h3⟩ b
    have hread : Memory.readByte m d = Memory.unlisted := Memory.readByte_of_from h3 (by omega)
    simp only [Memory.writeByte]
    split
    · next had =>
      split
      · next hv =>
        by_cases hb : b = a
        · subst hb; simp only [Memory.readByte, if_true]; rw [if_neg (by omega), if_pos had, hv]
        · rw [if_neg hb]
      · by_cases hb : b = a
        · subst hb; simp [Memory.readByte]
        · rw [if_neg hb]; conv => lhs; rw [Memory.readByte]
          rw [if_neg hb]; split
          · next hlt => rw [Memory.readByte, if_neg (by omega), if_pos (by omega)]
          · rfl
    · next had =>
      split
      · next he =>
        subst he; split
        · next hv =>
          by_cases hb : b = a
          · subst hb; rw [if_pos rfl, hv, hread]
          · rw [if_neg hb]; conv => rhs; rw [Memory.readByte]
            rw [if_neg hb]; split
            · next hlt => exact Memory.readByte_of_from h3 (by omega)
            · rfl
        · by_cases hb : b = a
          · subst hb; simp [Memory.readByte]
          · simp only [Memory.readByte, if_neg hb]
      · next hne =>
        simp only [Memory.readByte]
        by_cases hb : b = d
        · subst hb; rw [if_pos rfl, if_pos rfl, if_neg (by omega)]
        · rw [if_neg hb, if_neg hb]
          by_cases hlt : b < d
          · rw [if_pos hlt, if_pos hlt, if_neg (by omega)]
          · rw [if_neg hlt, if_neg hlt]; exact ih h3 b

/-- What a byte reads as after one byte is written. -/
theorem Memory.readByte_writeByte {m : Memory} (h : m.wf = true) (a b : Nat) (v : Byte) :
    (m.writeByte a v).readByte b = if b = a then v else m.readByte b :=
  Memory.readByte_writeByte_from ((Memory.wf_iff m).1 h) b

theorem Memory.wf_writeEnabled {m : Memory} (h : m.wf = true) (a : Nat) (w : WriteWord) :
    (m.writeEnabled a w).wf = true := by
  have put : ∀ (m : Memory) (i : Nat), m.wf = true →
      (if w.enables.getLsbD i then m.writeByte (a + i) (w.data.byte i) else m).wf = true := by
    intro m i hm; split
    · exact Memory.wf_writeByte hm _ _
    · exact hm
  exact put _ _ (put _ _ (put _ _ (put _ _ h)))

/-- What a byte reads as after the enabled bytes of a word are written. -/
theorem Memory.readByte_writeEnabled {m : Memory} (h : m.wf = true) (a b : Nat) (w : WriteWord) :
    (m.writeEnabled a w).readByte b =
      if a ≤ b ∧ b < a + 4 ∧ w.enables.getLsbD (b - a) = true then w.data.byte (b - a) else m.readByte b := by
  have wfput : ∀ (m : Memory) (i : Nat), m.wf = true →
      (if w.enables.getLsbD i then m.writeByte (a + i) (w.data.byte i) else m).wf = true := by
    intro m i hm; split
    · exact Memory.wf_writeByte hm _ _
    · exact hm
  have put : ∀ (m : Memory) (i : Nat), m.wf = true →
      (if w.enables.getLsbD i then m.writeByte (a + i) (w.data.byte i) else m).readByte b =
        if b = a + i ∧ w.enables.getLsbD i = true then w.data.byte i else m.readByte b := by
    intro m i hm
    by_cases he : w.enables.getLsbD i = true
    · rw [if_pos he, Memory.readByte_writeByte hm]; simp [he]
    · rw [if_neg he, if_neg (by tauto)]
  unfold Memory.writeEnabled
  rw [put _ 3 (wfput _ _ (wfput _ _ (wfput _ _ h))), put _ 2 (wfput _ _ (wfput _ _ h)), put _ 1 (wfput _ _ h), put _ 0 h]
  by_cases hr : a ≤ b ∧ b < a + 4
  · obtain ⟨h1, h2⟩ := hr
    obtain ⟨k, rfl⟩ := Nat.exists_eq_add_of_le h1
    have hk : k < 4 := by omega
    have e : a + k - a = k := by omega
    rw [e]
    interval_cases k <;> simp
  · rw [if_neg (by rintro ⟨e, _⟩; exact hr ⟨by omega, by omega⟩), if_neg (by rintro ⟨e, _⟩; exact hr ⟨by omega, by omega⟩),
      if_neg (by rintro ⟨e, _⟩; exact hr ⟨by omega, by omega⟩), if_neg (by rintro ⟨e, _⟩; exact hr ⟨by omega, by omega⟩),
      if_neg (by rintro ⟨e1, e2, _⟩; exact hr ⟨e1, e2⟩)]

theorem Memory.wf_writeEnabledWords {m : Memory} (h : m.wf = true) (a : Nat) (ws : List WriteWord) :
    (m.writeEnabledWords a ws).wf = true := by
  induction ws generalizing m a with
  | nil => exact h
  | cons w ws ih => exact ih (Memory.wf_writeEnabled h a w) (a + 4)

/-- A host write of words changes no byte outside them. -/
theorem Memory.readByte_writeEnabledWords_outside {m : Memory} (h : m.wf = true) (a b : Nat) (ws : List WriteWord)
    (hb : b < a ∨ a + 4 * ws.length ≤ b) : (m.writeEnabledWords a ws).readByte b = m.readByte b := by
  induction ws generalizing m a with
  | nil => rfl
  | cons w ws ih =>
    simp only [List.length_cons] at hb
    rw [Memory.writeEnabledWords, ih (Memory.wf_writeEnabled h a w) (a + 4) (by omega), Memory.readByte_writeEnabled h,
      if_neg (by rintro ⟨h1, h2, _⟩; omega)]

theorem Memory.wf_writeWord {m : Memory} (h : m.wf = true) (a : Nat) (w : Word) : (m.writeWord a w).wf = true :=
  Memory.wf_writeEnabled h a _

theorem Memory.wf_writeWords {m : Memory} (h : m.wf = true) (a : Nat) (ws : List Word) : (m.writeWords a ws).wf = true := by
  induction ws generalizing m a with
  | nil => exact h
  | cons w ws ih => exact ih (Memory.wf_writeWord h a w) (a + 4)

/-- A write of whole words changes no byte outside them. -/
theorem Memory.readByte_writeWords_outside {m : Memory} (h : m.wf = true) (a b : Nat) (ws : List Word)
    (hb : b < a ∨ a + 4 * ws.length ≤ b) : (m.writeWords a ws).readByte b = m.readByte b := by
  induction ws generalizing m a with
  | nil => rfl
  | cons w ws ih =>
    simp only [List.length_cons] at hb
    rw [Memory.writeWords, ih (Memory.wf_writeWord h a w) (a + 4) (by omega), Memory.writeWord,
      Memory.readByte_writeEnabled h, if_neg (by rintro ⟨h1, h2, _⟩; omega)]

/-- What a byte of a whole word reads as after the word is written. -/
theorem Memory.readByte_writeWord {m : Memory} (h : m.wf = true) (a b : Nat) (w : Word) :
    (m.writeWord a w).readByte b = if a ≤ b ∧ b < a + 4 then w.byte (b - a) else m.readByte b := by
  rw [Memory.writeWord, Memory.readByte_writeEnabled h]
  by_cases hb : a ≤ b ∧ b < a + 4
  · obtain ⟨h1, h2⟩ := hb
    obtain ⟨k, rfl⟩ := Nat.exists_eq_add_of_le h1
    have hk : k < 4 := by omega
    have e : a + k - a = k := by omega
    rw [e]; interval_cases k <;> simp
  · rw [if_neg (by rintro ⟨h1, h2, _⟩; exact hb ⟨h1, h2⟩), if_neg hb]

theorem Word.ofBytes_byte (w : Word) : Word.ofBytes (w.byte 0) (w.byte 1) (w.byte 2) (w.byte 3) = w := by
  unfold Word.ofBytes Word.byte
  ext i hi
  simp only [BitVec.getElem_or, BitVec.getElem_setWidth, BitVec.getElem_shiftLeft, BitVec.getLsbD_extractLsb']
  interval_cases i <;> simp

/-- A word read back where it was written. -/
theorem Memory.readWord_writeWord {m : Memory} (h : m.wf = true) (a : Nat) (w : Word) :
    (m.writeWord a w).readWord a = w := by
  rw [Memory.readWord, Memory.readByte_writeWord h, Memory.readByte_writeWord h, Memory.readByte_writeWord h,
    Memory.readByte_writeWord h]
  simp [Word.ofBytes_byte]

theorem Memory.from_clear {m : Memory} : ∀ {lo a b : Nat}, Memory.From lo m → Memory.From lo (m.clear a b) := by
  induction m with
  | nil => intros; trivial
  | cons c m ih =>
    obtain ⟨d, w⟩ := c
    rintro lo a b ⟨h1, h2, h3⟩
    unfold Memory.clear at *
    rw [List.filter_cons]; split
    · exact ⟨h1, h2, ih h3⟩
    · exact Memory.from_mono (by omega) (ih h3)

theorem Memory.wf_clear {m : Memory} (h : m.wf = true) (a b : Nat) : (m.clear a b).wf = true := by
  rw [Memory.wf_iff] at *; exact Memory.from_clear h

theorem Memory.readByte_clear_from {m : Memory} (a b : Nat) : ∀ {lo : Nat}, Memory.From lo m → ∀ x,
    (m.clear a b).readByte x = if a ≤ x ∧ x < b then Memory.unlisted else m.readByte x := by
  induction m with
  | nil => intro lo _ x; simp [Memory.clear, Memory.readByte]
  | cons c m ih =>
    obtain ⟨d, w⟩ := c
    rintro lo ⟨h1, h2, h3⟩ x
    have hr : x ≤ d → Memory.readByte m x = Memory.unlisted := fun hx => Memory.readByte_of_from h3 (by omega)
    have ihx := ih h3 x
    unfold Memory.clear at *
    rw [List.filter_cons]; split
    · next hk =>
      simp only [Bool.or_eq_true, decide_eq_true_eq] at hk
      simp only [Memory.readByte]
      by_cases hx : x = d
      · subst hx; rw [if_pos rfl, if_pos rfl, if_neg (by omega)]
      · rw [if_neg hx, if_neg hx]
        by_cases hlt : x < d
        · rw [if_pos hlt, if_pos hlt]; split <;> rfl
        · rw [if_neg hlt, if_neg hlt, ihx]
    · next hk =>
      simp only [Bool.or_eq_true, decide_eq_true_eq] at hk
      rw [ihx]
      by_cases hc : a ≤ x ∧ x < b
      · rw [if_pos hc, if_pos hc]
      · rw [if_neg hc, if_neg hc]; simp only [Memory.readByte]
        by_cases hx : x = d
        · subst hx; omega
        · rw [if_neg hx]; split
          · next hlt => exact hr (by omega)
          · rfl

/-- What a byte reads as after a range is cleared. -/
theorem Memory.readByte_clear {m : Memory} (h : m.wf = true) (a b x : Nat) :
    (m.clear a b).readByte x = if a ≤ x ∧ x < b then 0 else m.readByte x :=
  Memory.readByte_clear_from a b ((Memory.wf_iff m).1 h) x

/-- The memory of the reset state is in canonical form. -/
theorem reset_memory_wf : State.reset.mem.wf = true := rfl

/-! ## Write transactions (R131) -/

/-- Memory after write transactions, in order. -/
def Memory.performAll (m : Memory) (l : List MemWrite) : Memory := l.foldl (fun m w => m.writeWords w.addr w.words) m

theorem performWrites_mem (l : List MemWrite) : ∀ s : State,
    l.foldl State.performWrite s = { s with mem := s.mem.performAll l } := by
  induction l with
  | nil => intro s; rfl
  | cons w l ih => intro s; rw [List.foldl_cons, ih]; rfl

theorem Memory.readByte_writeWords_congr {m n : Memory} (hm : m.wf = true) (hn : n.wf = true) {b : Nat}
    (h : m.readByte b = n.readByte b) (a : Nat) (ws : List Word) :
    (m.writeWords a ws).readByte b = (n.writeWords a ws).readByte b := by
  induction ws generalizing m n a with
  | nil => exact h
  | cons w ws ih =>
    refine ih (Memory.wf_writeWord hm _ _) (Memory.wf_writeWord hn _ _) ?_ _
    rw [Memory.readByte_writeWord hm, Memory.readByte_writeWord hn, h]

theorem Word.byte_ofBytes (a b c d : Byte) :
    (Word.ofBytes a b c d).byte 0 = a ∧ (Word.ofBytes a b c d).byte 1 = b ∧ (Word.ofBytes a b c d).byte 2 = c ∧
      (Word.ofBytes a b c d).byte 3 = d := by
  unfold Word.ofBytes Word.byte
  refine ⟨?_, ?_, ?_, ?_⟩
  all_goals
    ext i hi
    interval_cases i <;> simp [BitVec.getElem_extractLsb']

theorem Memory.byte_readWord (m : Memory) (a b : Nat) (h : a ≤ b ∧ b < a + 4) : (m.readWord a).byte (b - a) = m.readByte b := by
  obtain ⟨h1, h2⟩ := h
  have e := Word.byte_ofBytes (m.readByte a) (m.readByte (a + 1)) (m.readByte (a + 2)) (m.readByte (a + 3))
  obtain rfl | rfl | rfl | rfl : b = a ∨ b = a + 1 ∨ b = a + 2 ∨ b = a + 3 := by omega
  all_goals simp [Memory.readWord, e]

/-- R131: performing the changed words alone leaves memory as writing every word would. -/
theorem Memory.readByte_changedWrites {m : Memory} (b : Nat) (ws : List Word) : ∀ {n : Memory} {a : Nat}, n.wf = true →
    (∀ x, a ≤ x → x < a + 4 * ws.length → n.readByte x = m.readByte x) →
    (n.performAll (changedWrites m a ws)).readByte b = (n.writeWords a ws).readByte b := by
  induction ws with
  | nil => intros; rfl
  | cons w ws ih =>
    intro n a hn hs
    have hw := Memory.wf_writeWord hn a w
    have tail : ∀ x, a + 4 ≤ x → x < a + 4 + 4 * ws.length → (n.writeWord a w).readByte x = m.readByte x := by
      intro x h1 h2
      rw [Memory.readByte_writeWord hn, if_neg (by omega)]
      exact hs x (by omega) (by simp only [List.length_cons]; omega)
    have step := ih hw tail
    change _ = ((n.writeWord a w).writeWords (a + 4) ws).readByte b
    unfold changedWrites
    dsimp only
    split
    · rename_i hk
      rw [ih hn (fun x h1 h2 => hs x (by omega) (by simp only [List.length_cons]; omega))]
      refine Memory.readByte_writeWords_congr hn hw ?_ _ _
      rw [Memory.readByte_writeWord hn]
      split
      · rename_i hb
        rw [← hk, Memory.byte_readWord m a b hb]
        exact hs b hb.1 (by simp only [List.length_cons]; omega)
      · rfl
    · split
      · rename_i hr
        rw [hr] at step
        exact step
      · rename_i x more hr
        rw [hr] at step
        split
        · rename_i hx
          rw [← step]
          simp only [Memory.performAll, List.foldl_cons, Memory.writeWords, hx.1]
        · exact step

end Sys2Proof.Machine
end

