-- ==== Sys2Proof/Laws/Keeps.lean ====
section
/-! SUPPORT. What every shared operation keeps: the phase, the time, the queue, the counts of the domains, and the laws of
`State.Sound` and `State.RingsApart`. -/

namespace Sys2Proof.Machine

/-- An operation that led from `s` to `t` kept the phase, the pins, the time, the queue, and the laws of the state,
and at most took cues out of the list. -/
structure Runs (s t : State) : Prop where
  phase : t.phase = s.phase
  hrstn : t.hrstn = s.hrstn
  mclk : t.mclk = s.mclk
  pending : t.pending = s.pending
  size : t.mc.size = s.mc.size
  sound : s.Sound → t.Sound
  apart : s.phase ≠ .held → s.RingsApart → t.RingsApart
  motors : s.Interlocked → t.Interlocked
  hand : ∀ l, l ∈ t.li.atBoundary → l ∈ s.li.atBoundary
  cues : t.cu.list.Sublist s.cu.list

/-- The operation kept the counts of the domains and the word clock inputs as well. -/
structure Drops (s t : State) : Prop extends Runs s t where
  counts : ∀ d, (t.domain d).count = (s.domain d).count
  inputs : t.cb.inputs = s.cb.inputs

/-- The operation kept the cue list as well, and ended no take. -/
structure Keeps (s t : State) : Prop extends Drops s t where
  list : t.cu.list = s.cu.list
  taking : s.cu.taking = true → t.cu.taking = true

theorem Runs.refl (s : State) : Runs s s := ⟨rfl, rfl, rfl, rfl, rfl, id, fun _ => id, id, fun _ => id, .refl _⟩

theorem Runs.trans {s t u : State} (a : Runs s t) (b : Runs t u) : Runs s u :=
  ⟨b.phase.trans a.phase, b.hrstn.trans a.hrstn, b.mclk.trans a.mclk, b.pending.trans a.pending, b.size.trans a.size,
    fun h => b.sound (a.sound h), fun hp h => b.apart (a.phase ▸ hp) (a.apart hp h),
    fun h => b.motors (a.motors h), fun l h => a.hand l (b.hand l h), b.cues.trans a.cues⟩

theorem Drops.refl (s : State) : Drops s s := ⟨Runs.refl s, fun _ => rfl, rfl⟩

theorem Drops.trans {s t u : State} (a : Drops s t) (b : Drops t u) : Drops s u :=
  ⟨a.toRuns.trans b.toRuns, fun d => (b.counts d).trans (a.counts d), b.inputs.trans a.inputs⟩

theorem Keeps.refl (s : State) : Keeps s s := ⟨Drops.refl s, rfl, id⟩

theorem Keeps.trans {s t u : State} (a : Keeps s t) (b : Keeps t u) : Keeps s u :=
  ⟨a.toDrops.trans b.toDrops, b.list.trans a.list, fun h => b.taking (a.taking h)⟩

/-- The rings of the directory lie as before: each ring of an entry is, in place and size, a ring it held before. -/
def SamePlaces (s t : State) : Prop :=
  ∀ i f, t.entry i = some f → ∃ e, s.entry i = some e ∧ ∀ r ∈ f.rings, ∃ q ∈ e.rings, r.base = q.base ∧ r.bytes = q.bytes

theorem RingsApart.of_same {s t : State} (hp : t.phase = s.phase) (hb : t.base = s.base) (h : SamePlaces s t)
    (a : s.RingsApart) : t.RingsApart where
  apart i j e f hij hi hj r hr q hq := by
    obtain ⟨e', he, hre⟩ := h i e hi
    obtain ⟨f', hf, hrf⟩ := h j f hj
    obtain ⟨r', hr', rb, rs⟩ := hre r hr
    obtain ⟨q', hq', qb, qs⟩ := hrf q hq
    rw [rb, rs, qb, qs]
    exact a.apart i j e' f' hij he hf r' hr' q' hq'
  within i e hi r hr := by
    obtain ⟨e', he, hre⟩ := h i e hi
    obtain ⟨r', hr', rb, rs⟩ := hre r hr
    unfold Ring.fitsBelow
    rw [rb, rs, hb]
    exact a.within i e' he r' hr'
  held hh i := by
    cases hi : t.entry i with
    | none => rfl
    | some f =>
      obtain ⟨e, he, -⟩ := h i f hi
      rw [a.held (hp ▸ hh) i] at he
      cases he

theorem SamePlaces.of_rw {s t : State} (h : t.rw = s.rw) : SamePlaces s t := by
  intro i f hf
  refine ⟨f, ?_, fun r hr => ⟨r, hr, rfl, rfl⟩⟩
  unfold State.entry at *
  rwa [h] at hf

theorem base_of_size {s t : State} (h : t.mc.size = s.mc.size) : t.base = s.base := by
  unfold State.base; rw [h]

/-- A change outside the memory, the Memory Controller, the directory, the Cue Unit and the Report Unit. -/
theorem Runs.quiet {s t : State} (hm : t.mclk = s.mclk) (hh : t.hrstn = s.hrstn) (hp : t.phase = s.phase)
    (hq : t.pending = s.pending) (h1 : t.mem = s.mem) (h2 : t.mc = s.mc) (h3 : t.rw = s.rw) (h4 : t.cu = s.cu)
    (h5 : t.ru = s.ru) (h7 : t.si = s.si)
    (h9 : t.li.atBoundary = s.li.atBoundary) : Runs s t := by
  refine ⟨hp, hh, hm, hq, by rw [h2], fun a => ?_,
    fun _ => RingsApart.of_same hp (base_of_size (by rw [h2])) (.of_rw h3),
    fun a => by simpa only [State.Interlocked, State.port, h7] using a, fun l hl => by rwa [h9] at hl, by rw [h4]⟩
  obtain ⟨a1, a2, a3, a4, a5⟩ := a
  constructor
  · rw [h1]; exact a1
  · rw [h2]; exact a2
  · rw [h4]; exact a3
  · simpa only [State.ringSound, State.reservedRecords, h2, h5, hp] using a4
  · rw [h5]; exact a5

theorem Keeps.quiet {s t : State} (hm : t.mclk = s.mclk) (hh : t.hrstn = s.hrstn) (hp : t.phase = s.phase)
    (hq : t.pending = s.pending) (h1 : t.mem = s.mem) (h2 : t.mc = s.mc) (h3 : t.rw = s.rw) (h4 : t.cu = s.cu)
    (h5 : t.ru = s.ru) (h7 : t.si = s.si)
    (h9 : t.li.atBoundary = s.li.atBoundary) (h6 : ∀ d, (t.domain d).count = (s.domain d).count)
    (h8 : t.cb.inputs = s.cb.inputs) : Keeps s t :=
  ⟨⟨.quiet hm hh hp hq h1 h2 h3 h4 h5 h7 h9, h6, h8⟩, by rw [h4], by rw [h4]; exact id⟩

theorem keeps_foldl {α : Type} {f : State → α → State} {s0 : State} (hf : ∀ s a, Keeps s0 s → Keeps s0 (f s a))
    (l : List α) {s : State} (h : Keeps s0 s) : Keeps s0 (l.foldl f s) := by
  induction l generalizing s with
  | nil => exact h
  | cons a l ih => exact ih (hf s a h)

theorem drops_foldl {α : Type} {f : State → α → State} {s0 : State} (hf : ∀ s a, Drops s0 s → Drops s0 (f s a))
    (l : List α) {s : State} (h : Drops s0 s) : Drops s0 (l.foldl f s) := by
  induction l generalizing s with
  | nil => exact h
  | cons a l ih => exact ih (hf s a h)

theorem runs_foldl {α : Type} {f : State → α → State} {s0 : State} (hf : ∀ s a, Runs s0 s → Runs s0 (f s a))
    (l : List α) {s : State} (h : Runs s0 s) : Runs s0 (l.foldl f s) := by
  induction l generalizing s with
  | nil => exact h
  | cons a l ih => exact ih (hf s a h)

/-! ## The plain writers -/

section
variable {s0 s : State}

@[simp] theorem keeps_setStream (h : Keeps s0 s) (i : Fin 32) (x : Stream) : Keeps s0 (s.setStream i x) :=
  h.trans (.quiet rfl rfl rfl rfl rfl rfl rfl rfl rfl rfl rfl (fun _ => rfl) rfl)
theorem runs_setInput (h : Runs s0 s) (w : Fin 2) (x : WordInput) : Runs s0 (s.setInput w x) :=
  h.trans (.quiet rfl rfl rfl rfl rfl rfl rfl rfl rfl rfl rfl)
@[simp] theorem keeps_setOutput (h : Keeps s0 s) (o : Fin 4) (x : WordOutput) : Keeps s0 (s.setOutput o x) :=
  h.trans (.quiet rfl rfl rfl rfl rfl rfl rfl rfl rfl rfl rfl (fun _ => rfl) rfl)
@[simp] theorem keeps_setOsc (h : Keeps s0 s) (o : Osc) (x : OscState) : Keeps s0 (s.setOsc o x) :=
  h.trans (by cases o <;> exact .quiet rfl rfl rfl rfl rfl rfl rfl rfl rfl rfl rfl (fun _ => rfl) rfl)
@[simp] theorem keeps_setLane (h : Keeps s0 s) (l : Fin 8) (x : Lane) : Keeps s0 (s.setLane l x) :=
  h.trans (.quiet rfl rfl rfl rfl rfl rfl rfl rfl rfl rfl rfl (fun _ => rfl) rfl)
@[simp] theorem keeps_setWindow (h : Keeps s0 s) (l : Fin 8) (x : LaneWindow) : Keeps s0 (s.setWindow l x) :=
  h.trans (.quiet rfl rfl rfl rfl rfl rfl rfl rfl rfl rfl rfl (fun _ => rfl) rfl)
@[simp] theorem keeps_setWatch (h : Keeps s0 s) (l : Fin 8) (i : Fin 64) (x : SlotWatch) : Keeps s0 (s.setWatch l i x) :=
  h.trans (.quiet rfl rfl rfl rfl rfl rfl rfl rfl rfl rfl rfl (fun _ => rfl) rfl)
@[simp] theorem keeps_setSlotMap (h : Keeps s0 s) (dir : Direction) (l : Fin 8) (m : SlotMap) :
    Keeps s0 (s.setSlotMap dir l m) :=
  h.trans (by cases dir <;> exact .quiet rfl rfl rfl rfl rfl rfl rfl rfl rfl rfl rfl (fun _ => rfl) rfl)
theorem keeps_setLi (h : Keeps s0 s) (x : LaneInterface) (hx : ∀ l, l ∈ x.atBoundary → l ∈ s.li.atBoundary) :
    Keeps s0 { s with li := x } :=
  h.trans ⟨⟨⟨rfl, rfl, rfl, rfl, rfl, fun a => ⟨a.memory, a.refresh, a.cues, a.ring, a.attn⟩,
    fun _ => RingsApart.of_same rfl rfl (.of_rw rfl), id, hx, .refl _⟩, fun _ => rfl, rfl⟩, rfl, id⟩
@[simp] theorem keeps_setSe (h : Keeps s0 s) (x : StreamEngine) : Keeps s0 { s with se := x } :=
  h.trans (.quiet rfl rfl rfl rfl rfl rfl rfl rfl rfl rfl rfl (fun _ => rfl) rfl)
@[simp] theorem keeps_setPp (h : Keeps s0 s) (x : PassPort) : Keeps s0 { s with pp := x } :=
  h.trans (.quiet rfl rfl rfl rfl rfl rfl rfl rfl rfl rfl rfl (fun _ => rfl) rfl)
theorem keeps_setPort (h : Keeps s0 s) (p : Fin 2) (x : Port) (hx : (s.port p).Interlocked → x.Interlocked) :
    Keeps s0 (s.setPort p x) := by
  refine h.trans ⟨⟨⟨rfl, rfl, rfl, rfl, rfl, fun a => ⟨a.memory, a.refresh, a.cues, a.ring, a.attn⟩,
    fun _ => RingsApart.of_same rfl rfl (.of_rw rfl), fun a q => ?_, fun _ => id, .refl _⟩, fun _ => rfl, rfl⟩, rfl, id⟩
  by_cases hq : p = q
  · subst hq; rw [State.port_setPort_self]; exact hx (a p)
  · rw [State.port_setPort_of_ne s x hq]; exact a q
theorem keeps_setDomain (h : Keeps s0 s) (d : Fin 4) (x : Domain) (hx : x.count = (s.domain d).count) :
    Keeps s0 (s.setDomain d x) := by
  refine h.trans (.quiet rfl rfl rfl rfl rfl rfl rfl rfl rfl rfl rfl (fun e => ?_) rfl)
  by_cases he : e = d
  · subst he; simpa using hx
  · rw [State.domain_setDomain_of_ne s x (Ne.symm he)]
theorem runs_setDomain (h : Runs s0 s) (d : Fin 4) (x : Domain) : Runs s0 (s.setDomain d x) :=
  h.trans (.quiet rfl rfl rfl rfl rfl rfl rfl rfl rfl rfl rfl)

end

/-! ## Memory -/

/-- A change of memory that keeps its canonical form. -/
theorem keeps_setMem {s0 s : State} (h : Keeps s0 s) (m : Memory) (hm : s.mem.wf = true → m.wf = true) :
    Keeps s0 { s with mem := m } := by
  refine h.trans ⟨⟨⟨rfl, rfl, rfl, rfl, rfl, fun a => ?_, fun _ => RingsApart.of_same rfl rfl (.of_rw rfl), id, fun _ => id, .refl _⟩, fun _ => rfl, rfl⟩, rfl, id⟩
  exact ⟨hm a.memory, a.refresh, a.cues, a.ring, a.attn⟩

theorem keeps_performWrite {s0 s : State} (h : Keeps s0 s) (w : MemWrite) : Keeps s0 (s.performWrite w) :=
  keeps_setMem h _ fun hm => Memory.wf_writeWords hm _ _

/-! ## The Record order and the Report Unit -/

theorem countP_replacePending {id : RecordId} {ws : List MemWrite} :
    ∀ {l m : List RecordItem}, replacePending id ws l = some m → m.countP (·.isEvent) = l.countP (·.isEvent)
  | [], m, h => by simp [replacePending] at h
  | it :: rest, m, h => by
    unfold replacePending at h
    split at h
    · cases h; simp [List.countP_cons, RecordItem.isEvent]
    · obtain ⟨m', hm, rfl⟩ := Option.map_eq_some_iff.mp h
      simp [List.countP_cons, countP_replacePending hm]

theorem countP_joinPending {w : RecordWork} {es : List Event} :
    ∀ {l m : List RecordItem}, joinPending w es l = some m → m.countP (·.isEvent) = l.countP (·.isEvent)
  | [], m, h => by simp [joinPending] at h
  | it :: rest, m, h => by
    unfold joinPending at h
    split at h
    · cases h; simp [List.countP_cons, RecordItem.isEvent]
    · obtain ⟨m', hm, rfl⟩ := Option.map_eq_some_iff.mp h
      simp [List.countP_cons, countP_joinPending hm]

/-- A change of the Memory Controller that keeps its size and the number of event records in the Record order, and at most
lowers its refresh count. -/
theorem keeps_setMc {s0 s : State} (h : Keeps s0 s) (x : MemController) (h1 : x.size = s.mc.size)
    (h2 : x.refreshPending ≤ s.mc.refreshPending)
    (h3 : x.records.countP (·.isEvent) = s.mc.records.countP (·.isEvent)) : Keeps s0 { s with mc := x } := by
  refine h.trans ⟨⟨⟨rfl, rfl, rfl, rfl, h1, fun a => ?_, fun _ => RingsApart.of_same rfl (base_of_size h1) (.of_rw rfl), id,
    fun _ => id, .refl _⟩, fun _ => rfl, rfl⟩, rfl, id⟩
  obtain ⟨a1, a2, a3, a4, a5⟩ := a
  exact ⟨a1, h2.trans a2, a3, by simpa only [State.ringSound, State.reservedRecords, h3] using a4, a5⟩

/-- A change of the Cue Unit that keeps its list and its bound and ends no take. -/
theorem keeps_setCu {s0 s : State} (h : Keeps s0 s) (x : CueUnit) (hx : s.cu.bounded → x.bounded)
    (hl : x.list = s.cu.list) (ht : s.cu.taking = true → x.taking = true) : Keeps s0 { s with cu := x } := by
  refine h.trans ⟨⟨⟨rfl, rfl, rfl, rfl, rfl, fun a => ?_, fun _ => RingsApart.of_same rfl rfl (.of_rw rfl), id, fun _ => id,
    hl ▸ .refl _⟩, fun _ => rfl, rfl⟩, hl, ht⟩
  obtain ⟨a1, a2, a3, a4, a5⟩ := a
  exact ⟨a1, a2, hx a3, a4, a5⟩

/-- A change of the Record order that keeps the number of event records in it. -/
theorem keeps_setRecords {s0 s : State} (h : Keeps s0 s) (l : List RecordItem)
    (hl : l.countP (·.isEvent) = s.mc.records.countP (·.isEvent)) :
    Keeps s0 { s with mc := { s.mc with records := l } } := keeps_setMc h { s.mc with records := l } rfl (Nat.le_refl _) hl

/-- A change of the Report Unit that keeps its marks and its classes. -/
theorem keeps_setRu {s0 s : State} (h : Keeps s0 s) (r : ReportUnit) (h1 : r.postMark = s.ru.postMark)
    (h2 : r.written = s.ru.written) (h3 : r.takeMark = s.ru.takeMark) (h4 : r.classes = s.ru.classes)
    (h5 : s.ru.attnRight → r.attnRight) : Keeps s0 { s with ru := r } := by
  refine h.trans ⟨⟨⟨rfl, rfl, rfl, rfl, rfl, fun a => ?_, fun _ => RingsApart.of_same rfl rfl (.of_rw rfl), id, fun _ => id, .refl _⟩, fun _ => rfl, rfl⟩, rfl, id⟩
  obtain ⟨a1, a2, a3, a4, a5⟩ := a
  refine ⟨a1, a2, a3, ?_, h5 a5⟩
  simpa only [State.ringSound, State.reservedRecords, ReportUnit.occupied, ReportUnit.unreadCount, h1, h2, h3, h4] using a4

@[simp] theorem keeps_request {s0 s : State} (h : Keeps s0 s) (id : RecordId) : Keeps s0 (s.request id) := by
  unfold State.request; split
  · exact h
  · dsimp only; split
    · exact keeps_setRecords h _ (countP_replacePending (by assumption))
    · exact keeps_setRecords h _ (by simp [List.countP_append, RecordItem.isEvent])

@[simp] theorem keeps_requestAll {s0 s : State} (h : Keeps s0 s) (ids : List RecordId) : Keeps s0 (s.requestAll ids) :=
  keeps_foldl (fun _ _ h => keeps_request h _) ids h

@[simp] theorem keeps_requestImage {s0 s : State} (h : Keeps s0 s) (p : Fin 2) (es : List Event) :
    Keeps s0 (s.requestImage p es) := by
  unfold State.requestImage; split
  · exact h
  · split
    · exact keeps_setRecords h _ (countP_joinPending (by assumption))
    · exact keeps_setRecords h _ (by simp [List.countP_append, RecordItem.isEvent])

@[simp] theorem keeps_requestWholeImage {s0 s : State} (h : Keeps s0 s) (p : Fin 2) : Keeps s0 (s.requestWholeImage p) := by
  unfold State.requestWholeImage; split
  · exact h
  · exact keeps_setRecords h _ (by simp [List.countP_append, RecordItem.isEvent])

@[simp] theorem keeps_requestMeter {s0 s : State} (h : Keeps s0 s) (l : Fin 8) : Keeps s0 (s.requestMeter l) := by
  unfold State.requestMeter; split
  · exact h
  · split
    · exact h
    · exact keeps_setRecords h _ (by simp [List.countP_append, RecordItem.isEvent])

@[simp] theorem keeps_evalAttn {s0 s : State} (h : Keeps s0 s) : Keeps s0 s.evalAttn :=
  keeps_setRu h _ rfl rfl rfl rfl fun _ => rfl

theorem holds_of_discards {p : Phase} (h : p.discardsEvents = false) : p.holdsWrites = false := by
  cases p <;> simp_all [Phase.discardsEvents, Phase.holdsWrites]

theorem toNat_succ_sub {a b : BitVec 10} (h : (a - b).toNat < 1023) : (a + 1 - b).toNat = (a - b).toNat + 1 := by
  have : a + 1 - b = (a - b) + 1 := by ring
  rw [this]
  generalize a - b = x at *
  rw [BitVec.toNat_add]
  have h1 : (1 : BitVec 10).toNat = 1 := rfl
  omega

theorem keeps_reserve {s0 s : State} (h : Keeps s0 s) (e : Event) (hd : s.phase.discardsEvents = false)
    (ho : s.ru.occupied < Config.eventLimit) : Keeps s0 (s.reserve e) := by
  refine h.trans ⟨⟨⟨rfl, rfl, rfl, rfl, rfl, fun a => ?_, fun _ => RingsApart.of_same rfl rfl (.of_rw rfl), id, fun _ => id, .refl _⟩, fun _ => rfl, rfl⟩, rfl, id⟩
  obtain ⟨a1, a2, a3, ⟨r1, r2, r3⟩, a5⟩ := a
  refine ⟨a1, a2, a3, ⟨?_, ?_, ?_⟩, a5⟩
  · simp only [State.reserve, ReportUnit.occupied, List.length_append, List.length_singleton] at *
    rw [toNat_succ_sub (by simpa [Config.eventLimit] using ho), r1]
  · simp only [State.reserve, State.reservedRecords, ReportUnit.unreadCount, List.length_append, List.length_singleton,
      List.countP_append, List.countP_singleton, RecordItem.isEvent, if_true] at *
    omega
  · intro hh
    simp only [State.reserve, holds_of_discards hd] at hh
    cases hh

@[simp] theorem keeps_loseEvent {s0 s : State} (h : Keeps s0 s) (e : Event) : Keeps s0 (s.loseEvent e) := by
  unfold State.loseEvent
  refine keeps_request ?_ _
  refine keeps_setRu h _ ?_ ?_ ?_ ?_ ?_ <;> first | rfl | exact id

@[simp] theorem keeps_passEvent {s0 s : State} (h : Keeps s0 s) (e : Event) : Keeps s0 (s.passEvent e) := by
  unfold State.passEvent; split
  · exact h
  · split
    · exact keeps_loseEvent h e
    · exact keeps_reserve h e (by simpa using ‹¬ s.phase.discardsEvents = true›) (by omega)

@[simp] theorem keeps_passEvents {s0 s : State} (h : Keeps s0 s) (es : List Event) : Keeps s0 (s.passEvents es) :=
  keeps_foldl (fun _ _ h => keeps_passEvent h _) es h

@[simp] theorem keeps_raiseEventsLost {s0 s : State} (h : Keeps s0 s) : Keeps s0 s.raiseEventsLost := by
  unfold State.raiseEventsLost; split
  · exact h
  · refine keeps_request (keeps_passEvent ?_ _) _
    refine keeps_setRu h _ ?_ ?_ ?_ ?_ ?_ <;> first | rfl | exact id

theorem toNat_sub_of_le {p k t : BitVec 10} (h : (t - k).toNat ≤ (p - k).toNat) :
    (p - t).toNat = (p - k).toNat - (t - k).toNat := by
  have : p - t = (p - k) - (t - k) := by ring
  rw [this, BitVec.toNat_sub_of_le (by simpa [BitVec.le_def] using h)]

theorem keeps_setTakeMark {s0 s : State} (h : Keeps s0 s) (t : BitVec 10) (u : Unread)
    (hw : (t - s.ru.takeMark).toNat ≤ s.ru.unreadCount) :
    Keeps s0 (({ s with ru := { s.ru with
      takeMark := t, classes := s.ru.classes.drop (t - s.ru.takeMark).toNat, unread := u } } : State).evalAttn) := by
  refine h.trans ⟨⟨⟨rfl, rfl, rfl, rfl, rfl, fun a => ?_, fun _ => RingsApart.of_same rfl rfl (.of_rw rfl), id, fun _ => id, .refl _⟩, fun _ => rfl, rfl⟩, rfl, id⟩
  obtain ⟨a1, a2, a3, ⟨r1, r2, r3⟩, a5⟩ := a
  have hp : (t - s.ru.takeMark).toNat ≤ (s.ru.postMark - s.ru.takeMark).toNat := by
    simp only [ReportUnit.occupied, ReportUnit.unreadCount] at *; omega
  refine ⟨a1, a2, a3, ⟨?_, ?_, r3⟩, rfl⟩
  · simp only [State.evalAttn, ReportUnit.occupied, List.length_drop] at *
    rw [toNat_sub_of_le hp, r1]
  · simp only [State.evalAttn, State.reservedRecords, ReportUnit.unreadCount, List.length_drop] at *
    rw [toNat_sub_of_le hw]
    omega

@[simp] theorem keeps_takeMarkWritten {s0 s : State} (h : Keeps s0 s) (t : BitVec 10) : Keeps s0 (s.takeMarkWritten t) := by
  unfold State.takeMarkWritten
  dsimp only
  split
  · exact keeps_request (keeps_evalAttn h) _
  · split
    · exact keeps_raiseEventsLost (keeps_request (keeps_setTakeMark h t _ (by assumption)) _)
    · refine keeps_request ?_ _
      refine keeps_setRu h _ ?_ ?_ ?_ ?_ ?_ <;> first | rfl | exact id

@[simp] theorem keeps_maskWritten {s0 s : State} (h : Keeps s0 s) (w : Word) : Keeps s0 (s.maskWritten w) :=
  keeps_request (h.trans (by
    refine ⟨⟨⟨rfl, rfl, rfl, rfl, rfl, fun a => ?_, fun _ => RingsApart.of_same rfl rfl (.of_rw rfl), id, fun _ => id, .refl _⟩, fun _ => rfl, rfl⟩, rfl, id⟩
    obtain ⟨a1, a2, a3, a4, a5⟩ := a
    exact ⟨a1, a2, a3, a4, rfl⟩)) _

/-- R159: the oldest reserved record is posted. -/
theorem keeps_post {s0 s : State} (h : Keeps s0 s) {rest : List RecordItem} {x : MemController} (c : EventClass)
    (h1 : x.size = s.mc.size) (h2 : x.refreshPending = s.mc.refreshPending) (h3 : x.records = rest)
    (hc : s.reservedRecords = rest.countP (·.isEvent) + 1) : Keeps s0 (({ s with mc := x } : State).postRecord c) := by
  refine h.trans ⟨⟨⟨rfl, rfl, rfl, rfl, h1, fun a => ?_, fun _ => RingsApart.of_same rfl (base_of_size h1) (.of_rw rfl), id,
    fun _ => id, .refl _⟩, fun _ => rfl, rfl⟩, rfl, id⟩
  obtain ⟨a1, a2, a3, ⟨r1, r2, r3⟩, a5⟩ := a
  refine ⟨a1, h2.le.trans a2, a3, ⟨r1, ?_, fun hh => ?_⟩, rfl⟩
  · have hu : s.ru.unreadCount < 1023 := by
      have := (s.ru.postMark - s.ru.takeMark).isLt
      simp only [ReportUnit.occupied] at r1
      omega
    have h4 : (s.ru.written + 1 - s.ru.takeMark).toNat = (s.ru.written - s.ru.takeMark).toNat + 1 :=
      toNat_succ_sub (by simpa [ReportUnit.unreadCount] using hu)
    change (s.ru.written + 1 - s.ru.takeMark).toNat + x.records.countP (·.isEvent) = s.ru.classes.length
    simp only [ReportUnit.unreadCount] at r2
    rw [h3]
    omega
  · have := r3 hh
    omega

/-- The head of the Record order is done: it leaves, and its completion has its effect. -/
theorem keeps_finish {s0 s : State} (h : Keeps s0 s) {it it' : RecordItem} {rest : List RecordItem} {r : Requester}
    (hr : s.mc.records = it :: rest) (hw : it'.work = it.work) :
    Keeps s0 (({ s with mc := { s.mc with records := rest, lastOfThree := r } } : State).finishItem it') := by
  have plain (hk : it.isEvent = false) (m : List RecordItem) (hm : m.countP (·.isEvent) = rest.countP (·.isEvent)) :
      Keeps s0 { s with mc := { s.mc with records := m, lastOfThree := r } } :=
    keeps_setMc h { s.mc with records := m, lastOfThree := r } rfl (Nat.le_refl _) (by simp [hm, hr, hk])
  unfold State.finishItem
  cases hk : it.work with
  | event n c =>
    simp only [hw, hk]
    refine keeps_setMc h { s.mc with records := _, lastOfThree := r } rfl (Nat.le_refl _) ?_
    simp [hr, RecordItem.isEvent, hk]
  | posting n c =>
    simp only [hw, hk]
    exact keeps_post h c rfl rfl rfl (by simp [State.reservedRecords, hr, RecordItem.isEvent, hk])
  | cueRead =>
    simp only [hw, hk]
    refine keeps_setCu (s := { s with mc := { s.mc with records := rest ++ [⟨.cueMark, false,
      [⟨s.cueTakeAddress, [(s.cu.takeMark + 1).setWidth 32]⟩], []⟩], lastOfThree := r } })
      (plain (by simp [RecordItem.isEvent, hk]) _ (by simp [RecordItem.isEvent])) _ (fun hb => hb) rfl id
  | image p => simp only [hw, hk]; exact keeps_passEvents (plain (by simp [RecordItem.isEvent, hk]) _ rfl) _
  | wholeImage p => simp only [hw, hk]; exact keeps_passEvents (plain (by simp [RecordItem.isEvent, hk]) _ rfl) _
  | meterTable l => simp only [hw, hk]; exact keeps_passEvents (plain (by simp [RecordItem.isEvent, hk]) _ rfl) _
  | status id => simp only [hw, hk]; exact plain (by simp [RecordItem.isEvent, hk]) _ rfl
  | cueMark => simp only [hw, hk]; exact plain (by simp [RecordItem.isEvent, hk]) _ rfl
  | stageRead => simp only [hw, hk]; exact plain (by simp [RecordItem.isEvent, hk]) _ rfl
  | orphan => simp only [hw, hk]; exact plain (by simp [RecordItem.isEvent, hk]) _ rfl

theorem beginItem_work (s : State) (it : RecordItem) : (s.beginItem it).1.work = it.work := by
  unfold State.beginItem; split
  · rfl
  · split
    · rfl
    · rfl
    · split <;> rfl
    · rfl

@[simp] theorem beginItem_records (s : State) (it : RecordItem) : (s.beginItem it).2.mc = s.mc := by
  unfold State.beginItem; split
  · rfl
  · split
    · rfl
    · rfl
    · split <;> rfl
    · rfl

theorem keeps_beginItem {s0 s : State} (h : Keeps s0 s) (it : RecordItem) : Keeps s0 (s.beginItem it).2 := by
  unfold State.beginItem; split
  · exact h
  · split
    · exact h
    · exact h
    · split
      · exact h
      · exact keeps_setWindow h _ _
    · exact h

@[simp] theorem keeps_grantItem {s0 s : State} (h : Keeps s0 s) : Keeps s0 s.grantItem := by
  unfold State.grantItem
  split
  · exact h
  · rename_i it rest hr
    have hw := beginItem_work s it
    have hb := keeps_beginItem h it
    have hm : (s.beginItem it).2.mc.records = it :: rest := by simp [hr]
    dsimp only
    split
    · exact keeps_finish hb hm hw
    · rename_i w ws _
      split
      · exact keeps_finish (keeps_performWrite hb w) (by simpa [State.performWrite] using hm) hw
      · refine keeps_setRecords (keeps_performWrite hb w) _ ?_
        simp [State.performWrite, hr, List.countP_cons, RecordItem.isEvent, hw]

theorem performWrites_records (ws : List MemWrite) : ∀ s : State, (ws.foldl State.performWrite s).mc = s.mc := by
  induction ws with
  | nil => intro s; rfl
  | cons w ws ih => intro s; exact (ih _).trans rfl

@[simp] theorem keeps_completeHead {s0 s : State} (h : Keeps s0 s) : Keeps s0 s.completeHead := by
  unfold State.completeHead
  split
  · exact h
  · rename_i it rest hr
    exact keeps_finish (keeps_foldl (fun _ _ h => keeps_performWrite h _) _ (keeps_beginItem h it))
      (by rw [performWrites_records]; simp [hr]) (beginItem_work s it)

@[simp] theorem keeps_completeItems {s0 : State} : ∀ (n : Nat) {s : State}, Keeps s0 s → Keeps s0 (s.completeItems n)
  | 0, _, h => h
  | n + 1, _, h => keeps_completeItems n (keeps_completeHead h)

@[simp] theorem keeps_completeThrough {s0 s : State} (h : Keeps s0 s) (p : RecordWork → Bool) :
    Keeps s0 (s.completeThrough p) := by
  unfold State.completeThrough; split
  · exact h
  · exact keeps_completeItems _ h

/-! ## What the Record order's completions leave alone -/

/-- `t` differs from `s` at most in memory, the Record order and the rotation, the Report Unit, the Meter Unit, and the Cue
Unit's take mark and the record it has read. -/
structure RecordsOnly (s t : State) : Prop where
  mclk : t.mclk = s.mclk
  hrstn : t.hrstn = s.hrstn
  phase : t.phase = s.phase
  pp : t.pp = s.pp
  rw : t.rw = s.rw
  se : t.se = s.se
  cu : t.cu = { s.cu with takeMark := t.cu.takeMark, record := t.cu.record }
  cb : t.cb = s.cb
  li : t.li = s.li
  si : t.si = s.si
  pending : t.pending = s.pending
  mc : t.mc = { s.mc with records := t.mc.records, lastOfThree := t.mc.lastOfThree }

theorem RecordsOnly.refl (s : State) : RecordsOnly s s := by constructor <;> rfl

theorem RecordsOnly.trans {s t u : State} (a : RecordsOnly s t) (b : RecordsOnly t u) : RecordsOnly s u :=
  ⟨b.mclk.trans a.mclk, b.hrstn.trans a.hrstn, b.phase.trans a.phase, b.pp.trans a.pp, b.rw.trans a.rw, b.se.trans a.se,
    by rw [b.cu, a.cu], b.cb.trans a.cb, b.li.trans a.li, b.si.trans a.si, b.pending.trans a.pending, by rw [b.mc, a.mc]⟩

theorem RecordsOnly.ofReport {s t : State} (a : ReportOnly s t) : RecordsOnly s t := by
  refine ⟨a.mclk, a.hrstn, a.phase, a.pp, a.rw, a.se, ?_, a.cb, a.li, a.si, a.pending, ?_⟩
  · rw [a.cu]
  · rw [a.mc]

theorem finishItem_frame (s : State) (it : RecordItem) : RecordsOnly s (s.finishItem it) := by
  unfold State.finishItem
  split
  · constructor <;> rfl
  · constructor <;> rfl
  · exact .ofReport (passEvents_only _ _)
  · exact .ofReport (passEvents_only _ _)
  · exact .ofReport (passEvents_only _ _)
  · constructor <;> rfl
  all_goals exact .refl _

theorem beginItem_frame (s : State) (it : RecordItem) : RecordsOnly s (s.beginItem it).2 := by
  unfold State.beginItem
  split
  · exact .refl s
  · split
    · exact .refl s
    · exact .refl s
    · split
      · exact .refl s
      · constructor <;> rfl
    · exact .refl s

theorem performWrites_frame (ws : List MemWrite) : ∀ s : State, RecordsOnly s (ws.foldl State.performWrite s) := by
  induction ws with
  | nil => intro s; exact .refl s
  | cons w ws ih =>
    intro s
    have h : RecordsOnly s (s.performWrite w) := by constructor <;> rfl
    exact h.trans (ih _)

theorem setRecords_frame (s : State) (l : List RecordItem) (r : Requester) :
    RecordsOnly s { s with mc := { s.mc with records := l, lastOfThree := r } } := by constructor <;> rfl

theorem completeHead_frame (s : State) : RecordsOnly s s.completeHead := by
  unfold State.completeHead
  split
  · exact .refl s
  · rename_i it rest _
    dsimp only
    have h := (beginItem_frame s it).trans (performWrites_frame (s.beginItem it).1.writes _)
    generalize (s.beginItem it).1.writes.foldl State.performWrite (s.beginItem it).2 = t at h
    exact (h.trans (setRecords_frame t rest .record)).trans (finishItem_frame _ _)

theorem completeItems_frame : ∀ (n : Nat) (s : State), RecordsOnly s (s.completeItems n)
  | 0, s => .refl s
  | n + 1, s => (completeHead_frame s).trans (completeItems_frame n _)

theorem completeThrough_frame (s : State) (p : RecordWork → Bool) : RecordsOnly s (s.completeThrough p) := by
  unfold State.completeThrough
  split
  · exact .refl s
  · exact completeItems_frame _ s

end Sys2Proof.Machine
end

