-- ==== Sys2Proof/Laws/KeepsBlocks.lean ====
section
/-! SUPPORT. What the operations of Ring Watch, the Surface Interface, the Meter Unit, the Stream Engine, the lanes, the
outputs, the Pass Port, the arbiter and the Clock Block keep (`Keeps`). -/

namespace Sys2Proof.Machine

set_option linter.unusedTactic false
set_option linter.unreachableTactic false
set_option linter.unusedSimpArgs false

variable {s0 s : State}

/-! ## The directory -/

/-- The rings of `f` lie where rings of `e` lay. -/
def RingsFrom (e f : RingEntry) : Prop := ∀ r ∈ f.rings, ∃ q ∈ e.rings, r.base = q.base ∧ r.bytes = q.bytes

theorem keeps_setEntry {i : Fin 32} {e : RingEntry} (h : Keeps s0 s) (he : s.entry i = some e) (f : RingEntry)
    (hf : RingsFrom e f) : Keeps s0 (s.setEntry i (some f)) := by
  refine h.trans ⟨⟨⟨rfl, rfl, rfl, rfl, rfl, fun a => ⟨a.memory, a.refresh, a.cues, a.ring, a.attn⟩, fun _ =>
    RingsApart.of_same rfl rfl ?_, id, fun _ => id, .refl _⟩, fun _ => rfl, rfl⟩, rfl, id⟩
  intro j f' hj
  by_cases hij : i = j
  · subst hij
    rw [State.entry_setEntry_self] at hj
    cases hj
    exact ⟨e, he, hf⟩
  · rw [State.entry_setEntry_of_ne s _ hij] at hj
    exact ⟨f', hj, fun r hr => ⟨r, hr, rfl, rfl⟩⟩

@[simp] theorem keeps_removeEntry (h : Keeps s0 s) (i : Fin 32) : Keeps s0 (s.removeEntry i) := by
  refine h.trans ⟨⟨⟨rfl, rfl, rfl, rfl, rfl, fun a => ⟨a.memory, a.refresh, a.cues, a.ring, a.attn⟩, fun _ =>
    RingsApart.of_same rfl rfl ?_, id, fun _ => id, .refl _⟩, fun _ => rfl, rfl⟩, rfl, id⟩
  intro j f' hj
  unfold State.removeEntry at hj
  by_cases hij : i = j
  · subst hij; rw [State.entry_setEntry_self] at hj; cases hj
  · rw [State.entry_setEntry_of_ne s _ hij] at hj
    exact ⟨f', hj, fun r hr => ⟨r, hr, rfl, rfl⟩⟩

theorem mem_rings {e : RingEntry} {r : Ring} :
    r ∈ e.rings ↔ r = e.current ∨ e.pendingRing = some r ∨ e.retiring = some r := by
  simp [RingEntry.rings]

theorem RingsFrom.trans {e f g : RingEntry} (a : RingsFrom e f) (b : RingsFrom f g) : RingsFrom e g := by
  intro r hr
  obtain ⟨q, hq, h1, h2⟩ := b r hr
  obtain ⟨p, hp, h3, h4⟩ := a q hq
  exact ⟨p, hp, h1.trans h3, h2.trans h4⟩

theorem ringsFrom_release (e : RingEntry) : RingsFrom e e.release := by
  unfold RingEntry.release
  intro r hr
  refine ⟨r, ?_, rfl, rfl⟩
  rw [mem_rings] at *
  split at hr
  · exact hr
  · split at hr
    · exact hr
    · rcases hr with hr | hr | hr
      · exact .inl hr
      · exact .inr (.inl hr)
      · cases hr

theorem setPeriod_bytes (r : Ring) (p : Nat) (x : PeriodRec) : (r.setPeriod p x).bytes = r.bytes := by
  simp [Ring.setPeriod, Ring.bytes, Ring.periodBytes]

theorem ringsFrom_setPeriod (e : RingEntry) (part : RingPart) (p : Nat) (x : PeriodRec) :
    RingsFrom e (e.mapRing part (·.setPeriod p x)) := by
  intro r hr
  rw [mem_rings] at hr
  cases part <;> simp only [RingEntry.mapRing, Option.map_eq_some_iff] at hr
  · rcases hr with rfl | hr | hr
    · exact ⟨e.current, by simp [mem_rings], rfl, setPeriod_bytes _ _ _⟩
    · exact ⟨r, by simp [mem_rings, hr], rfl, rfl⟩
    · exact ⟨r, by simp [mem_rings, hr], rfl, rfl⟩
  · rcases hr with rfl | ⟨q, hq, rfl⟩ | hr
    · exact ⟨e.current, by simp [mem_rings], rfl, rfl⟩
    · exact ⟨q, by simp [mem_rings, hq], rfl, setPeriod_bytes _ _ _⟩
    · exact ⟨r, by simp [mem_rings, hr], rfl, rfl⟩
  · rcases hr with rfl | hr | ⟨q, hq, rfl⟩
    · exact ⟨e.current, by simp [mem_rings], rfl, rfl⟩
    · exact ⟨r, by simp [mem_rings, hr], rfl, rfl⟩
    · exact ⟨q, by simp [mem_rings, hq], rfl, setPeriod_bytes _ _ _⟩

@[simp] theorem keeps_setPeriod (h : Keeps s0 s) (i : Fin 32) (part : RingPart) (p : Nat) (x : PeriodRec) :
    Keeps s0 (s.setPeriod i part p x) := by
  unfold State.setPeriod
  split
  · exact h
  · exact keeps_setEntry h (by assumption) _ ((ringsFrom_setPeriod _ _ _ _).trans (ringsFrom_release _))

@[simp] theorem keeps_wrapRing (h : Keeps s0 s) (i : Fin 32) : Keeps s0 (s.wrapRing i) := by
  unfold State.wrapRing
  split
  · exact h
  · rename_i e he
    split
    · exact h
    · rename_i r hr
      refine keeps_setEntry h he _ (RingsFrom.trans ?_ (ringsFrom_release _))
      intro q hq
      rw [mem_rings] at hq
      refine ⟨q, ?_, rfl, rfl⟩
      rw [mem_rings]
      rcases hq with rfl | hq | hq
      · exact .inr (.inl hr)
      · cases hq
      · exact .inl (by simpa using hq.symm)

theorem rangesOverlap_comm (a s b t : Nat) : rangesOverlap a s b t = rangesOverlap b t a s := by
  simp [rangesOverlap, Bool.and_comm]

theorem overlapsRing_false {base size : Nat} (h : s.overlapsRing base size = false) {i : Fin 32} {e : RingEntry}
    (he : s.entry i = some e) {r : Ring} (hr : r ∈ e.rings) : rangesOverlap base size r.base r.bytes = false := by
  unfold State.overlapsRing at h
  rw [List.any_eq_false] at h
  have := h i (by simp [indices])
  rw [he] at this
  simp only [List.any_eq_true, not_exists, not_and, Bool.not_eq_true] at this
  exact this r hr

theorem fresh_bytes (dir : Direction) (base channels frames count : Nat) :
    (Ring.fresh dir base channels frames count).bytes = frames * channels * 4 * count := by
  simp [Ring.fresh, Ring.bytes, Ring.periodBytes]

theorem fresh_base (dir : Direction) (base channels frames count : Nat) :
    (Ring.fresh dir base channels frames count).base = base := rfl

/-- A ring that shares no byte with any other and fits joins the directory, beside the ring the entry holds. -/
theorem keeps_addRing {i : Fin 32} {f : RingEntry} {r : Ring} (h : Keeps s0 s) (hn : s.overlapsRing r.base r.bytes = false)
    (hf : r.fitsBelow s.base) (hr : ∀ q ∈ f.rings, q = r ∨ ∃ e, s.entry i = some e ∧ q ∈ e.rings) :
    Keeps s0 (s.setEntry i (some f)) := by
  refine h.trans ⟨⟨⟨rfl, rfl, rfl, rfl, rfl, fun a => ⟨a.memory, a.refresh, a.cues, a.ring, a.attn⟩, fun hp a => ?_, id,
    fun _ => id, .refl _⟩, fun _ => rfl, rfl⟩, rfl, id⟩
  have old : ∀ j e, i ≠ j → (s.setEntry i (some f)).entry j = some e → s.entry j = some e := by
    intro j e hij hj
    rwa [State.entry_setEntry_of_ne s _ hij] at hj
  have clear : ∀ j e, i ≠ j → s.entry j = some e → ∀ x ∈ f.rings, ∀ q ∈ e.rings,
      rangesOverlap x.base x.bytes q.base q.bytes = false := by
    intro j e hij hj x hx q hq
    rcases hr x hx with rfl | ⟨g, hg, hxg⟩
    · exact overlapsRing_false hn hj hq
    · exact a.apart i j g e hij hg hj x hxg q hq
  constructor
  · intro j k e g hjk hj hk x hx q hq
    by_cases hij : i = j
    · subst hij
      rw [State.entry_setEntry_self] at hj
      cases hj
      exact clear k g hjk (old k g hjk hk) x hx q hq
    · by_cases hik : i = k
      · subst hik
        rw [State.entry_setEntry_self] at hk
        cases hk
        rw [rangesOverlap_comm]
        exact clear j e hij (old j e hij hj) q hq x hx
      · exact a.apart j k e g hjk (old j e hij hj) (old k g hik hk) x hx q hq
  · intro j e hj x hx
    change x.fitsBelow s.base
    by_cases hij : i = j
    · subst hij
      rw [State.entry_setEntry_self] at hj
      cases hj
      rcases hr x hx with rfl | ⟨g, hg, hxg⟩
      · exact hf
      · exact a.within i g hg x hxg
    · exact a.within j e (old j e hij hj) x hx
  · intro hh
    exact absurd hh hp

theorem fits_of_ringFits {dir : Direction} {cb base channels frames count : Nat}
    (h : ringFits cb base channels frames count = true) : (Ring.fresh dir base channels frames count).fitsBelow cb := by
  simp only [ringFits, Bool.and_eq_true, beq_iff_eq, decide_eq_true_eq] at h
  exact ⟨h.1, by rw [fresh_bytes]; exact h.2⟩

theorem keeps_enterRing {i : Fin 32} {g : Geometry} {t : State} (h : Keeps s0 s)
    (hg : ringFits s.base g.base g.channels g.frames g.count = true) (ht : s.enterRing i g = some t) : Keeps s0 t := by
  unfold State.enterRing at ht
  dsimp only at ht
  split at ht
  · cases ht
  · cases ht
    refine keeps_addRing h (r := Ring.fresh g.dir g.base g.channels g.frames g.count) (by simp_all)
      (fits_of_ringFits hg) fun q hq => .inl ?_
    simpa [mem_rings] using hq

theorem keeps_placePending {i : Fin 32} {base frames count : Nat} {t : State} (h : Keeps s0 s)
    (ht : s.placePending i base frames count = .ok t) : Keeps s0 t := by
  unfold State.placePending at ht
  split at ht
  · cases ht
  · rename_i e he
    split at ht
    · cases ht
    · rename_i hpr
      dsimp only at ht
      split at ht
      · cases ht
      · split at ht
        · cases ht
        · cases ht
          refine keeps_addRing h (r := Ring.fresh e.dir base e.current.channels frames count) (by simp_all)
            (fits_of_ringFits (by simp_all)) fun q hq => ?_
          simp only [mem_rings] at hq
          rcases hq with rfl | hq | hq
          · exact .inr ⟨e, he, by simp [mem_rings]⟩
          · exact .inl (by simpa using hq.symm)
          · exact .inr ⟨e, he, by simp [mem_rings, hq]⟩

theorem geometry_fits {x : StreamStage} {cb : Nat} {l : Fin 8} {d : Fin 4} {cap : Nat} {g : Geometry}
    (h : x.geometry cb l d cap = some g) : ringFits cb g.base g.channels g.frames g.count = true := by
  unfold StreamStage.geometry at h
  split at h
  · cases h
  · split at h
    · cases h
    · split at h
      · cases h
      · split at h
        · rename_i hc
          cases h
          exact hc.2.2.2.2
        · cases h

/-! ## Ring Watch -/

@[simp] theorem keeps_periodEvent (h : Keeps s0 s) (k : EventKind) (i : Fin 32) (p : Nat) (d1 : Word) :
    Keeps s0 (s.periodEvent k i p d1) := keeps_passEvent h _

@[simp] theorem keeps_fillNotice (h : Keeps s0 s) (i : Fin 32) (p : Nat) : Keeps s0 (s.fillNotice i p) := by
  unfold State.fillNotice; dsimp only; split <;> simp [h]

@[simp] theorem keeps_lateWrite (h : Keeps s0 s) (f : Found) (p : Nat) (rec : PeriodRec) (a : Nat) :
    Keeps s0 (s.lateWrite f p rec a) := by
  unfold State.lateWrite; dsimp only; split <;> simp (maxDischargeDepth := 20) [h]

@[simp] theorem keeps_hostWriteClaim (h : Keeps s0 s) (f : Found) (a : Nat) (b : Bool) :
    Keeps s0 (s.hostWriteClaim f a b).1 := by
  unfold State.hostWriteClaim; dsimp only; repeat' split
  all_goals simp (maxDischargeDepth := 20) [h]

@[simp] theorem keeps_hostReadClaim (h : Keeps s0 s) (f : Found) (a : Nat) : Keeps s0 (s.hostReadClaim f a) := by
  unfold State.hostReadClaim; dsimp only; repeat' split
  all_goals simp (maxDischargeDepth := 20) [h]

@[simp] theorem keeps_beginClaim (h : Keeps s0 s) (i : Fin 32) (p : Nat) : Keeps s0 (s.beginClaim i p).1 := by
  unfold State.beginClaim; repeat' split
  all_goals simp (maxDischargeDepth := 20) [h]

@[simp] theorem keeps_playedClaim (h : Keeps s0 s) (i : Fin 32) (b p : Nat) : Keeps s0 (s.playedClaim i b p) := by
  unfold State.playedClaim; dsimp only; repeat' split
  all_goals simp (maxDischargeDepth := 20) [h]

@[simp] theorem keeps_firstStoreClaim (h : Keeps s0 s) (i : Fin 32) (p : Nat) (q : StreamPolicy) :
    Keeps s0 (s.firstStoreClaim i p q).1 := by
  unfold State.firstStoreClaim; repeat' split
  all_goals simp (maxDischargeDepth := 20) [h]

@[simp] theorem keeps_lastStoreClaim (h : Keeps s0 s) (i : Fin 32) (p : Nat) : Keeps s0 (s.lastStoreClaim i p) := by
  unfold State.lastStoreClaim; dsimp only; repeat' split
  all_goals simp (maxDischargeDepth := 20) [h]

/-! ## The interlock of R136 over the operations of a port -/

section
variable {x : Port}

theorem motorItem_inj {f g : Fin 16} (h : motorItem f = motorItem g) : f = g := by
  have := congrArg Fin.val h
  simp only [motorItem] at this
  omega

/-- A change outside the link, the motors, the touches and the dirty set. -/
theorem Port.Interlocked.same {y : Port} (h : x.Interlocked) (h1 : y.dirty = x.dirty) (h2 : y.motors = x.motors)
    (h3 : y.faders = x.faders) (h4 : y.up = x.up) : y.Interlocked :=
  ⟨by rw [h1, h2]; exact h.target, by rw [h2, h3]; exact h.driven, by rw [h1, h4]; exact h.down⟩

theorem mark_up (x : Port) (k : Fin 48) (m : DirtyMark) : (x.mark k m).up = x.up := by
  unfold Port.mark; split <;> rfl
theorem mark_motors (x : Port) (k : Fin 48) (m : DirtyMark) : (x.mark k m).motors = x.motors := by
  unfold Port.mark; split <;> rfl
theorem mark_faders (x : Port) (k : Fin 48) (m : DirtyMark) : (x.mark k m).faders = x.faders := by
  unfold Port.mark; split <;> rfl

theorem interlocked_mark (h : x.Interlocked) (k : Fin 48) (m : DirtyMark)
    (hm : ∀ f, k = motorItem f → m = .target → x.motors[f].state = .driven) : (x.mark k m).Interlocked := by
  unfold Port.mark
  split
  · rename_i hu
    refine ⟨fun f hf => ?_, h.driven, fun hd => absurd hd (by simp [hu])⟩
    by_cases hk : k = motorItem f
    · subst hk; exact hm f rfl (by simpa using hf)
    · refine h.target f ?_
      simpa [Fin.getElem_fin, Vector.getElem_set, Fin.val_inj, hk] using hf
  · exact h

theorem interlocked_markDirty (h : x.Interlocked) (k : Fin 48) : (x.mark k .dirty).Interlocked :=
  interlocked_mark h k _ (fun _ _ hm => by cases hm)

theorem lamp_ne_motor (i f : Fin 16) : lampItem i ≠ motorItem f := by
  intro h; have := congrArg Fin.val h; simp only [lampItem, motorItem] at this; omega
theorem ladder_ne_motor (i f : Fin 16) : ladderItem i ≠ motorItem f := by
  intro h; have := congrArg Fin.val h; simp only [ladderItem, motorItem] at this; omega

theorem interlocked_markBelow (h : x.Interlocked) (item : Fin 16 → Fin 48) (n : Nat) :
    (x.markBelow item n).Interlocked := by
  unfold Port.markBelow
  generalize indices 16 = l
  induction l generalizing x with
  | nil => exact h
  | cons i l ih =>
    refine ih ?_
    dsimp only
    split
    · exact interlocked_mark h _ _ (fun _ _ hm => by cases hm)
    · exact h

theorem markBelow_motors (item : Fin 16 → Fin 48) (n : Nat) (x : Port) : (x.markBelow item n).motors = x.motors := by
  unfold Port.markBelow
  generalize indices 16 = l
  induction l generalizing x with
  | nil => rfl
  | cons i l ih => rw [List.foldl_cons, ih]; split <;> simp [mark_motors]

theorem interlocked_draw (h : x.Interlocked) : x.draw.Interlocked := by
  unfold Port.draw
  split
  · exact h
  · split
    · exact h.same rfl rfl rfl rfl
    · split
      · exact h
      · rename_i hn _ _ item _
        refine ⟨fun f hf => ?_, h.driven, fun hd => absurd (Or.inl hd) hn⟩
        by_cases hk : item = motorItem f
        · subst hk; simp at hf
        · refine h.target f ?_
          simpa [Fin.getElem_fin, Vector.getElem_set, Fin.val_inj, hk] using hf

theorem interlocked_take (h : x.Interlocked) (n : Nat) : (x.take n).Interlocked := h.same rfl rfl rfl rfl

theorem interlocked_evalGroup (h : x.Interlocked) (g : Fin 16) : (x.evalGroup g).1.Interlocked := h.same rfl rfl rfl rfl

theorem interlocked_setFader (h : x.Interlocked) (f : Fin 16) (a : Fader) (ha : a.touched = x.faders[f].touched) :
    ({ x with faders := x.faders.set f a } : Port).Interlocked := by
  refine ⟨h.target, fun g hg => ?_, h.down⟩
  have := h.driven g hg
  by_cases hk : f = g
  · subst hk; simpa [ha] using this
  · simpa [Fin.getElem_fin, Vector.getElem_set, Fin.val_inj, hk] using this

theorem interlocked_setWindowState (h : x.Interlocked) (f : Fin 16) : (x.setWindowState f).Interlocked :=
  interlocked_setFader h f _ rfl

/-- A motor changes to a state that is not DRIVEN, its item no longer holding TARGET, or nothing pending. -/
theorem interlocked_motor (h : x.Interlocked) (f : Fin 16) (m : Motor)
    (hd : m.state = .driven → x.faders[f].touched = false) (ht : m.state = .driven ∨ x.dirty[motorItem f] ≠ .target) :
    ({ x with motors := x.motors.set f m } : Port).Interlocked := by
  refine ⟨fun g hg => ?_, fun g hg => ?_, h.down⟩
  · by_cases hk : f = g
    · subst hk
      rcases ht with ht | ht
      · simpa using ht
      · exact absurd hg ht
    · simpa [Fin.getElem_fin, Vector.getElem_set, Fin.val_inj, hk] using h.target g hg
  · by_cases hk : f = g
    · subst hk; exact hd (by simpa using hg)
    · exact h.driven g (by simpa [Fin.getElem_fin, Vector.getElem_set, Fin.val_inj, hk] using hg)

/-- A motor leaves DRIVEN and a release is marked. -/
theorem interlocked_release (h : x.Interlocked) (f : Fin 16) (m : Motor) (hm : m.state ≠ .driven) :
    (({ x with motors := x.motors.set f m } : Port).mark (motorItem f) .release).Interlocked := by
  unfold Port.mark
  split
  · rename_i hu
    refine ⟨fun g hg => ?_, fun g hg => ?_, fun hd => absurd hd (by simpa using hu)⟩
    · by_cases hk : f = g
      · subst hk; simp at hg
      · have hk' : motorItem f ≠ motorItem g := fun e => hk (motorItem_inj e)
        simpa [Fin.getElem_fin, Vector.getElem_set, Fin.val_inj, hk] using
          h.target g (by simpa [Fin.getElem_fin, Vector.getElem_set, Fin.val_inj, hk'] using hg)
    · by_cases hk : f = g
      · subst hk; simp [hm] at hg
      · exact h.driven g (by simpa [Fin.getElem_fin, Vector.getElem_set, Fin.val_inj, hk] using hg)
  · rename_i hu
    refine interlocked_motor h f m (fun hd => absurd hd hm) (.inr ?_)
    rw [h.down (by simpa using hu)]
    decide

theorem interlocked_drive (h : x.Interlocked) (f : Fin 16) (t : BitVec 10) (hf : x.faders[f].touched = false) :
    (({ x with motors := x.motors.set f ⟨.driven, some t⟩ } : Port).mark (motorItem f) .target).Interlocked := by
  refine interlocked_mark (interlocked_motor h f _ (fun _ => hf) (.inl rfl)) _ _ fun g hg _ => ?_
  have := motorItem_inj hg
  subst this
  simp

theorem interlocked_motorTo (h : x.Interlocked) (f : Fin 16) (t : BitVec 10) : (x.motorTo f t).Interlocked := by
  unfold Port.motorTo
  dsimp only
  split
  · rename_i hc
    refine interlocked_motor h f _ (fun hd => by cases hd) (.inr fun ht => ?_)
    have := h.target f ht
    rcases hc with hc | ⟨hc, -⟩ <;> rw [hc] at this <;> cases this
  · rename_i hc
    refine interlocked_drive h f t ?_
    cases hs : x.motors[f].state with
    | free => by_contra ht; exact hc (.inr ⟨hs, by simpa using ht⟩)
    | driven => exact h.driven f hs
    | held => exact absurd (Or.inl hs) hc

theorem interlocked_motorFree (h : x.Interlocked) (f : Fin 16) : (x.motorFree f).Interlocked := by
  unfold Port.motorFree
  split
  · exact h
  · exact interlocked_release h f _ (by simp)

/-- A fader's touch is taken, and its motor answers. -/
theorem interlocked_touched (h : x.Interlocked) (f : Fin 16) :
    (({ x with faders := x.faders.set f { x.faders[f] with touched := true } } : Port).motorTouched f).Interlocked := by
  have key : ∀ m : Motor, m.state ≠ .driven → ∀ g : Fin 16, (x.motors.set f m)[g].state = .driven →
      ((x.faders.set f { x.faders[f] with touched := true })[g]).touched = false := by
    intro m hm g hg
    by_cases hk : f = g
    · subst hk; simp [hm] at hg
    · have := h.driven g (by simpa [Fin.getElem_fin, Vector.getElem_set, Fin.val_inj, hk] using hg)
      simpa [Fin.getElem_fin, Vector.getElem_set, Fin.val_inj, hk] using this
  unfold Port.motorTouched
  dsimp only
  split
  · rename_i hs
    refine ⟨fun g hg => ?_, key _ (by simp), h.down⟩
    have hg' := h.target g hg
    by_cases hk : f = g
    · subst hk; rw [hs] at hg'; cases hg'
    · simpa [Fin.getElem_fin, Vector.getElem_set, Fin.val_inj, hk] using hg'
  · rename_i hs
    have hx := interlocked_release h f ⟨.held, none⟩ (by simp)
    unfold Port.mark at hx ⊢
    dsimp only at hx ⊢
    split
    · rename_i hu
      rw [if_pos hu] at hx
      exact ⟨hx.target, key _ (by simp), hx.down⟩
    · rename_i hu
      rw [if_neg hu] at hx
      exact ⟨hx.target, key _ (by simp), hx.down⟩
  · rename_i hs
    refine ⟨h.target, fun g hg => ?_, h.down⟩
    by_cases hk : f = g
    · subst hk; exact absurd (hs.symm.trans hg) (by decide)
    · simpa [Fin.getElem_fin, Vector.getElem_set, Fin.val_inj, hk] using h.driven g hg

theorem interlocked_released (h : x.Interlocked) (f : Fin 16) :
    (({ x with faders := x.faders.set f { x.faders[f] with touched := false } } : Port).motorReleased f).1.Interlocked := by
  have hy : ({ x with faders := x.faders.set f { x.faders[f] with touched := false } } : Port).Interlocked := by
    refine ⟨h.target, fun g hg => ?_, h.down⟩
    by_cases hk : f = g
    · subst hk; simp
    · simpa [Fin.getElem_fin, Vector.getElem_set, Fin.val_inj, hk] using h.driven g hg
  unfold Port.motorReleased
  dsimp only
  split
  · exact interlocked_drive hy f _ (by simp)
  · rename_i hs ht
    refine interlocked_motor hy f _ (fun hd => by cases hd) (.inr fun hm => ?_)
    have := hy.target f hm
    simp only [hs] at this
    cases this
  · exact hy

theorem interlocked_dropBeyond (h : x.Interlocked) (n : Announced) : (x.dropBeyond n).Interlocked := by
  refine ⟨fun f hf => ?_, fun f hf => ?_, fun hd k => ?_⟩
  · simp only [Port.dropBeyond, Fin.getElem_fin, Vector.getElem_ofFn, motorItem] at hf ⊢
    have h1 : (3 * f.val + 1) % 3 = 1 := by omega
    have h2 : (3 * f.val + 1) / 3 = f.val := by omega
    simp only [h1, h2] at hf
    by_cases hn : f.val < n.faders
    · simp only [hn, if_true] at hf ⊢
      exact h.target f (by simpa [motorItem, hn] using hf)
    · simp [hn] at hf
  · simp only [Port.dropBeyond, Fin.getElem_fin, Vector.getElem_ofFn] at hf ⊢
    by_cases hn : f.val < n.faders
    · simp only [hn, if_true] at hf ⊢
      exact h.driven f hf
    · simp [hn] at hf
  · have := h.down hd k
    simp only [Port.dropBeyond, Fin.getElem_fin, Vector.getElem_ofFn] at this ⊢
    rw [this]
    simp

theorem interlocked_greet (h : x.Interlocked) : x.greet.Interlocked := by
  unfold Port.greet
  dsimp only
  have hm : ((({ x with welcome := true, roundRobin := 0 } : Port).markBelow lampItem x.announced.groups).markBelow
      ladderItem x.announced.ladders).motors = x.motors := by simp [markBelow_motors]
  have hy := interlocked_markBelow (interlocked_markBelow
    (show ({ x with welcome := true, roundRobin := 0 } : Port).Interlocked from h.same rfl rfl rfl rfl)
    lampItem x.announced.groups) ladderItem x.announced.ladders
  generalize ((({ x with welcome := true, roundRobin := 0 } : Port).markBelow lampItem x.announced.groups).markBelow
      ladderItem x.announced.ladders) = y at hm hy
  generalize indices 16 = l
  induction l generalizing y with
  | nil => exact hy
  | cons i l ih =>
    refine ih _ ?_ ?_ <;> dsimp only
    · split
      · rw [mark_motors, hm]
      · exact hm
    · split
      · rename_i hc
        refine interlocked_mark hy _ _ fun f hf _ => ?_
        have := motorItem_inj hf
        subst this
        rw [hm]; exact hc.2
      · exact hy

theorem interlocked_hostReset (h : x.Interlocked) : x.hostReset.Interlocked := by
  unfold Port.hostReset
  have hfree : ∀ (l : List (Fin 16)) (y : Port), y.Interlocked → (l.foldl (fun (y : Port) i => y.motorFree i) y).Interlocked := by
    intro l
    induction l with
    | nil => intro y hy; exact hy
    | cons i l ih => intro y hy; exact ih _ (interlocked_motorFree hy i)
  have hwin : ∀ (l : List (Fin 16)) (y : Port), y.Interlocked → (l.foldl Port.setWindowState y).Interlocked := by
    intro l
    induction l with
    | nil => intro y hy; exact hy
    | cons i l ih => intro y hy; exact ih _ (interlocked_setWindowState hy i)
  have hf := hfree (indices 16) x h
  dsimp only
  generalize (indices 16).foldl (fun (y : Port) i => y.motorFree i) x = y at hf ⊢
  refine hwin _ _ ?_
  exact hf.same rfl rfl rfl rfl

end

/-! ## The Surface Interface -/

@[simp] theorem keeps_putPort (h : Keeps s0 s) (p : Fin 2) (x : Port) (hx : (s.port p).Interlocked → x.Interlocked) :
    Keeps s0 (s.putPort p x) := keeps_setPort h p _ fun a => interlocked_draw (hx a)

theorem keeps_applyMotor (h : Keeps s0 s) (p : Fin 2) (x : Port) (hx : (s.port p).Interlocked → x.Interlocked) :
    Keeps s0 (s.applyMotor p x) := by
  unfold State.applyMotor; dsimp only
  split
  · exact keeps_requestImage (keeps_putPort h p x hx) _ _
  · exact keeps_putPort h p x hx

@[simp] theorem keeps_goDown (h : Keeps s0 s) (p : Fin 2) : Keeps s0 (s.goDown p) := by
  unfold State.goDown
  refine keeps_requestImage (keeps_setPort h p _ fun _ => ?_) _ _
  exact ⟨fun f hf => by simp at hf, fun f hf => by simp at hf, fun _ k => by simp⟩

@[simp] theorem keeps_expireSilence (h : Keeps s0 s) (p : Fin 2) : Keeps s0 (s.expireSilence p) := by
  unfold State.expireSilence; split <;> simp [h]

@[simp] theorem keeps_takeAnnounce (h : Keeps s0 s) (p : Fin 2) (n : Announced) : Keeps s0 (s.takeAnnounce p n) := by
  unfold State.takeAnnounce
  dsimp only
  refine keeps_requestImage (keeps_putPort h p _ fun a => interlocked_greet ?_) _ _
  have ht := interlocked_take a s.mclk
  have hd : (if ((s.port p).take s.mclk).up = true then ((s.port p).take s.mclk).dropBeyond n
      else (s.port p).take s.mclk).Interlocked := by
    split
    · exact interlocked_dropBeyond ht n
    · exact ht
  exact ⟨hd.target, hd.driven, fun hu => by cases hu⟩

@[simp] theorem keeps_takeButtons (h : Keeps s0 s) (p : Fin 2) (g : Fin 16) (x : Byte) : Keeps s0 (s.takeButtons p g x) := by
  unfold State.takeButtons
  dsimp only
  split
  · exact keeps_putPort h p _ fun a => interlocked_take a _
  · refine keeps_requestImage (keeps_putPort h p _ fun a => ?_) _ _
    exact a.same rfl rfl rfl rfl

theorem interlocked_moveFader {x : Port} (h : x.Interlocked) (s : State) (p : Fin 2) (f : Fin 16) (pos : BitVec 10) :
    (s.moveFader p x f pos).1.Interlocked := by
  unfold State.moveFader
  dsimp only
  split
  · exact h
  · exact interlocked_setWindowState (interlocked_setFader h f
      { x.faders[f] with position := pos } rfl) f

theorem interlocked_touchFader {x : Port} (h : x.Interlocked) (s : State) (p : Fin 2) (f : Fin 16) (t : Bool) :
    (s.touchFader p x f t).1.Interlocked := by
  unfold State.touchFader
  dsimp only
  split
  · exact h
  · cases t
    · exact interlocked_released h f
    · exact interlocked_touched h f

@[simp] theorem keeps_takeFader (h : Keeps s0 s) (p : Fin 2) (f : Fin 16) (x : BitVec 10) (b : Bool) :
    Keeps s0 (s.takeFader p f x b) := by
  unfold State.takeFader
  dsimp only
  have hp := keeps_putPort h p (s.touchFader p (s.moveFader p ((s.port p).take s.mclk) f x).1 f b).1
    fun a => interlocked_touchFader (interlocked_moveFader (interlocked_take a _) _ _ _ _) _ _ _ _
  split
  · exact hp
  · exact keeps_requestImage hp _ _

@[simp] theorem keeps_takeEncoder (h : Keeps s0 s) (p : Fin 2) (e : Fin 16) (x : Byte) :
    Keeps s0 (s.takeEncoder p e x) := by
  unfold State.takeEncoder
  dsimp only
  split
  · exact keeps_putPort h p _ fun a => interlocked_take a _
  · refine keeps_requestImage (keeps_putPort h p _ fun a => ?_) _ _
    exact a.same rfl rfl rfl rfl

@[simp] theorem keeps_discardIndex (h : Keeps s0 s) (p : Fin 2) : Keeps s0 (s.discardIndex p) := by
  refine keeps_setPort h p _ fun a => ?_
  exact a.same rfl rfl rfl rfl
@[simp] theorem keeps_discardMalformed (h : Keeps s0 s) (p : Fin 2) : Keeps s0 (s.discardMalformed p) := by
  refine keeps_setPort h p _ fun a => ?_
  exact a.same rfl rfl rfl rfl
@[simp] theorem keeps_discardUnannounced (h : Keeps s0 s) (p : Fin 2) : Keeps s0 (s.discardUnannounced p) := by
  refine keeps_setPort h p _ fun a => ?_
  exact a.same rfl rfl rfl rfl

theorem keeps_takeIndexed (h : Keeps s0 s) (p : Fin 2) (i n : Nat) {act : Fin 16 → State}
    (ha : ∀ k, Keeps s0 (act k)) : Keeps s0 (s.takeIndexed p i n act) := by
  unfold State.takeIndexed; repeat' split
  all_goals simp [h, ha]

@[simp] theorem keeps_judgeReport (h : Keeps s0 s) (p : Fin 2) (r : Report) : Keeps s0 (s.judgeReport p r) := by
  cases r <;> simp only [State.judgeReport] <;> (try split)
  all_goals first
    | exact keeps_takeIndexed h _ _ _ (fun k => by simp [h])
    | exact keeps_putPort h p _ fun a => interlocked_take a _
    | simp [h]

@[simp] theorem keeps_judgeMessage (h : Keeps s0 s) (p : Fin 2) (r : Option Report) : Keeps s0 (State.judgeMessage p s r) := by
  cases r <;> simp [State.judgeMessage, h]

@[simp] theorem keeps_receive (h : Keeps s0 s) (p : Fin 2) (b : List SurfaceByte) : Keeps s0 (s.receive p b) :=
  keeps_foldl (fun _ _ h => keeps_judgeMessage h _ _) _ (keeps_setPort h _ _ fun a => a.same rfl rfl rfl rfl)

@[simp] theorem keeps_surfaceMessage (h : Keeps s0 s) (p : Fin 2) (b : List SurfaceByte) :
    Keeps s0 (s.surfaceMessage p b) := keeps_receive (keeps_expireSilence h p) p b

@[simp] theorem keeps_groupWritten (h : Keeps s0 s) (p : Fin 2) (g : Fin 16) (w : Word) : Keeps s0 (s.groupWritten p g w) := by
  unfold State.groupWritten
  dsimp only
  split
  · refine keeps_setPort h p _ fun a => ?_
    exact a.same rfl rfl rfl rfl
  · refine keeps_requestImage (keeps_setPort h p _ fun a => ?_) _ _
    exact a.same rfl rfl rfl rfl

@[simp] theorem keeps_windowWritten (h : Keeps s0 s) (p : Fin 2) (g : Fin 16) (w : Word) :
    Keeps s0 (s.windowWritten p g w) := by
  unfold State.windowWritten
  dsimp only
  have hw : ∀ m : Vector WindowMirror 16, (s.port p).Interlocked →
      (({ s.port p with mirrors := { (s.port p).mirrors with windows := m } } : Port).setWindowState g).Interlocked :=
    fun m a => by
      refine interlocked_setWindowState ?_ g
      exact Port.Interlocked.same a rfl rfl rfl rfl
  split
  · exact keeps_setPort h p _ (hw _)
  · exact keeps_requestImage (keeps_setPort h p _ (hw _)) _ _

@[simp] theorem keeps_bindingWritten (h : Keeps s0 s) (p : Fin 2) (g : Fin 16) (w : Word) :
    Keeps s0 (s.bindingWritten p g w) := by
  unfold State.bindingWritten
  dsimp only
  split
  · have hb : ∀ (m : Vector Binding 16) (v : Vector (BitVec 4) 16), (s.port p).Interlocked →
        (if g.val < (s.port p).announced.ladders then
          ({ s.port p with mirrors := { (s.port p).mirrors with bindings := m }, ladders := v } : Port).mark (ladderItem g)
            .dirty
        else
          ({ s.port p with mirrors := { (s.port p).mirrors with bindings := m }, ladders := v } : Port)).Interlocked := by
      intro m v a
      have b : ({ s.port p with mirrors := { (s.port p).mirrors with bindings := m }, ladders := v } : Port).Interlocked :=
        Port.Interlocked.same a rfl rfl rfl rfl
      split
      · exact interlocked_markDirty b _
      · exact b
    split
    · exact keeps_putPort h p _ (hb _ _)
    · exact keeps_requestImage (keeps_putPort h p _ (hb _ _)) _ _
  · refine keeps_setPort h p _ fun a => ?_
    exact a.same rfl rfl rfl rfl

@[simp] theorem keeps_lampWritten (h : Keeps s0 s) (p : Fin 2) (g : Fin 16) (w : Word) : Keeps s0 (s.lampWritten p g w) := by
  unfold State.lampWritten
  dsimp only
  refine keeps_putPort h p _ fun a => ?_
  split
  · refine interlocked_markDirty ?_ _
    exact a.same rfl rfl rfl rfl
  · exact a.same rfl rfl rfl rfl

@[simp] theorem keeps_configWritten (h : Keeps s0 s) (p : Fin 2) (n : Nat) (w : Word) : Keeps s0 (s.configWritten p n w) := by
  unfold State.configWritten; dsimp only; repeat' split
  all_goals first
    | (refine keeps_setPort h p _ fun a => ?_; exact a.same rfl rfl rfl rfl)
    | simp [h]

@[simp] theorem keeps_handLevelsTo (h : Keeps s0 s) (l : Fin 8) (f : Fin 64 → BitVec 4) (p : Fin 2) :
    Keeps s0 (s.handLevelsTo l f p) := by
  unfold State.handLevelsTo
  dsimp only
  split
  · exact h
  · have hp := keeps_putPort h p ((indices 16).foldl (fun (y : Port) (i : Fin 16) =>
        if y.mirrors.bindings[i].enable = true ∧ y.mirrors.bindings[i].lane = l ∧ i.val < y.announced.ladders then
          ({ y with ladders := y.ladders.set i (f y.mirrors.bindings[i].slot) } : Port).mark (ladderItem i) .dirty
        else y) (s.port p)) (fun a => by
      generalize indices 16 = is
      generalize s.port p = x at a
      induction is generalizing x with
      | nil => exact a
      | cons i is ih =>
        refine ih _ ?_
        dsimp only
        split
        · refine interlocked_markDirty ?_ _
          exact a.same rfl rfl rfl rfl
        · exact a)
    split
    · exact hp
    · exact keeps_requestImage hp _ _

@[simp] theorem keeps_handLevels (h : Keeps s0 s) (l : Fin 8) (f : Fin 64 → BitVec 4) : Keeps s0 (s.handLevels l f) :=
  keeps_foldl (fun _ _ h => by exact keeps_handLevelsTo h _ _ _) _ h

@[simp] theorem keeps_resetSurfaces (h : Keeps s0 s) : Keeps s0 (s.resetSurfaces) :=
  keeps_foldl (fun _ _ h => keeps_putPort h _ _ fun a => interlocked_hostReset a) _ h

@[simp] theorem keeps_restoreSurfaces (h : Keeps s0 s) : Keeps s0 (s.restoreSurfaces) :=
  keeps_foldl (fun _ _ h => keeps_requestWholeImage (keeps_putPort h _ _ fun a =>
    interlocked_markBelow (interlocked_markBelow a _ _) _ _) _) _ h

/-! ## The Meter Unit -/

@[simp] theorem keeps_meterFrame (h : Keeps s0 s) (l : Fin 8) (ws : List Word) : Keeps s0 (s.meterFrame l ws) := by
  unfold State.meterFrame; (try dsimp only); repeat' split
  all_goals simp (maxDischargeDepth := 20) [h]

@[simp] theorem keeps_clearWindow (h : Keeps s0 s) (l : Fin 8) : Keeps s0 (s.clearWindow l) := by
  unfold State.clearWindow; (try dsimp only); repeat' split
  all_goals simp (maxDischargeDepth := 20) [h]

@[simp] theorem keeps_thresholdWritten (h : Keeps s0 s) (l : Fin 8) (i : Fin 64) (w : Word) : Keeps s0 (s.thresholdWritten l i w) := by
  unfold State.thresholdWritten; (try dsimp only); repeat' split
  all_goals simp (maxDischargeDepth := 20) [h]

@[simp] theorem keeps_runWatches (h : Keeps s0 s) (l : Fin 8) (d : Fin 4) (c k : Word) (n : Nat) :
    Keeps s0 (s.runWatches l d c k n).1 := by
  unfold State.runWatches
  suffices ∀ (is : List (Fin 64)) (r : State × List Event), Keeps s0 r.1 → Keeps s0 (is.foldl (fun r i =>
      if i.val < n then
        ((r.1.setWatch l i ((r.1.watch l i).judge (s.peak l i)).1),
          r.2 ++ meterEvent l d c k i (s.peak l i) ((r.1.watch l i).judge (s.peak l i)).1
            ((r.1.watch l i).judge (s.peak l i)).2)
      else r) r).1 from this _ (s, []) h
  intro is
  induction is with
  | nil => intro r hr; exact hr
  | cons i is ih =>
    intro r hr
    refine ih _ ?_
    dsimp only
    split
    · exact keeps_setWatch hr _ _ _
    · exact hr

@[simp] theorem keeps_closeWindow (h : Keeps s0 s) (d : Fin 4) (l : Fin 8) : Keeps s0 (s.closeWindow d l) := by
  unfold State.closeWindow; (try dsimp only); repeat' split
  all_goals simp (maxDischargeDepth := 20) [h]

@[simp] theorem keeps_closeWindows (h : Keeps s0 s) (d : Fin 4) : Keeps s0 (s.closeWindows d) :=
  keeps_foldl (fun _ _ h => by exact keeps_closeWindow h _ _) _ h

@[simp] theorem keeps_restoreMeters (h : Keeps s0 s) : Keeps s0 (s.restoreMeters) :=
  keeps_foldl (fun _ _ h => by exact keeps_requestMeter h _) _ h

@[simp] theorem keeps_resetMeters (h : Keeps s0 s) : Keeps s0 s.resetMeters :=
  h.trans (.quiet rfl rfl rfl rfl rfl rfl rfl rfl rfl rfl rfl (fun _ => rfl) rfl)

/-! ## The Stream Engine -/

@[simp] theorem keeps_reportStream (h : Keeps s0 s) (i : Fin 32) (e : Event) : Keeps s0 (s.reportStream i e) := by
  unfold State.reportStream; (try dsimp only); repeat' split
  all_goals simp (maxDischargeDepth := 20) [h]

@[simp] theorem keeps_mapStream (h : Keeps s0 s) (i : Fin 32) (f : Stream → Stream) : Keeps s0 (s.mapStream i f) := by
  unfold State.mapStream; (try dsimp only); repeat' split
  all_goals simp (maxDischargeDepth := 20) [h]

@[simp] theorem keeps_mapLane (h : Keeps s0 s) (l : Fin 8) (f : Lane → Lane) : Keeps s0 (s.mapLane l f) := by
  unfold State.mapLane; (try dsimp only); repeat' split
  all_goals simp (maxDischargeDepth := 20) [h]

@[simp] theorem keeps_engineLate (h : Keeps s0 s) (l : Fin 8) (dir : FlowDir) (n : Word) : Keeps s0 (s.engineLate l dir n) := by
  unfold State.engineLate; (try dsimp only); repeat' split
  all_goals simp (maxDischargeDepth := 20) [h]

@[simp] theorem keeps_silence (h : Keeps s0 s) (i : Fin 32) : Keeps s0 (s.silence i) := by
  unfold State.silence; (try dsimp only); repeat' split
  all_goals simp (maxDischargeDepth := 20) [h]

@[simp] theorem keeps_silenceBeyond (h : Keeps s0 s) (i : Fin 32) (c n : Word) : Keeps s0 (s.silenceBeyond i c n) := by
  unfold State.silenceBeyond; (try dsimp only); repeat' split
  all_goals simp (maxDischargeDepth := 20) [h]

@[simp] theorem keeps_clearSlots (h : Keeps s0 s) (i : Fin 32) : Keeps s0 (s.clearSlots i) := by
  unfold State.clearSlots; (try dsimp only); repeat' split
  all_goals simp (maxDischargeDepth := 20) [h]

@[simp] theorem keeps_wrapStream (h : Keeps s0 s) (i : Fin 32) : Keeps s0 (s.wrapStream i) := by
  unfold State.wrapStream; (try dsimp only); repeat' split
  all_goals simp (maxDischargeDepth := 20) [h]

@[simp] theorem keeps_advance (h : Keeps s0 s) (i : Fin 32) : Keeps s0 (s.advance i) := by
  unfold State.advance; (try dsimp only); repeat' split
  all_goals simp (maxDischargeDepth := 20) [h]

@[simp] theorem keeps_becomeIdle (h : Keeps s0 s) (i : Fin 32) (how : StopHow) : Keeps s0 (s.becomeIdle i how) := by
  unfold State.becomeIdle; (try dsimp only); repeat' split
  all_goals simp (maxDischargeDepth := 20) [h]

@[simp] theorem keeps_haltStream (h : Keeps s0 s) (i : Fin 32) : Keeps s0 (s.haltStream i) := by
  unfold State.haltStream; (try dsimp only); repeat' split
  all_goals simp (maxDischargeDepth := 20) [h]

@[simp] theorem keeps_frameDone (h : Keeps s0 s) (i : Fin 32) (n : Word) : Keeps s0 (s.frameDone i n) := by
  unfold State.frameDone; (try dsimp only); repeat' split
  all_goals simp (maxDischargeDepth := 20) [h]

@[simp] theorem keeps_dropFrame (h : Keeps s0 s) (i : Fin 32) (n : Word) : Keeps s0 (s.dropFrame i n) := by
  unfold State.dropFrame; (try dsimp only); repeat' split
  all_goals simp (maxDischargeDepth := 20) [h]

@[simp] theorem keeps_storeBegin (h : Keeps s0 s) (i : Fin 32) (n : Word) : Keeps s0 ((s.storeBegin i n).1) := by
  unfold State.storeBegin; (try dsimp only); repeat' split
  all_goals simp (maxDischargeDepth := 20) [h]

@[simp] theorem keeps_overflowTake (h : Keeps s0 s) (l : Fin 8) (n : Word) : Keeps s0 (s.overflowTake l n) :=
  keeps_foldl (fun _ _ h => by split <;> simp [h]) _ h

@[simp] theorem keeps_leaveInbound (h : Keeps s0 s) (l : Fin 8) (f : InboundFrame) : Keeps s0 (State.leaveInbound l s f) := by
  unfold State.leaveInbound; dsimp only; split <;> simp [h]

@[simp] theorem keeps_drainInbound (h : Keeps s0 s) (l : Fin 8) : Keeps s0 (s.drainInbound l) :=
  keeps_foldl (fun _ _ h => keeps_leaveInbound h _ _) _ h

@[simp] theorem keeps_drainLaneOf (h : Keeps s0 s) (g : Option Geometry) : Keeps s0 (s.drainLaneOf g) := by
  unfold State.drainLaneOf; (try dsimp only); repeat' split
  all_goals simp (maxDischargeDepth := 20) [h]

@[simp] theorem keeps_storeEnd (h : Keeps s0 s) (i : Fin 32) (f : InboundFrame) : Keeps s0 (s.storeEnd i f) := by
  unfold State.storeEnd; (try dsimp only); repeat' split
  all_goals simp (maxDischargeDepth := 20) [h]

@[simp] theorem keeps_writeWords (h : Keeps s0 s) (a : Nat) (ws : List Word) :
    Keeps s0 { s with mem := s.mem.writeWords a ws } := keeps_setMem h _ fun hm => Memory.wf_writeWords hm _ _

@[simp] theorem keeps_writeWord (h : Keeps s0 s) (a : Nat) (w : Word) :
    Keeps s0 { s with mem := s.mem.writeWord a w } := keeps_setMem h _ fun hm => Memory.wf_writeWord hm _ _

@[simp] theorem keeps_writeEnabledWords (h : Keeps s0 s) (a : Nat) (ws : List WriteWord) :
    Keeps s0 { s with mem := s.mem.writeEnabledWords a ws } := keeps_setMem h _ fun hm => Memory.wf_writeEnabledWords hm _ _

@[simp] theorem keeps_storeWords (h : Keeps s0 s) (i : Fin 32) (f : InboundFrame) (k : Nat) : Keeps s0 (s.storeWords i f k) := by
  unfold State.storeWords; (try dsimp only); repeat' split
  all_goals simp (maxDischargeDepth := 20) [h]

@[simp] theorem keeps_storeFrame (h : Keeps s0 s) (i : Fin 32) (e : Extent) : Keeps s0 (s.storeFrame i e) := by
  unfold State.storeFrame; (try dsimp only); repeat' split
  all_goals simp (maxDischargeDepth := 20) [h]

@[simp] theorem keeps_starveFrame (h : Keeps s0 s) (i : Fin 32) : Keeps s0 (s.starveFrame i) := by
  unfold State.starveFrame; (try dsimp only); repeat' split
  all_goals simp (maxDischargeDepth := 20) [h]

@[simp] theorem keeps_fetchBegin (h : Keeps s0 s) (i : Fin 32) : Keeps s0 ((s.fetchBegin i).1) := by
  unfold State.fetchBegin; (try dsimp only); repeat' split
  all_goals simp (maxDischargeDepth := 20) [h]

@[simp] theorem keeps_fetchEnd (h : Keeps s0 s) (i : Fin 32) (c : Bool) : Keeps s0 (s.fetchEnd i c) := by
  unfold State.fetchEnd; (try dsimp only); repeat' split
  all_goals simp (maxDischargeDepth := 20) [h]

@[simp] theorem keeps_fetchWords (h : Keeps s0 s) (i : Fin 32) (k : Nat) : Keeps s0 (s.fetchWords i k) := by
  unfold State.fetchWords; (try dsimp only); repeat' split
  all_goals simp (maxDischargeDepth := 20) [h]

@[simp] theorem keeps_fetchFrame (h : Keeps s0 s) (i : Fin 32) (e : Extent) : Keeps s0 (s.fetchFrame i e) := by
  unfold State.fetchFrame; (try dsimp only); repeat' split
  all_goals simp (maxDischargeDepth := 20) [h]

@[simp] theorem keeps_leaveUnfetched (h : Keeps s0 s) (l : Fin 8) (n : Word) (i : Fin 32) : Keeps s0 (s.leaveUnfetched l n i) := by
  unfold State.leaveUnfetched; (try dsimp only); repeat' split
  all_goals simp (maxDischargeDepth := 20) [h]

@[simp] theorem keeps_frameLeft (h : Keeps s0 s) (l : Fin 8) (n : Word) : Keeps s0 (s.frameLeft l n) := by
  unfold State.frameLeft
  refine keeps_foldl (fun s i h => ?_) _ (keeps_mapLane (keeps_foldl (fun s c h => ?_) _
    (keeps_foldl (fun s c h => keeps_mapStream h _ _) _ h)) _ _)
  · repeat' split
    all_goals simp [h]
  · split <;> simp [h]

@[simp] theorem keeps_haltLane (h : Keeps s0 s) (l : Fin 8) : Keeps s0 (s.haltLane l) :=
  keeps_drainInbound (keeps_foldl (fun _ _ h => keeps_haltStream h _) _ h) _

/-- The state an owner leaves, whatever its answer. -/
def Outcome.state : Outcome → State
  | .done t => t
  | .refused t _ => t

theorem keeps_acceptStart {i : Fin 32} {x : StreamStage} {l : Fin 8} {d : Fin 4} {n : Word} {t : State} (h : Keeps s0 s)
    (ht : s.acceptStart i x l d n = .ok t) : Keeps s0 t := by
  unfold State.acceptStart at ht
  split at ht
  · cases ht
  · split at ht
    · cases ht
    · rename_i g hg
      repeat' split at ht
      all_goals first | cases ht | skip
      rename_i u hu
      have := keeps_enterRing h (geometry_fits hg) hu
      simp (maxDischargeDepth := 20) [State.enterSlots, this]

@[simp] theorem keeps_applyStart (h : Keeps s0 s) (i : Fin 32) : Keeps s0 (s.applyStart i).state := by
  unfold State.applyStart; (try dsimp only); repeat' split
  all_goals simp (maxDischargeDepth := 20) [h, Outcome.state]

@[simp] theorem keeps_placeStop (h : Keeps s0 s) (i : Fin 32) (m : StopMode) (n : Word) : Keeps s0 (s.placeStop i m n) := by
  unfold State.placeStop; (try dsimp only); repeat' split
  all_goals simp (maxDischargeDepth := 20) [h]

@[simp] theorem keeps_stopAtPeriodEnd (h : Keeps s0 s) (i : Fin 32) (g : Geometry) : Keeps s0 (s.stopAtPeriodEnd i g) := by
  unfold State.stopAtPeriodEnd; (try dsimp only); repeat' split
  all_goals simp (maxDischargeDepth := 20) [h]

@[simp] theorem keeps_stopNow (h : Keeps s0 s) (i : Fin 32) (g : Geometry) (n : Word) : Keeps s0 (s.stopNow i g n) := by
  unfold State.stopNow; (try dsimp only); repeat' split
  all_goals simp (maxDischargeDepth := 20) [h]

@[simp] theorem keeps_applyStop (h : Keeps s0 s) (i : Fin 32) (m : StopMode) (n : Word) : Keeps s0 (s.applyStop i m n).state := by
  unfold State.applyStop; (try dsimp only); repeat' split
  all_goals simp (maxDischargeDepth := 20) [h, Outcome.state]

@[simp] theorem keeps_resetStreams (h : Keeps s0 s) : Keeps s0 s.resetStreams :=
  h.trans (.quiet rfl rfl rfl rfl rfl rfl rfl rfl rfl rfl rfl (fun _ => rfl) rfl)

/-! ## The lanes -/

@[simp] theorem keeps_enterFault (h : Keeps s0 s) (l : Fin 8) (c : BadCause) (n : Word) : Keeps s0 (s.enterFault l c n) := by
  unfold State.enterFault; (try dsimp only); repeat' split
  all_goals simp (maxDischargeDepth := 20) [h]

@[simp] theorem keeps_placeInbound (h : Keeps s0 s) (l : Fin 8) (n : Word) (k : InboundKind) : Keeps s0 (s.placeInbound l n k) := by
  unfold State.placeInbound; (try dsimp only); repeat' split
  all_goals simp (maxDischargeDepth := 20) [h]

@[simp] theorem keeps_judgeBad (h : Keeps s0 s) (l : Fin 8) (c : BadCause) (n : Word) : Keeps s0 (s.judgeBad l c n) := by
  unfold State.judgeBad; (try dsimp only); repeat' split
  all_goals simp (maxDischargeDepth := 20) [h]

@[simp] theorem keeps_takeStatus (h : Keeps s0 s) (l : Fin 8) (w : Word) : Keeps s0 (s.takeStatus l w) := by
  unfold State.takeStatus; (try dsimp only); repeat' split
  all_goals simp (maxDischargeDepth := 20) [h]

@[simp] theorem keeps_judgeGood (h : Keeps s0 s) (l : Fin 8) (n : Word) (f : LaneFrame) : Keeps s0 (s.judgeGood l n f) := by
  unfold State.judgeGood; (try dsimp only); repeat' split
  all_goals simp (maxDischargeDepth := 20) [h]

@[simp] theorem keeps_laneUp (h : Keeps s0 s) (l : Fin 8) (d : Fin 4) (n : Word) : Keeps s0 (s.laneUp l d n) := by
  unfold State.laneUp; (try dsimp only); repeat' split
  all_goals simp (maxDischargeDepth := 20) [h]

@[simp] theorem keeps_judgeEcho (h : Keeps s0 s) (l : Fin 8) (d : Fin 4) (n : Word) (f : LaneFrame) : Keeps s0 (s.judgeEcho l d n f) := by
  unfold State.judgeEcho; (try dsimp only); repeat' split
  all_goals simp (maxDischargeDepth := 20) [h]

@[simp] theorem keeps_frameArrives (h : Keeps s0 s) (l : Fin 8) (f : LaneFrame) : Keeps s0 (s.frameArrives l f) := by
  unfold State.frameArrives; (try dsimp only); repeat' split
  all_goals simp (maxDischargeDepth := 20) [h]

@[simp] theorem keeps_closeExpectation (h : Keeps s0 s) (l : Fin 8) : Keeps s0 (s.closeExpectation l) := by
  unfold State.closeExpectation; (try dsimp only); repeat' split
  all_goals simp (maxDischargeDepth := 20) [h]

@[simp] theorem keeps_countDown (h : Keeps s0 s) (l : Fin 8) : Keeps s0 (s.countDown l) := by
  unfold State.countDown; (try dsimp only); repeat' split
  all_goals simp (maxDischargeDepth := 20) [h]

@[simp] theorem keeps_sendFrame (h : Keeps s0 s) (l : Fin 8) (d : Fin 4) (n : Word) : Keeps s0 (s.sendFrame l d n) := by
  unfold State.sendFrame; (try dsimp only); repeat' split
  all_goals simp (maxDischargeDepth := 20) [h]

@[simp] theorem keeps_laneBoundary (h : Keeps s0 s) (d : Fin 4) (l : Fin 8) : Keeps s0 (s.laneBoundary d l) := by
  unfold State.laneBoundary
  refine keeps_frameLeft (keeps_sendFrame (keeps_foldl (fun _ _ h => keeps_leaveUnfetched h _ _ _) _ ?_) _ _ _) _ _
  split <;> simp (maxDischargeDepth := 20) [h]

@[simp] theorem keeps_takeLane (h : Keeps s0 s) (d : Fin 4) (l : Fin 8) : Keeps s0 (s.takeLane d l) := by
  unfold State.takeLane
  split
  · dsimp only
    have ht : Keeps s0 (if (s.domain d).running = true then s.laneBoundary d l else s) := by split <;> simp [h]
    generalize (if (s.domain d).running = true then s.laneBoundary d l else s) = t at ht
    exact keeps_setLi ht _ (fun k hk => (List.mem_filter.mp hk).1)
  · exact h

@[simp] theorem keeps_retrainLane (h : Keeps s0 s) (l : Fin 8) : Keeps s0 (s.retrainLane l) := by
  unfold State.retrainLane; (try dsimp only); repeat' split
  all_goals simp (maxDischargeDepth := 20) [h]

@[simp] theorem keeps_retrainLanes (h : Keeps s0 s) (d : Fin 4) : Keeps s0 (s.retrainLanes d) :=
  keeps_foldl (fun _ _ h => by exact keeps_retrainLane h _) _ h

@[simp] theorem keeps_closeExpectations (h : Keeps s0 s) (d : Fin 4) : Keeps s0 (s.closeExpectations d) :=
  keeps_foldl (fun _ _ h => by exact keeps_closeExpectation h _) _ h

@[simp] theorem keeps_applyAssign (h : Keeps s0 s) (l : Fin 8) (t : Option (Fin 4)) : Keeps s0 (s.applyAssign l t).state := by
  unfold State.applyAssign; (try dsimp only); repeat' split
  all_goals simp (maxDischargeDepth := 20) [h, Outcome.state]

@[simp] theorem keeps_applyCommand (h : Keeps s0 s) (l : Fin 8) (w : Word) : Keeps s0 (s.applyCommand l w).state := by
  unfold State.applyCommand; (try dsimp only); repeat' split
  all_goals simp (maxDischargeDepth := 20) [h, Outcome.state]

@[simp] theorem keeps_resetLanes (h : Keeps s0 s) : Keeps s0 s.resetLanes :=
  h.trans (.quiet rfl rfl rfl rfl rfl rfl rfl rfl rfl rfl rfl (fun _ => rfl) rfl)

/-! ## The outputs -/

@[simp] theorem keeps_putOutput (h : Keeps s0 s) (o : Fin 4) (x : WordOutput) : Keeps s0 (s.putOutput o x) := by
  unfold State.putOutput; (try dsimp only); repeat' split
  all_goals simp (maxDischargeDepth := 20) [h]

@[simp] theorem keeps_runEdges (h : Keeps s0 s) (o : Fin 4) (n : Nat) : Keeps s0 (s.runEdges o n) := by
  unfold State.runEdges; (try dsimp only); repeat' split
  all_goals simp (maxDischargeDepth := 20) [h]

@[simp] theorem keeps_edgesBefore (h : Keeps s0 s) (o : Fin 4) (t : Nat) : Keeps s0 (s.edgesBefore o t) := by
  unfold State.edgesBefore; split <;> simp [h]

@[simp] theorem keeps_overdueEdges (h : Keeps s0 s) (o : Fin 4) : Keeps s0 (s.overdueEdges o) := keeps_edgesBefore h _ _

@[simp] theorem keeps_outputBoundary (h : Keeps s0 s) (d : Fin 4) (o : Fin 4) : Keeps s0 (s.outputBoundary d o) := by
  unfold State.outputBoundary; (try dsimp only); repeat' split
  all_goals simp (maxDischargeDepth := 20) [h]

theorem keeps_applyOutputStage {o : Fin 4} {t : State} (h : Keeps s0 s) (ht : s.applyOutputStage o = some t) :
    Keeps s0 t := by
  unfold State.applyOutputStage at ht
  dsimp only at ht
  split at ht
  · cases ht
  · cases ht; simp (maxDischargeDepth := 20) [h]
  · cases ht; split <;> simp (maxDischargeDepth := 20) [h]

@[simp] theorem keeps_stopOutputs (h : Keeps s0 s) (d : Fin 4) : Keeps s0 (s.stopOutputs d) :=
  keeps_foldl (fun _ _ h => by dsimp only; split <;> simp (maxDischargeDepth := 20) [h]) _ h

@[simp] theorem keeps_requestOutputs (h : Keeps s0 s) (d : Fin 4) : Keeps s0 (s.requestOutputs d) :=
  keeps_foldl (fun _ _ h => by split <;> simp [h]) _ h

/-! ## The marks of the cue ring -/

theorem mayTake_room {x : CueUnit} (h : x.mayTake = true) : x.list.length < Config.pendingCues := by
  simp only [CueUnit.mayTake, Bool.and_eq_true, decide_eq_true_eq] at h
  exact h.2

@[simp] theorem keeps_beginTake (h : Keeps s0 s) : Keeps s0 s.beginTake := by
  unfold State.beginTake
  split
  · rename_i hc
    exact keeps_setCu (keeps_setRecords h (s.mc.records ++ [⟨.cueRead, false, [], []⟩])
      (by simp [List.countP_append, RecordItem.isEvent])) { s.cu with taking := true }
      (fun hb => ⟨hb.1, fun _ => have room := mayTake_room hc; room⟩) rfl fun _ => rfl
  · exact h

@[simp] theorem keeps_postMarkWritten (h : Keeps s0 s) (w : Word) : Keeps s0 (s.postMarkWritten w) :=
  keeps_beginTake (keeps_setCu h _ (fun hb => hb) rfl id)

/-! ## The Pass Port -/

@[simp] theorem keeps_watchWord (h : Keeps s0 s) (o : Nat) (w : Word) : Keeps s0 (s.watchWord o w) := by
  unfold State.watchWord; (try dsimp only); repeat' split
  all_goals simp [h]

@[simp] theorem keeps_watchWords : ∀ (ws : List WriteWord) (a : Nat) {s : State}, Keeps s0 s → Keeps s0 (s.watchWords a ws)
  | [], _, _, h => h
  | w :: ws, a, s, h => by
    unfold State.watchWords
    refine keeps_watchWords ws _ ?_
    split
    · simp [h]
    · exact h

@[simp] theorem keeps_answer (h : Keeps s0 s) (t : PassTransaction) (r : Response) (ws : List Word) : Keeps s0 (s.answer t r ws) := by
  unfold State.answer; (try dsimp only); repeat' split
  all_goals simp (maxDischargeDepth := 20) [h]

@[simp] theorem keeps_performRead (h : Keeps s0 s) (t : PassTransaction) (n : Nat) : Keeps s0 (s.performRead t n) := by
  unfold State.performRead; (try dsimp only); repeat' split
  all_goals simp (maxDischargeDepth := 20) [h]

@[simp] theorem keeps_performPassWrite (h : Keeps s0 s) (t : PassTransaction) (ws : List WriteWord) :
    Keeps s0 (s.performPassWrite t ws) := by
  unfold State.performPassWrite
  dsimp only
  have hj : Keeps s0 (match s.findRing t.start with
      | none => (s, WriteVerdict.lands)
      | some f =>
        if f.entry.dir = Direction.play then
          s.hostWriteClaim f t.start (touchesWord ws t.start (f.ring.lastWord (f.ring.periodOf t.start)))
        else (s, .lands)).1 := by
    repeat' split
    all_goals simp [h]
  split
  · exact keeps_answer hj _ _ _
  · exact keeps_answer (keeps_watchWords _ _ (keeps_writeEnabledWords hj _ _)) _ _ _

@[simp] theorem keeps_performPass (h : Keeps s0 s) (t : PassTransaction) : Keeps s0 (s.performPass t) := by
  unfold State.performPass; (try dsimp only); repeat' split
  all_goals simp (maxDischargeDepth := 20) [h]

@[simp] theorem keeps_grantPass (h : Keeps s0 s) (t : PassTransaction) : Keeps s0 (s.grantPass t) :=
  keeps_performPass (keeps_setPp (keeps_setMc h { s.mc with lastOfThree := .pass } rfl (Nat.le_refl _) rfl) _) _

/-! ## The arbiter -/

@[simp] theorem keeps_serve (h : Keeps s0 s) (g : Fin 8 × FlowDir) : Keeps s0 (s.serve g) :=
  keeps_setMc h { s.mc with lastOfThree := .stream, laneTurn := g.1, laneDir := s.mc.laneDir.set g.1 g.2 } rfl
    (Nat.le_refl _) rfl

@[simp] theorem keeps_serveStream (h : Keeps s0 s) (i : Fin 32) (dir : FlowDir) : Keeps s0 (s.serveStream i dir) := by
  unfold State.serveStream; split <;> simp [h]

@[simp] theorem keeps_grantStream (h : Keeps s0 s) (g : Fin 8 × FlowDir) : Keeps s0 (s.grantStream g) := by
  unfold State.grantStream
  dsimp only
  have ht := keeps_serve h g
  repeat' split
  all_goals simp [ht]

@[simp] theorem keeps_scrubBlock (h : Keeps s0 s) (n : Nat) : Keeps s0 (s.scrubBlock n) :=
  keeps_setMc (keeps_setMem h (s.mem.clear (s.base + 64 * n) (s.base + 64 * n + 64)) fun hm => Memory.wf_clear hm _ _)
    { s.mc with scrubNext := some (n + 1) } rfl (Nat.le_refl _) rfl

@[simp] theorem keeps_grantRecord (h : Keeps s0 s) : Keeps s0 s.grantRecord := by
  unfold State.grantRecord
  dsimp only
  have ht := keeps_setMc h { s.mc with lastOfThree := .record } rfl (Nat.le_refl _) rfl
  repeat' split
  all_goals simp [ht]

@[simp] theorem keeps_grantRefresh (h : Keeps s0 s) : Keeps s0 s.grantRefresh :=
  keeps_setMc h { s.mc with refreshPending := s.mc.refreshPending - 1 } rfl (Nat.sub_le _ _) rfl

theorem keeps_tryGrant {r : Requester} {t : State} (h : Keeps s0 s) (ht : s.tryGrant r = some t) : Keeps s0 t := by
  cases r
  · obtain ⟨x, -, rfl⟩ := Option.map_eq_some_iff.mp ht
    exact keeps_grantPass h x
  · obtain ⟨x, -, rfl⟩ := Option.map_eq_some_iff.mp ht
    exact keeps_grantStream h x
  · unfold State.tryGrant at ht
    dsimp only at ht
    split at ht
    · cases ht; exact keeps_grantRecord h
    · cases ht

@[simp] theorem keeps_arbitrate (h : Keeps s0 s) : Keeps s0 s.arbitrate := by
  unfold State.arbitrate
  split
  · simp [h]
  · split
    · simp [h]
    · split
      · simp [h]
      · cases hg : (rotation s.mc.lastOfThree).findSome? s.tryGrant with
        | none => simpa using h
        | some t =>
          obtain ⟨r, -, hr⟩ := List.exists_of_findSome?_eq_some hg
          simpa using keeps_tryGrant h hr

@[simp] theorem keeps_grantInTurn : ∀ (n : Nat) {s : State}, Keeps s0 s → Keeps s0 (s.grantInTurn n)
  | 0, _, h => h
  | n + 1, s, h => by
    unfold State.grantInTurn
    split
    · exact keeps_grantInTurn n (keeps_arbitrate h)
    · exact h

/-- R175: what the owners' reads keep. -/
@[simp] theorem keeps_awaitRead : ∀ (n : Nat) {s : State}, Keeps s0 s → Keeps s0 (s.awaitRead n)
  | 0, _, h => keeps_completeThrough h _
  | n + 1, s, h => by
    unfold State.awaitRead
    split
    · exact keeps_awaitRead n (keeps_arbitrate h)
    · exact h

@[simp] theorem keeps_recordRead (h : Keeps s0 s) : Keeps s0 s.recordRead :=
  keeps_awaitRead _ (keeps_setRecords h (s.mc.records ++ [⟨.stageRead, false, [], []⟩])
    (by simp [List.countP_append, RecordItem.isEvent]))

/-! ## The Clock Block -/

theorem keeps_mapDomain (h : Keeps s0 s) (d : Fin 4) (f : Domain → Domain) (hf : ∀ x, (f x).count = x.count) :
    Keeps s0 (s.mapDomain d f) := keeps_setDomain h d _ (hf _)

@[simp] theorem keeps_reportDomain (h : Keeps s0 s) (d : Fin 4) (e : Event) : Keeps s0 (s.reportDomain d e) := by
  unfold State.reportDomain; (try dsimp only); repeat' split
  all_goals simp (maxDischargeDepth := 20) [h, keeps_mapDomain, keeps_setDomain]

@[simp] theorem keeps_tendOsc (h : Keeps s0 s) (o : Osc) : Keeps s0 (s.tendOsc o) := by
  unfold State.tendOsc; (try dsimp only); repeat' split
  all_goals simp (maxDischargeDepth := 20) [h, keeps_mapDomain, keeps_setDomain]

@[simp] theorem keeps_tendOscs (h : Keeps s0 s) : Keeps s0 (s.tendOscs) := by
  unfold State.tendOscs; (try dsimp only); repeat' split
  all_goals simp (maxDischargeDepth := 20) [h, keeps_mapDomain, keeps_setDomain]

@[simp] theorem keeps_failCandidate (h : Keeps s0 s) (d : Fin 4) (c : ClockCause) (m : Nat) : Keeps s0 (s.failCandidate d c m) := by
  unfold State.failCandidate; (try dsimp only); repeat' split
  all_goals simp (maxDischargeDepth := 20) [h, keeps_mapDomain, keeps_setDomain]

@[simp] theorem keeps_createCandidate (h : Keeps s0 s) (d : Fin 4) (c : Candidate) : Keeps s0 (s.createCandidate d c) := by
  unfold State.createCandidate; (try dsimp only); repeat' split
  all_goals simp (maxDischargeDepth := 20) [h, keeps_mapDomain, keeps_setDomain]

@[simp] theorem keeps_applySwitch (h : Keeps s0 s) (d : Fin 4) : Keeps s0 (s.applySwitch d).state := by
  have hr := keeps_recordRead h
  unfold State.applySwitch; dsimp only; repeat' split
  all_goals simp (maxDischargeDepth := 20) [hr, Outcome.state, keeps_mapDomain, keeps_setDomain]

@[simp] theorem keeps_switchTo (h : Keeps s0 s) (d : Fin 4) (c : Candidate) (t : Nat) (b : Bool) : Keeps s0 (s.switchTo d c t b) := by
  unfold State.switchTo; (try dsimp only); repeat' split
  all_goals simp (maxDischargeDepth := 20) [h, keeps_mapDomain, keeps_setDomain]

@[simp] theorem keeps_switchAtBoundary (h : Keeps s0 s) (d : Fin 4) (t : Nat) : Keeps s0 (s.switchAtBoundary d t) := by
  unfold State.switchAtBoundary; (try dsimp only); repeat' split
  all_goals simp (maxDischargeDepth := 20) [h, keeps_mapDomain, keeps_setDomain]

@[simp] theorem keeps_passCandidate (h : Keeps s0 s) (d : Fin 4) (c : Candidate) : Keeps s0 (s.passCandidate d c) := by
  unfold State.passCandidate; (try dsimp only); repeat' split
  all_goals simp (maxDischargeDepth := 20) [h, keeps_mapDomain, keeps_setDomain]

@[simp] theorem keeps_endWindow (h : Keeps s0 s) (d : Fin 4) (c : Candidate) : Keeps s0 (s.endWindow d c) := by
  unfold State.endWindow; (try dsimp only); repeat' split
  all_goals simp (maxDischargeDepth := 20) [h, keeps_mapDomain, keeps_setDomain]

@[simp] theorem keeps_windowOver (h : Keeps s0 s) (d : Fin 4) (n : Nat) : Keeps s0 (s.windowOver d n) := by
  unfold State.windowOver; (try dsimp only); repeat' split
  all_goals simp (maxDischargeDepth := 20) [h, keeps_mapDomain, keeps_setDomain]

@[simp] theorem keeps_loseReference (h : Keeps s0 s) (d : Fin 4) (c : ClockCause) : Keeps s0 (s.loseReference d c) := by
  unfold State.loseReference; (try dsimp only); repeat' split
  all_goals simp (maxDischargeDepth := 20) [h, keeps_mapDomain, keeps_setDomain]

@[simp] theorem keeps_inputLost (h : Keeps s0 s) (w : Fin 2) (d : Fin 4) : Keeps s0 (s.inputLost w d) := by
  unfold State.inputLost; (try dsimp only); repeat' split
  all_goals simp (maxDischargeDepth := 20) [h, keeps_mapDomain, keeps_setDomain]

@[simp] theorem keeps_measureCandidate (h : Keeps s0 s) (d : Fin 4) (m : Nat) : Keeps s0 (s.measureCandidate d m) := by
  unfold State.measureCandidate; (try dsimp only); repeat' split
  all_goals simp (maxDischargeDepth := 20) [h, keeps_mapDomain, keeps_setDomain]

@[simp] theorem keeps_measured (h : Keeps s0 s) (w : Fin 2) (m : Nat) (d : Fin 4) : Keeps s0 (s.measured w m d) := by
  unfold State.measured; (try dsimp only); repeat' split
  all_goals simp (maxDischargeDepth := 20) [h, keeps_mapDomain, keeps_setDomain]

@[simp] theorem keeps_applyRate (h : Keeps s0 s) (d : Fin 4) : Keeps s0 (s.applyRate d).state := by
  have hr := keeps_recordRead h
  unfold State.applyRate; dsimp only; repeat' split
  all_goals simp (maxDischargeDepth := 20) [hr, Outcome.state, keeps_mapDomain, keeps_setDomain]

@[simp] theorem keeps_rateAtBoundary (h : Keeps s0 s) (d : Fin 4) : Keeps s0 (s.rateAtBoundary d) := by
  unfold State.rateAtBoundary; (try dsimp only); repeat' split
  all_goals simp (maxDischargeDepth := 20) [h, keeps_mapDomain, keeps_setDomain]

@[simp] theorem keeps_applyStopDomain (h : Keeps s0 s) (d : Fin 4) : Keeps s0 (s.applyStopDomain d).state := by
  unfold State.applyStopDomain; (try dsimp only); repeat' split
  all_goals simp (maxDischargeDepth := 20) [h, Outcome.state, keeps_mapDomain, keeps_setDomain]

end Sys2Proof.Machine
end

