-- ==== Sys2Proof/Laws/KeepsCues.lean ====
section
/-! SUPPORT. What the operations of the Cue Unit, the boundaries, the Pass Port, the arbiter and the sequences keep, and
what the opening of the port keeps (`Keeps`; `Drops` where cues leave the list, `Runs` where a count of a domain moves as
well). -/

namespace Sys2Proof.Machine

set_option linter.unusedTactic false
set_option linter.unreachableTactic false
set_option linter.unusedSimpArgs false

variable {s0 s : State}

/-! ## The Cue Unit -/

/-- `Keeps` but for the cue list, into which one cue may have come (R57). -/
structure Takes (s t : State) : Prop where
  phase : t.phase = s.phase
  hrstn : t.hrstn = s.hrstn
  mclk : t.mclk = s.mclk
  pending : t.pending = s.pending
  size : t.mc.size = s.mc.size
  sound : s.Sound → t.Sound
  apart : s.phase ≠ .held → s.RingsApart → t.RingsApart
  motors : s.Interlocked → t.Interlocked
  hand : ∀ l, l ∈ t.li.atBoundary → l ∈ s.li.atBoundary
  counts : ∀ d, (t.domain d).count = (s.domain d).count
  inputs : t.cb.inputs = s.cb.inputs
  cues : t.cu.list.Sublist s.cu.list ∨ ∃ c l, l.Sublist s.cu.list ∧ t.cu.list = insertCue c l

theorem Drops.takes {t : State} (h : Drops s t) : Takes s t :=
  ⟨h.phase, h.hrstn, h.mclk, h.pending, h.size, h.sound, h.apart, h.motors, h.hand, h.counts, h.inputs, .inl h.cues⟩

/-- What keeps the list too keeps the rest. -/
theorem Drops.then {t u : State} (a : Drops s t) (b : Keeps t u) : Drops s u := a.trans b.toDrops

/-- A change of the Cue Unit that keeps its bound and at most takes cues out of the list. -/
theorem drops_setCu (h : Drops s0 s) (x : CueUnit) (hx : s.cu.bounded → x.bounded) (hl : x.list.Sublist s.cu.list) :
    Drops s0 { s with cu := x } :=
  h.trans ⟨⟨rfl, rfl, rfl, rfl, rfl, fun a => ⟨a.memory, a.refresh, hx a.cues, a.ring, a.attn⟩,
    fun _ => RingsApart.of_same rfl rfl (.of_rw rfl), id, fun _ => id, hl⟩, fun _ => rfl, rfl⟩

theorem drops_eraseCue (h : Drops s0 s) (c : Cue) :
    Drops s0 { s with cu := { s.cu with list := s.cu.list.erase c } } := by
  refine drops_setCu h _ (fun hb => ?_) List.erase_sublist
  have := List.length_erase_le (a := c) (l := s.cu.list)
  exact ⟨by have := hb.1; simp only; omega, fun ht => by have := hb.2 ht; simp only; omega⟩

theorem drops_endTake (h : Drops s0 s) : Drops s0 s.endTake := drops_setCu h _ (fun hb => ⟨hb.1, fun ht => nomatch ht⟩) (.refl _)

theorem length_insertCue (c : Cue) : ∀ l : List Cue, (insertCue c l).length = l.length + 1
  | [] => rfl
  | x :: xs => by
    unfold insertCue
    split
    · rfl
    · simp [length_insertCue c xs]

/-- The cue of a take in progress enters the list, and the take ends. -/
theorem takes_insertCue (h : Keeps s0 s) (c : Cue) (ht : s.cu.taking = true) :
    Takes s0 (({ s with cu := { s.cu with list := insertCue c s.cu.list } } : State).endTake) where
  phase := h.phase
  hrstn := h.hrstn
  mclk := h.mclk
  pending := h.pending
  size := h.size
  sound a := by
    obtain ⟨a1, a2, a3, a4, a5⟩ := h.sound a
    refine ⟨a1, a2, ⟨?_, fun hk => nomatch hk⟩, a4, a5⟩
    have := a3.2 ht
    simp only [State.endTake, length_insertCue]
    omega
  apart hp a := RingsApart.of_same (s := s) rfl rfl (.of_rw rfl) (h.apart hp a)
  motors := h.motors
  hand := h.hand
  counts := h.counts
  inputs := h.inputs
  cues := .inr ⟨c, s.cu.list, h.cues, rfl⟩

@[simp] theorem keeps_reportOutcome (h : Keeps s0 s) (c : Cue) (w : Word) (r : Option Reason) : Keeps s0 (s.reportOutcome c w r) := by
  unfold State.reportOutcome; (try dsimp only); repeat' split
  all_goals simp (maxDischargeDepth := 20) [h]

theorem drops_cancelStart (h : Drops s0 s) (i : Fin 32) (b : Byte) : Drops s0 (s.cancelStart i b) := by
  unfold State.cancelStart
  dsimp only
  split
  · split
    · exact h
    · exact (drops_eraseCue h _).then (keeps_passEvent (.refl _) _)
  · exact h

theorem keeps_motorCue (h : Keeps s0 s) (c : CueBody) {act : Port → Fin 16 → Port}
    (ha : ∀ x f, x.Interlocked → (act x f).Interlocked) : Keeps s0 (s.motorCue c act).state := by
  unfold State.motorCue
  dsimp only
  repeat' split
  all_goals first
    | exact h
    | exact keeps_applyMotor h _ _ fun a => ha _ _ a

@[simp] theorem keeps_applySwap (h : Keeps s0 s) (i : Fin 32) : Keeps s0 (s.applySwap i).state := by
  have hr := keeps_recordRead h
  unfold State.applySwap
  dsimp only
  repeat' split
  all_goals try exact hr
  rename_i t ht
  have := keeps_placePending hr ht
  simp (maxDischargeDepth := 20) [this, Outcome.state]

@[simp] theorem keeps_applySetOutput (h : Keeps s0 s) (o : Fin 4) : Keeps s0 (s.applySetOutput o).state := by
  have hr := keeps_recordRead h
  unfold State.applySetOutput
  dsimp only
  split
  · exact hr
  · exact keeps_applyOutputStage hr (by assumption)

theorem keeps_onTarget {n : Nat} (h : Keeps s0 s) (t : Option (Fin n)) {f : Fin n → Outcome}
    (hf : ∀ x, Keeps s0 (f x).state) : Keeps s0 (onTarget s t f).state := by
  unfold onTarget
  split
  · exact h
  · exact hf _

theorem drops_applyStopCue (h : Drops s0 s) (c : CueBody) (i : Fin 32) : Drops s0 (s.applyStopCue c i).state :=
  (drops_cancelStart h _ _).then (keeps_applyStop (.refl _) _ _ _)

/-- An owner other than that of STOP_STREAM leaves the list alone. -/
theorem keeps_handOver (h : Keeps s0 s) (c : Cue) (hc : c.verb ≠ .stopStream) : Keeps s0 (s.handOver c).state := by
  unfold State.handOver
  dsimp only
  split
  all_goals first
    | exact keeps_onTarget h _ (fun x => by simp [h])
    | exact keeps_onTarget h _ (fun x => by split <;> first | exact h | exact keeps_applyAssign h _ _)
    | exact keeps_motorCue h _ (fun x f a => interlocked_motorTo a f _)
    | exact keeps_motorCue h _ (fun x f a => interlocked_motorFree a f)
    | exact (hc (by assumption)).elim
    | simp [h, Outcome.state]

theorem drops_handOver (h : Drops s0 s) (c : Cue) : Drops s0 (s.handOver c).state := by
  by_cases hc : c.verb = .stopStream
  · unfold State.handOver
    simp only [hc]
    unfold onTarget
    split
    · exact h
    · exact drops_applyStopCue h _ _
  · exact h.then (keeps_handOver (.refl s) c hc)

theorem drops_applyCue (h : Drops s0 s) (c : Cue) : Drops s0 (s.applyCue c) := by
  unfold State.applyCue
  dsimp only
  refine Drops.then (drops_eraseCue ?_ c) (keeps_beginTake (keeps_reportOutcome (.refl _) _ _ _))
  split
  · have := drops_handOver h c
    cases hh : s.handOver c <;> simpa [hh, Outcome.state] using this
  · exact h

@[simp] theorem beginTake_list (s : State) : s.beginTake.cu.list = s.cu.list := (keeps_beginTake (.refl s)).list

/-- R59, R60: the application of a cue takes that cue out of the list, and no other but a START that a STOP cancels (R67). -/
theorem applyCue_list (s : State) (c : Cue) (hc : c.verb ≠ .stopStream) : (s.applyCue c).cu.list = s.cu.list.erase c := by
  unfold State.applyCue
  dsimp only
  rw [beginTake_list, (keeps_reportOutcome (.refl _) _ _ _).list]
  dsimp only
  congr 1
  split
  · have := (keeps_handOver (.refl s) c hc).list
    cases hh : s.handOver c <;> simpa [hh, Outcome.state] using this
  · rfl

theorem drops_applyCues (d : Fin 4) : ∀ (n room : Nat) {s : State}, Drops s0 s → Drops s0 (s.applyCues d n room)
  | 0, _, _, h => h
  | n + 1, room, s, h => by
    unfold State.applyCues
    split
    · exact h
    · split
      · exact h
      · exact drops_applyCues d n _ (drops_applyCue h _)

theorem drops_cueBoundary (h : Drops s0 s) (d : Fin 4) : Drops s0 (s.cueBoundary d) := drops_applyCues d _ _ h

theorem drops_flushStopped (h : Drops s0 s) (d : Fin 4) : Drops s0 (s.flushStopped d) := by
  unfold State.flushStopped
  split
  · exact h
  · exact drops_applyCues d _ _ h

theorem drops_applyIfReached (h : Drops s0 s) (c : Cue) : Drops s0 (s.applyIfReached c) := by
  unfold State.applyIfReached
  split
  · exact drops_applyCue h c
  · exact h

theorem keeps_engineAccepts {r : RawCue} {d : Fin 4} {n : Word} {t : State} (h : Keeps s0 s)
    (ht : s.engineAccepts r d n = .ok t) : Keeps s0 t := by
  unfold State.engineAccepts at ht
  split at ht
  · cases ht
  · split at ht
    · cases ht
    · exact keeps_acceptStart h ht

theorem takes_placeCue (h : Keeps s0 s) (b : Byte) (v : Verb) (r : RawCue) (d : Fin 4) (ht : s.cu.taking = true) :
    Takes s0 (s.placeCue b v r d).endTake := by
  unfold State.placeCue
  dsimp only
  split
  · exact (drops_endTake (drops_applyCue h.toDrops _)).takes
  · exact takes_insertCue h _ ht

@[simp] theorem keeps_refuseRecord (h : Keeps s0 s) (b : Byte) (r : RawCue) (w : Reason) :
    Keeps s0 (s.refuseRecord b r w) := keeps_passEvent h _

@[simp] theorem keeps_readStageFor (h : Keeps s0 s) (v : Verb) : Keeps s0 (s.readStageFor v) := by
  unfold State.readStageFor; split <;> simp [h]

/-- R49 step 3: the record of the take in progress is judged, and the take ends. -/
theorem takes_acceptRecord (h : Keeps s0 s) (b : Byte) (r : RawCue) (ht : s0.cu.taking = true) :
    Takes s0 (s.acceptRecord b r).endTake := by
  have refused {t : State} (h : Keeps s0 t) (w : Reason) : Takes s0 (t.refuseRecord b r w).endTake :=
    (drops_endTake (keeps_refuseRecord h b r w).toDrops).takes
  unfold State.acceptRecord
  split
  · exact refused h _
  · rename_i v _
    split
    · exact refused h _
    · split
      · exact refused h _
      · dsimp only
        replace h := keeps_readStageFor h v
        generalize s.readStageFor v = t at *
        split
        · exact refused h _
        · split
          · split
            · exact refused h _
            · rename_i u hu
              have k := keeps_engineAccepts h hu
              exact takes_placeCue k _ _ _ _ (k.taking ht)
          · exact takes_placeCue h _ _ _ _ (h.taking ht)

theorem Takes.beginTake {t : State} (h : Takes s t) : Takes s t.beginTake := by
  have k := keeps_beginTake (.refl t)
  refine ⟨k.phase.trans h.phase, k.hrstn.trans h.hrstn, k.mclk.trans h.mclk, k.pending.trans h.pending, k.size.trans h.size,
    fun a => k.sound (h.sound a), fun hp a => k.apart (h.phase ▸ hp) (h.apart hp a), fun a => k.motors (h.motors a),
    fun l a => h.hand l (k.hand l a), fun d => (k.counts d).trans (h.counts d), k.inputs.trans h.inputs, ?_⟩
  rw [beginTake_list]
  exact h.cues

@[simp] theorem keeps_finishRead (h : Keeps s0 s) : Keeps s0 s.finishRead := by simp [State.finishRead, h]

/-- CUE_TAKE in a take in progress keeps the laws; at most one cue enters the list. -/
theorem takes_takeCue (h : Keeps s0 s) (ht : s0.cu.taking = true) : Takes s0 s.takeCue := by
  unfold State.takeCue
  dsimp only
  have k := keeps_finishRead h
  generalize s.finishRead = t at *
  split
  · exact k.toDrops.takes
  · exact (takes_acceptRecord (keeps_setCu k { t.cu with record := none } id rfl id) _ _ ht).beginTake

/-! ## Boundaries -/

@[simp] theorem keeps_tick (h : Keeps s0 s) (d : Fin 4) : Keeps s0 (s.tick d) := by
  unfold State.tick
  refine keeps_requestOutputs (keeps_closeWindows (keeps_foldl (fun _ _ h => ?_) _ (keeps_foldl (fun _ _ h => ?_) _
    (keeps_request h _))) _) _
  · exact keeps_request (keeps_mapLane h _ _) _
  · exact keeps_request h _

theorem drops_boundaryPart (h : Drops s0 s) (d : Fin 4) (b : Bool) (p : BoundaryPart) :
    Drops s0 (s.boundaryPart d b p) := by
  cases p with
  | cues => exact drops_cueBoundary h d
  | _ =>
    refine h.then ?_
    simp only [State.boundaryPart]
    (try split) <;> simp [Keeps.refl]

theorem count1_count (x : Domain) (d : Fin 4) (t : Nat) : (x.count1 d t).count = x.count + 1 := by
  unfold Domain.count1
  dsimp only
  repeat' split
  all_goals rfl

/-- After the count has risen, a boundary keeps every count. -/
theorem drops_takeBoundary (s : State) (d : Fin 4) (t : Nat) (order : List BoundaryPart) :
    Drops (s.mapDomain d (fun x => x.count1 d t)) (s.takeBoundary d t order) := by
  unfold State.takeBoundary
  dsimp only
  have h2 := keeps_switchAtBoundary (keeps_rateAtBoundary (Keeps.refl (s.mapDomain d (fun x => x.count1 d t))) d) d t
  generalize ((s.mapDomain d (fun x => x.count1 d t)).rateAtBoundary d).switchAtBoundary d t = s2 at h2
  have h3 : ∀ x : LaneInterface, ∀ b, Drops ({ s2 with li := x } : State)
      ((partOrder order).foldl (State.boundaryPart d b) { s2 with li := x }) :=
    fun x b => drops_foldl (fun _ _ h => drops_boundaryPart h _ _ _) _ (.refl _)
  have h4 := h3 { s2.li with atBoundary := s2.lanesOf d } ((s2.domain d).count.toNat % 2 ^ (s2.domain d).tickExp == 0)
  generalize (partOrder order).foldl _ _ = s4 at h4
  refine ⟨⟨h4.phase.trans h2.phase, h4.hrstn.trans h2.hrstn, h4.mclk.trans h2.mclk, h4.pending.trans h2.pending,
    h4.size.trans h2.size, fun a => ?_, fun hp a => ?_, fun a => h4.motors (h2.motors a), (fun l hl => nomatch hl),
    h4.cues.trans h2.cues⟩,
    fun e => (h4.counts e).trans (h2.counts e), h4.inputs.trans h2.inputs⟩
  · have b := h2.sound a
    have c := h4.sound ⟨b.memory, b.refresh, b.cues, b.ring, b.attn⟩
    exact ⟨c.memory, c.refresh, c.cues, c.ring, c.attn⟩
  · have b := h2.apart hp a
    have c := h4.apart (by rw [← h2.phase] at hp; exact hp) (RingsApart.of_same (s := s2) rfl rfl (.of_rw rfl) b)
    exact RingsApart.of_same (s := s4) rfl rfl (.of_rw rfl) c

@[simp] theorem runs_takeBoundary (h : Runs s0 s) (d : Fin 4) (t : Nat) (order : List BoundaryPart) :
    Runs s0 (s.takeBoundary d t order) :=
  (runs_setDomain h d _).trans (drops_takeBoundary s d t order).toRuns

/-- R72: a boundary raises the count of its domain by 1 and leaves the counts of the others. -/
theorem takeBoundary_count (s : State) (d e : Fin 4) (t : Nat) (order : List BoundaryPart) :
    ((s.takeBoundary d t order).domain e).count = (s.domain e).count + (if e = d then 1 else 0) := by
  rw [(drops_takeBoundary s d t order).counts e]
  unfold State.mapDomain
  by_cases h : e = d
  · subst h; simp [count1_count]
  · rw [State.domain_setDomain_of_ne s _ (Ne.symm h)]; simp [h]

@[simp] theorem runs_boundary (h : Runs s0 s) (d : Fin 4) (order : List BoundaryPart) : Runs s0 (s.boundary d order) := by
  unfold State.boundary
  split
  · exact h
  · exact runs_takeBoundary (runs_setDomain h _ _) _ _ _

/-- R83: outside HOLDOVER nothing is left to catch up. -/
@[simp] theorem catchUp_of_left {d : Fin 4} (h : (s.domain d).run ≠ .holdover) (limit : Nat) (order : List BoundaryPart)
    (n : Nat) : s.catchUp d limit order n = s := by
  cases n with
  | zero => rfl
  | succ n => exact if_neg fun a => h a.1

@[simp] theorem runs_catchUp (d : Fin 4) (limit : Nat) (order : List BoundaryPart) :
    ∀ (n : Nat) {s : State}, Runs s0 s → Runs s0 (s.catchUp d limit order n)
  | 0, _, h => h
  | n + 1, s, h => by
    unfold State.catchUp
    dsimp only
    split
    · exact runs_catchUp d limit order n (runs_takeBoundary h _ _ _)
    · exact h

theorem runs_afterLoss (d : Fin 4) (limit : Nat) (order : List BoundaryPart) {t : State} (h : Runs s0 t) :
    Runs s0 (s.afterLoss d limit order t) := by
  unfold State.afterLoss
  split
  · exact runs_catchUp _ _ _ _ h
  · exact h

/-- What keeps the counts too keeps the rest. -/
theorem Runs.then {t u : State} (a : Runs s t) (b : Keeps t u) : Runs s u := a.trans b.toRuns

@[simp] theorem runs_settleEdge (h : Runs s0 s) (w : Fin 2) (order : List BoundaryPart) (d : Fin 4) :
    Runs s0 (State.settleEdge w order s d) := by
  unfold State.settleEdge
  split
  · exact runs_boundary h d order
  · exact h

@[simp] theorem runs_goAbsent (h : Runs s0 s) (w : Fin 2) (order : List BoundaryPart) : Runs s0 (s.goAbsent w order) := by
  unfold State.goAbsent
  dsimp only
  replace h := runs_foldl (fun s d h => runs_settleEdge h w order d) (indices 4) h
  refine runs_foldl (fun s d h => runs_afterLoss _ _ _ (h.then (keeps_inputLost (.refl s) _ _))) _ ?_
  exact (runs_setInput h _ _).then (keeps_request (.refl _) _)

@[simp] theorem keeps_oweBoundary (h : Keeps s0 s) (w : Fin 2) (d : Fin 4) : Keeps s0 (State.oweBoundary w s d) := by
  unfold State.oweBoundary
  split
  · exact keeps_mapDomain h _ _ fun _ => rfl
  · exact h

theorem runs_boundaryFirst (h : Runs s0 s) (w : Fin 2) (order : List BoundaryPart) (d : Fin 4) :
    Runs s0 (State.boundaryFirst w order s d) := by
  unfold State.boundaryFirst
  split
  · exact runs_takeBoundary h _ _ _
  · exact h

theorem runs_countEdge (h : Runs s0 s) (w : Fin 2) (order : List BoundaryPart) : Runs s0 (s.countEdge w order) := by
  unfold State.countEdge
  dsimp only
  split
  · exact runs_setInput h _ _
  · exact runs_foldl (fun s d h => runs_afterLoss _ _ _ (h.then (keeps_measured (.refl s) _ _ _))) _ (runs_setInput h _ _)

theorem runs_presentEdge (h : Runs s0 s) (w : Fin 2) (first : List (Fin 4)) (order : List BoundaryPart) :
    Runs s0 (s.presentEdge w first order) := by
  unfold State.presentEdge
  dsimp only
  refine runs_foldl (fun s d h => h.then (keeps_oweBoundary (.refl s) w d)) _ (runs_countEdge ?_ w order)
  exact runs_foldl (fun s d h => runs_boundaryFirst h w order d) _
    (runs_foldl (fun s d h => runs_settleEdge h w order d) _ h)

theorem runs_risingEdge (h : Runs s0 s) (w : Fin 2) (first : List (Fin 4)) (order : List BoundaryPart) :
    Runs s0 (s.risingEdge w first order) := by
  unfold State.risingEdge
  dsimp only
  have ht : Runs s0 (if s.edgeless w (Config.absenceLimit + 1) = true then s.goAbsent w order else s) := by
    split
    · exact runs_goAbsent h w order
    · exact h
  generalize (if s.edgeless w (Config.absenceLimit + 1) = true then s.goAbsent w order else s) = t at *
  split
  · exact runs_presentEdge ht w first order
  · exact (runs_setInput ht _ _).then (keeps_request (.refl _) _)

/-! ## The host's transactions -/

@[simp] theorem keeps_passTake (h : Keeps s0 s) (t : PassTransaction) (b : Bool) : Keeps s0 (s.passTake t b) := by
  have hu := keeps_setPp h { s.pp with inHand := some t }
  unfold State.passTake
  dsimp only
  repeat' split
  all_goals simp [h, hu]

@[simp] theorem keeps_blockTake (h : Keeps s0 s) (n : Nat) (w : BlockWrite) : Keeps s0 (s.blockTake n w) :=
  keeps_passTake h _ _

/-! ## Sequences -/

@[simp] theorem keeps_finishInHand (h : Keeps s0 s) : Keeps s0 s.finishInHand := by
  unfold State.finishInHand
  dsimp only
  split <;> simp [h]

/-- A state at power-on keeps the laws. -/
theorem powerOn_sound (n : Nat) (b : Bool) (q : List Instr) : (State.powerOn n b q).Sound :=
  ⟨rfl, Nat.zero_le _, ⟨Nat.zero_le _, fun h => (Bool.false_ne_true h).elim⟩,
    ⟨by simp [State.powerOn, ReportUnit.powerOn, ReportUnit.occupied],
      by simp [State.powerOn, ReportUnit.powerOn, ReportUnit.unreadCount, State.reservedRecords, MemController.powerOn],
      fun _ => by simp [State.powerOn, State.reservedRecords, MemController.powerOn]⟩, rfl⟩

theorem apart_of_none {t : State} (h : ∀ i, t.entry i = none) : t.RingsApart :=
  { apart := fun i j e f _ hi => by rw [h i] at hi; cases hi
    within := fun i e hi => by rw [h i] at hi; cases hi
    held := fun _ => h }

theorem powerOn_apart (n : Nat) (b : Bool) (q : List Instr) : (State.powerOn n b q).RingsApart :=
  apart_of_none fun i => by simp [State.powerOn, State.entry]

theorem abandon_events (l : List RecordItem) : (abandon l).countP (·.isEvent) = 0 := by
  rw [List.countP_eq_zero]
  intro it hit
  obtain ⟨x, -, rfl⟩ := List.mem_map.mp hit
  simp [RecordItem.isEvent]

/-- R180, R167: the reset of the blocks keeps the laws, with an empty directory. -/
theorem resetBlocks_sound (h : s.Sound) : s.resetBlocks.Sound := by
  unfold State.resetBlocks
  dsimp only
  refine (keeps_resetMeters (keeps_resetSurfaces (keeps_resetLanes (keeps_resetStreams (Keeps.refl _))))).sound ?_
  refine ⟨h.memory, h.refresh, ⟨Nat.zero_le _, fun h => (Bool.false_ne_true h).elim⟩,
    ⟨?_, ?_, fun _ => abandon_events _⟩, rfl⟩
  · simp [ReportUnit.hostReset, ReportUnit.powerOn, ReportUnit.occupied]
  · simp [ReportUnit.hostReset, ReportUnit.powerOn, ReportUnit.unreadCount, State.reservedRecords, abandon_events]

/-! ## The opening of the Pass Port -/

theorem findIdx?_of_first {p : RecordWork → Bool} {l before rest : List RecordItem} {it : RecordItem}
    (hl : l = before ++ it :: rest) (hp : p it.work = true) (hb : ∀ x ∈ before, p x.work = false) :
    l.findIdx? (fun it => p it.work) = some before.length := by
  rw [hl, List.findIdx?_append, List.findIdx?_eq_none_iff.2 hb]
  simp [List.findIdx?_cons, hp]

/-- R175: the requests up to and including the first whose work is `p` are completed. -/
theorem completeThrough_of_first {p : RecordWork → Bool} {before rest : List RecordItem} {it : RecordItem}
    (hl : s.mc.records = before ++ it :: rest) (hp : p it.work = true) (hb : ∀ x ∈ before, p x.work = false) :
    s.completeThrough p = s.completeItems (before.length + 1) := by
  unfold State.completeThrough; rw [findIdx?_of_first hl hp hb]

theorem completeThrough_of_none {p : RecordWork → Bool} (h : ∀ x ∈ s.mc.records, p x.work = false) :
    s.completeThrough p = s := by
  unfold State.completeThrough; rw [List.findIdx?_eq_none_iff.2 h]

theorem readyBefore_of_first {p : RecordWork → Bool} {l before rest : List RecordItem} {it : RecordItem}
    (hl : l = before ++ it :: rest) (hp : p it.work = true) (hb : ∀ x ∈ before, p x.work = false) :
    readyBefore p l = before.any (·.work.isReady) := by
  unfold readyBefore
  rw [findIdx?_of_first hl hp hb, hl, List.findIdx?_append]
  cases hf : before.findIdx? (·.work.isReady) with
  | none =>
    have : before.any (·.work.isReady) = false := by simpa using List.findIdx?_eq_none_iff.1 hf
    rw [this]
    cases (it :: rest).findIdx? (·.work.isReady) <;> simp
  | some k =>
    obtain ⟨hk, hr, -⟩ := List.findIdx?_eq_some_iff_getElem.1 hf
    have : before.any (·.work.isReady) = true := List.any_eq_true.2 ⟨before[k], List.getElem_mem hk, hr⟩
    simp [this, hk]

@[simp] theorem resetBlocks_phase (s : State) : s.resetBlocks.phase = .hostReset :=
  (keeps_resetMeters (keeps_resetSurfaces (keeps_resetLanes (keeps_resetStreams (Keeps.refl _))))).phase

/-- R179, R181: what the opening makes of a state between a scrub and the port's opening. -/
theorem openPort_cases (s : State) :
    (s.phase = .records ∧ s.hrstn = true ∧ s.openPort = s.resetBlocks) ∨
      (¬ (s.phase = .records ∧ s.hrstn = true) ∧
        s.openPort = { s with phase := .opened, ru := { s.ru with startWord := .ready } }) := by
  unfold State.openPort
  split
  · exact .inl ⟨by simp_all, by simp_all, rfl⟩
  · exact .inr ⟨by assumption, rfl⟩

/-- The port has opened, or a host reset has begun. -/
@[simp] theorem openPort_opens (s : State) : s.openPort.phase.opens = false := by
  rcases openPort_cases s with ⟨-, -, e⟩ | ⟨-, e⟩ <;> rw [e] <;> simp [Phase.opens]

theorem openPort_sound (h : s.Sound) : s.openPort.Sound := by
  rcases openPort_cases s with ⟨-, -, e⟩ | ⟨-, e⟩ <;> rw [e]
  · exact resetBlocks_sound h
  · exact ⟨h.memory, h.refresh, h.cues, ⟨h.ring.1, h.ring.2.1, fun hh => nomatch hh⟩, h.attn⟩

theorem openWhenReady_sound (h : s.Sound) : s.openWhenReady.Sound := by
  unfold State.openWhenReady; split
  · exact openPort_sound h
  · exact h

theorem writeReady_sound (h : s.Sound) : s.writeReady.Sound := by
  unfold State.writeReady; split
  · exact openPort_sound ((keeps_completeThrough (.refl s) _).sound h)
  · exact h

theorem completeRow_sound (h : s.Sound) (p : RecordWork → Bool) : (s.completeRow p).Sound := by
  refine (keeps_completeThrough (.refl _) p).sound ?_
  split
  · exact writeReady_sound h
  · exact h

/-- Outside the end of a start-up or of a host reset nothing is left to open. -/
@[simp] theorem writeReady_of_open (h : s.phase.opens = false) : s.writeReady = s := if_neg (by simp [h])

@[simp] theorem openWhenReady_of_open (h : s.phase.opens = false) : s.openWhenReady = s := if_neg (by simp [h])

@[simp] theorem completeRow_of_open (h : s.phase.opens = false) (p : RecordWork → Bool) :
    s.completeRow p = s.completeThrough p := by
  unfold State.completeRow; rw [writeReady_of_open h, ite_self]

/-- A request that READY does not precede is completed as at any other time. -/
theorem completeRow_of_before {p : RecordWork → Bool} (h : readyBefore p s.mc.records = false) :
    s.completeRow p = s.completeThrough p := by
  unfold State.completeRow; rw [h]; rfl

theorem completeRow_of_behind {p : RecordWork → Bool} (h : readyBefore p s.mc.records = true) :
    s.completeRow p = s.writeReady.completeThrough p := by
  unfold State.completeRow; rw [h]; rfl

/-! ## The order of the cue list (R57) -/

theorem mem_insertCue (c x : Cue) : ∀ l : List Cue, x ∈ insertCue c l ↔ x = c ∨ x ∈ l
  | [] => by simp [insertCue]
  | y :: ys => by
    unfold insertCue
    split
    · simp
    · simp only [List.mem_cons, mem_insertCue c x ys]; tauto

/-- Frames that lie within half the circle from `b` on are ordered as their distances from `b`. -/
theorem reached_iff {b f c : Word} (hf : reached b f = true) (hc : reached b c = true) :
    reached f c = true ↔ (f - b).toNat ≤ (c - b).toNat := by
  simp only [reached, decide_eq_true_eq] at *
  have : c - f = (c - b) - (f - b) := by ring
  rw [this]
  generalize c - b = x at *
  generalize f - b = y at *
  constructor
  · intro h
    by_contra hn
    have := BitVec.toNat_sub x y
    omega
  · intro h
    rw [BitVec.toNat_sub_of_le (by simpa [BitVec.le_def] using h)]
    omega

/-- R57: a cue placed where the rule says keeps the order, where "reached" orders the due frames of its domain. -/
theorem insertCue_ordered {c : Cue} {b : Word} : ∀ {l : List Cue},
    (∀ x ∈ insertCue c l, x.body.domain = c.body.domain → reached b x.body.due = true) →
    l.Pairwise (fun x y => x.body.domain = y.body.domain → reached x.body.due y.body.due = true) →
    (insertCue c l).Pairwise (fun x y => x.body.domain = y.body.domain → reached x.body.due y.body.due = true)
  | [], _, _ => by simp [insertCue]
  | x :: xs, hb, h => by
    have hc := hb c ((mem_insertCue _ _ _).2 (.inl rfl)) rfl
    have hl : ∀ y ∈ x :: xs, y.body.domain = c.body.domain → reached b y.body.due = true :=
      fun y hy => hb y ((mem_insertCue _ _ _).2 (.inr hy))
    have hx := List.pairwise_cons.1 h
    unfold insertCue at *
    split
    · rename_i hi
      refine List.pairwise_cons.2 ⟨fun y hy hd => ?_, h⟩
      have hbx := hl x (by simp) hi.1
      have hby := hl y hy hd.symm
      have hcx : ¬ (x.body.due - b).toNat ≤ (c.body.due - b).toNat := by
        rw [← reached_iff hbx hc]; simp [hi.2]
      rw [reached_iff hc hby]
      rcases List.mem_cons.1 hy with rfl | hy
      · omega
      · have := (reached_iff hbx hby).1 (hx.1 y hy (hi.1.trans hd))
        omega
    · rename_i hi
      rw [if_neg hi] at hb
      refine List.pairwise_cons.2 ⟨fun y hy hd => ?_, insertCue_ordered (fun y hy => hb y (by simp [hy])) hx.2⟩
      rcases (mem_insertCue _ _ _).1 hy with rfl | hy
      · have : ¬ reached x.body.due y.body.due = false := fun e => hi ⟨hd, e⟩
        simpa using this
      · exact hx.1 y hy hd

/-- R57: at most one cue entering, and cues leaving, keep the order of the list. -/
theorem Takes.ordered {s t : State} (h : Takes s t) (ho : s.cuesOrdered) (hd : t.duesTogether) : t.cuesOrdered := by
  unfold State.cuesOrdered at *
  rcases h.cues with hs | ⟨c, l, hs, ht⟩
  · exact ho.sublist hs
  · obtain ⟨b, hb⟩ := hd c.body.domain
    rw [ht] at hb ⊢
    exact insertCue_ordered hb (ho.sublist hs)

end Sys2Proof.Machine
end

