-- ==== Sys2Proof/Laws/PerInstr.lean ====
section
/-! SUPPORT. The family `Wire`: no row of spec/opcode_table.json gives bits, so no table word spells a command. -/

namespace Sys2Proof.Laws.Wire

/-- No table word spells the command. -/
def Statement (i : Instr) : Prop := ∀ nbits w, decodeTableWord nbits w ≠ some i

theorem all (i : Instr) : Statement i := fun _ _ h => nomatch h

theorem passTransaction (t : PassTransaction) (waits : Bool) : Statement (.passTransaction t waits) := all _
theorem playbackRingWrite (w : HostWrite) : Statement (.playbackRingWrite w) := all _
theorem captureRingRead (r : HostRead) : Statement (.captureRingRead r) := all _
theorem cuePostMarkWrite (w : BlockWrite) : Statement (.cuePostMarkWrite w) := all _
theorem eventTakeMarkWrite (w : BlockWrite) : Statement (.eventTakeMarkWrite w) := all _
theorem attentionMaskWrite (w : BlockWrite) : Statement (.attentionMaskWrite w) := all _
theorem stampDomainWrite (p : Fin 2) (w : BlockWrite) : Statement (.stampDomainWrite p w) := all _
theorem groupReferenceSelectWrite (p : Fin 2) (w : BlockWrite) : Statement (.groupReferenceSelectWrite p w) := all _
theorem faderWindowWrite (p : Fin 2) (w : BlockWrite) : Statement (.faderWindowWrite p w) := all _
theorem ladderBindingWrite (p : Fin 2) (w : BlockWrite) : Statement (.ladderBindingWrite p w) := all _
theorem encoderNotifyMaskWrite (p : Fin 2) (w : BlockWrite) : Statement (.encoderNotifyMaskWrite p w) := all _
theorem lampRowWrite (p : Fin 2) (w : BlockWrite) : Statement (.lampRowWrite p w) := all _
theorem thresholdWordWrite (l : Fin 8) (q : Fin 4) (w : BlockWrite) : Statement (.thresholdWordWrite l q w) := all _
theorem cueTake (dt : Nat) : Statement (.cueTake dt) := all _
theorem frameBoundary (d : Fin 4) (dt : Nat) (order : List BoundaryPart) : Statement (.frameBoundary d dt order) := all _
theorem startStream (c : CueBody) : Statement (.startStream c) := all _
theorem stopStream (c : CueBody) : Statement (.stopStream c) := all _
theorem swapRing (c : CueBody) : Statement (.swapRing c) := all _
theorem switchReference (c : CueBody) (dt : Nat) : Statement (.switchReference c dt) := all _
theorem setRate (c : CueBody) : Statement (.setRate c) := all _
theorem stopDomain (c : CueBody) (dt : Nat) : Statement (.stopDomain c dt) := all _
theorem assignLane (c : CueBody) : Statement (.assignLane c) := all _
theorem laneCommand (c : CueBody) : Statement (.laneCommand c) := all _
theorem setOutput (c : CueBody) : Statement (.setOutput c) := all _
theorem motorTarget (c : CueBody) : Statement (.motorTarget c) := all _
theorem motorFree (c : CueBody) : Statement (.motorFree c) := all _
theorem mark (c : CueBody) : Statement (.mark c) := all _
theorem retrainCountdownEnd (l : Fin 8) (dt : Nat) (order : List BoundaryPart) : Statement (.retrainCountdownEnd l dt order) := all _
theorem wordClockEdge (w : Fin 2) (dt : Nat) (order : EdgeOrder) : Statement (.wordClockEdge w dt order) := all _
theorem inputAbsent (w : Fin 2) (dt : Nat) (order : List BoundaryPart) : Statement (.inputAbsent w dt order) := all _
theorem oscillatorRunning (o : Osc) (dt : Nat) : Statement (.oscillatorRunning o dt) := all _
theorem settleWindowEnd (d : Fin 4) (dt : Nat) : Statement (.settleWindowEnd d dt) := all _
theorem outputRise (o : Fin 4) (dt : Nat) : Statement (.outputRise o dt) := all _
theorem outputFall (o : Fin 4) (dt : Nat) : Statement (.outputFall o dt) := all _
theorem inputStatusPeriodic (dt : Nat) : Statement (.inputStatusPeriodic dt) := all _
theorem surfaceCounterPeriodic (p : Fin 2) (dt : Nat) : Statement (.surfaceCounterPeriodic p dt) := all _
theorem laneFrameReceived (l : Fin 8) (f : LaneFrame) : Statement (.laneFrameReceived l f) := all _
theorem memoryArbitration : Statement (.memoryArbitration) := all _
theorem refreshInterval (dt : Nat) : Statement (.refreshInterval dt) := all _
theorem streamFetch (st : Fin 32) : Statement (.streamFetch st) := all _
theorem streamStore (st : Fin 32) : Statement (.streamStore st) := all _
theorem eventRecordWritten : Statement (.eventRecordWritten) := all _
theorem meterTableWritten (l : Fin 8) : Statement (.meterTableWritten l) := all _
theorem surfaceImageWritten (p : Fin 2) : Statement (.surfaceImageWritten p) := all _
theorem announce (p : Fin 2) (faders groups encoders ladders checksum : Byte) (dt : Nat) : Statement (.announce p faders groups encoders ladders checksum dt) := all _
theorem buttons (p : Fin 2) (group states checksum : Byte) (dt : Nat) : Statement (.buttons p group states checksum dt) := all _
theorem faderReport (p : Fin 2) (index low high checksum : Byte) (dt : Nat) : Statement (.faderReport p index low high checksum dt) := all _
theorem encoderReport (p : Fin 2) (index delta checksum : Byte) (dt : Nat) : Statement (.encoderReport p index delta checksum dt) := all _
theorem idleReport (p : Fin 2) (checksum : Byte) (dt : Nat) : Statement (.idleReport p checksum dt) := all _
theorem surfaceSilenceTimeout (p : Fin 2) (dt : Nat) : Statement (.surfaceSilenceTimeout p dt) := all _
theorem surfaceCommandSent (p : Fin 2) : Statement (.surfaceCommandSent p) := all _
theorem pornAssert : Statement (.pornAssert) := all _
theorem pornRelease (msel : BitVec 2) (refsel : BitVec 1) (dt : Nat) : Statement (.pornRelease msel refsel dt) := all _
theorem sdramBringUp (dt : Nat) : Statement (.sdramBringUp dt) := all _
theorem startUpScrubComplete : Statement (.startUpScrubComplete) := all _
theorem passPortOpen : Statement (.passPortOpen) := all _
theorem hrstnAssert : Statement (.hrstnAssert) := all _
theorem hrstnRelease : Statement (.hrstnRelease) := all _
theorem hostResetScrubComplete : Statement (.hostResetScrubComplete) := all _
theorem malformedSurfaceMessage (p : Fin 2) (bytes : List SurfaceByte) : Statement (.malformedSurfaceMessage p bytes) := all _

end Sys2Proof.Laws.Wire
end

