-- ==== Sys2Proof/WellFormed.lean ====
section
/-! DEFINITION. Which commands can stand for an event of their row: the conditions on operands alone. `exec` gives every
command a meaning, well formed or not. -/

namespace Sys2Proof

open Machine

/-- A write that lies in its 64-byte block and enables a byte of one of the block's words `lo` to `hi` (R168, R172). -/
def BlockWrite.reaches (w : BlockWrite) (lo hi : Nat) : Bool :=
  decide (1 ≤ w.words.length) && decide (w.start.val + w.words.length ≤ 16) &&
    (List.range 16).any (fun i =>
      decide (lo ≤ i) && decide (i ≤ hi) && touchesWord w.words (4 * w.start.val) (4 * i))

/-- R52: the target index of a verb. -/
def Verb.targetInRange (v : Verb) (t : Byte) : Bool :=
  match v with
  | .startStream | .stopStream | .swapRing => decide (t.toNat < 32)
  | .switchReference | .setRate | .stopDomain | .setOutput => decide (t.toNat < 4)
  | .assignLane | .laneCommand => decide (t.toNat < 8)
  | .motorTarget | .motorFree | .mark => true

/-- A boundary's order names each part at most once (log 9). -/
def orderNodup (o : List BoundaryPart) : Bool := decide o.Nodup

/-- R202: a received frame has as many slot words as its slot count says. -/
def LaneFrame.wellFormed (f : LaneFrame) : Bool := f.slots.length == f.slotCount.toNat

/-- The first byte begins a message (R202). -/
def startsMessage : List SurfaceByte → Bool
  | [] => false
  | b :: _ => b.framing

/-- The conditions on a command's operands. -/
def Instr.wellFormed : Instr → Bool
  | .playbackRingWrite w => w.transaction.wellShaped && !w.transaction.enablesNothing
  | .captureRingRead r => r.transaction.wellShaped
  | .cuePostMarkWrite w => w.reaches 0 0
  | .eventTakeMarkWrite w => w.reaches 0 0
  | .attentionMaskWrite w => w.reaches 1 1
  | .stampDomainWrite _ w => w.reaches 0 0
  | .encoderNotifyMaskWrite _ w => w.reaches 1 1
  | .groupReferenceSelectWrite _ w => w.reaches 0 15
  | .faderWindowWrite _ w => w.reaches 0 15
  | .ladderBindingWrite _ w => w.reaches 0 15
  | .lampRowWrite _ w => w.reaches 0 15
  | .thresholdWordWrite _ _ w => w.reaches 0 15
  | .startStream c => Verb.startStream.targetInRange c.target
  | .stopStream c => Verb.stopStream.targetInRange c.target
  | .swapRing c => Verb.swapRing.targetInRange c.target
  | .switchReference c _ => Verb.switchReference.targetInRange c.target
  | .setRate c => Verb.setRate.targetInRange c.target
  | .stopDomain c _ => Verb.stopDomain.targetInRange c.target
  | .assignLane c => Verb.assignLane.targetInRange c.target
  | .laneCommand c => Verb.laneCommand.targetInRange c.target
  | .setOutput c => Verb.setOutput.targetInRange c.target
  | .frameBoundary _ _ o => orderNodup o
  | .retrainCountdownEnd _ _ o => orderNodup o
  | .wordClockEdge _ _ o => decide o.first.Nodup && orderNodup o.parts
  | .inputAbsent _ _ o => orderNodup o
  | .laneFrameReceived _ f => f.wellFormed
  | .malformedSurfaceMessage _ bytes => startsMessage bytes && (assemble [] bytes).2.all Option.isNone
  | _ => true

end Sys2Proof
end

