-- ==== Sys2Proof/Tests/Slice0.lean ====
section
/-! SUPPORT. The author's own tests: ill-formed commands are refused by the check, each command does one small thing
right, and the hypotheses of every statement can be met. -/

namespace Sys2Proof.Tests

set_option Elab.async false

open Sys2Proof.Machine

/-! ## WellFormed refuses each ill-formed shape -/

/-- A word written with all four enables. -/
def full (w : Word) : WriteWord := ⟨w, 15⟩

/-- A write of one whole word of its block. -/
def blockOf (start : Fin 16) (w : Word) : BlockWrite := ⟨start, [full w], false⟩

/-- A cue body of one domain, target and first arguments, due at `due`. -/
def bodyOf (d : Fin 4) (target : Byte) (due arg0 arg1 arg2 : Word) : CueBody :=
  { index := 9, now := false, report := true, domain := d, target := target, tag := 7, due := due, origin := due,
    arg0 := arg0, arg1 := arg1, arg2 := arg2, arg3 := 0 }

theorem test_wellFormed_refuses_no_words : (Instr.cuePostMarkWrite ⟨0, [], false⟩).wellFormed = false := by decide

theorem test_wellFormed_refuses_words_beyond_the_block :
    (Instr.lampRowWrite 0 ⟨15, [full 1, full 2], false⟩).wellFormed = false := by decide

theorem test_wellFormed_refuses_words_that_miss_the_row :
    (Instr.attentionMaskWrite (blockOf 0 1)).wellFormed = false ∧ (Instr.eventTakeMarkWrite (blockOf 1 1)).wellFormed = false ∧
      (Instr.encoderNotifyMaskWrite 0 (blockOf 0 1)).wellFormed = false ∧
      (Instr.stampDomainWrite 1 (blockOf 1 1)).wellFormed = false := by decide

theorem test_wellFormed_refuses_no_enables :
    (Instr.thresholdWordWrite 0 0 ⟨3, [⟨1, 0⟩], false⟩).wellFormed = false ∧
      (Instr.groupReferenceSelectWrite 0 ⟨3, [⟨1, 0⟩], false⟩).wellFormed = false ∧
      (Instr.faderWindowWrite 0 ⟨3, [⟨1, 0⟩], false⟩).wellFormed = false ∧
      (Instr.ladderBindingWrite 0 ⟨3, [⟨1, 0⟩], false⟩).wellFormed = false ∧
      (Instr.playbackRingWrite ⟨0, [⟨1, 0⟩], false⟩).wellFormed = false := by decide

theorem test_wellFormed_refuses_ring_access_over_a_block :
    (Instr.playbackRingWrite ⟨60, [full 1, full 2], false⟩).wellFormed = false ∧
      (Instr.captureRingRead ⟨60, 2, false⟩).wellFormed = false ∧
      (Instr.captureRingRead ⟨0, 0, false⟩).wellFormed = false := by decide

theorem test_wellFormed_refuses_targets_out_of_range :
    (Instr.startStream (bodyOf 0 32 0 0 0 0)).wellFormed = false ∧ (Instr.stopStream (bodyOf 0 32 0 0 0 0)).wellFormed = false ∧
      (Instr.swapRing (bodyOf 0 32 0 0 0 0)).wellFormed = false ∧
      (Instr.switchReference (bodyOf 0 4 0 0 0 0) 0).wellFormed = false ∧
      (Instr.setRate (bodyOf 0 4 0 0 0 0)).wellFormed = false ∧ (Instr.stopDomain (bodyOf 0 4 0 0 0 0) 0).wellFormed = false ∧
      (Instr.setOutput (bodyOf 0 4 0 0 0 0)).wellFormed = false ∧ (Instr.assignLane (bodyOf 0 8 0 0 0 0)).wellFormed = false ∧
      (Instr.laneCommand (bodyOf 0 8 0 0 0 0)).wellFormed = false := by decide

theorem test_wellFormed_refuses_a_part_named_twice :
    (Instr.frameBoundary 0 0 [.cues, .cues]).wellFormed = false ∧
      (Instr.retrainCountdownEnd 0 0 [.lane 1, .tick, .lane 1]).wellFormed = false ∧
      (Instr.wordClockEdge 0 0 ⟨[], [.output 2, .output 2]⟩).wellFormed = false ∧
      (Instr.inputAbsent 0 0 [.tick, .tick]).wellFormed = false := by decide

theorem test_wellFormed_refuses_a_wrong_slot_count :
    (Instr.laneFrameReceived 0 { kind := 1, tag := 0, slotCount := 2, slots := [0], mark := 0, word := 0, crc := 0 }).wellFormed
      = false := by decide

theorem test_wellFormed_refuses_a_domain_named_twice :
    (Instr.wordClockEdge 0 0 ⟨[1, 2, 1], []⟩).wellFormed = false ∧ (Instr.wordClockEdge 0 0 ⟨[1, 2], []⟩).wellFormed = true := by
  decide

theorem test_wellFormed_refuses_a_correct_report_as_malformed :
    (Instr.malformedSurfaceMessage 0 (framed [5, 0xFB])).wellFormed = false ∧
      (Instr.malformedSurfaceMessage 0 []).wellFormed = false ∧
      (Instr.malformedSurfaceMessage 0 [⟨false, 5⟩, ⟨false, 0xFA⟩]).wellFormed = false ∧
      (Instr.malformedSurfaceMessage 0 (framed [5, 0xFA])).wellFormed = true ∧
      (Instr.malformedSurfaceMessage 0 (framed [3, 1] ++ framed [2])).wellFormed = true := by decide

/-! ## A small plant -/

/-- The state a command answers with; the state before where it does not answer. -/
def after (s : State) (c : Instr) : State :=
  match exec c s with
  | .next t => t
  | .fault _ => s
  | .refused _ => s

/-- The command answers a next state of which `p` holds. -/
def answers (s : State) (c : Instr) (p : State → Bool) : Bool :=
  match exec c s with
  | .next t => p t
  | .fault _ => false
  | .refused _ => false

/-- An open part with nothing running. -/
def opened : State := { State.reset with
  phase := .opened, mclk := 1000000, cb := { State.reset.cb with tenMs := 1000000 } }

/-- The control area of 64 MiB. -/
def control : Nat := 0x3F00000

/-- LOCKED on INT48 at count 100. -/
def domain0 : Domain := { Domain.powerOn with
  run := .locked, ref := some .int48, count := 100, lastBoundary := 999000 }

/-- LOCKED on WCI0 at count 50. -/
def domain1 : Domain := { Domain.powerOn with
  run := .locked, ref := some .wci0, count := 50, fallback := some .int48, lastGood := some 133333, lastBoundary := 998000 }

/-- In HOLDOVER at count 7, its next boundary due. -/
def domain2 : Domain := { Domain.powerOn with
  run := .holdover, ref := some .wci1, count := 7, lastGood := some 133333, lastBoundary := 996249, holdStart := 990000,
  holdIndex := 3 }

def input0 : WordInput := { WordInput.powerOn with
  present := true, lastEdge := 998000, blockStart := 900000, blockEdges := 10 }

/-- UP on domain 0, frame 99 expected, frame 98 to be stored. -/
def lane1 : Lane := { Lane.powerOn with
  state := .up, domain := some 0, trainingRun := 16, expected := some 99,
  inbound := [⟨98, .good (List.replicate 64 0x500)⟩] }

/-- TRAINING on domain 0 with 15 good echoes. -/
def lane2 : Lane := { Lane.powerOn with
  state := .training, domain := some 0, trainingRun := 15, expected := some 99 }

/-- In FAULT, its countdown at its last boundary. -/
def lane3 : Lane := { Lane.powerOn with
  state := .fault, domain := some 0, countdown := some 1 }

/-- UP on domain 1. -/
def lane4 : Lane := { Lane.powerOn with
  state := .up, domain := some 1, trainingRun := 16 }

def playGeometry (first base : Nat) : Geometry :=
  { dir := .play, lane := 1, domain := 0, firstSlot := first, channels := 2, base := base, frames := 16, count := 2,
    policy := .keepTime, late := some .block, notify := true }

def captureGeometry (l : Fin 8) (base : Nat) (policy : StreamPolicy) : Geometry :=
  { dir := .capture, lane := l, domain := 0, firstSlot := 0, channels := 2, base := base, frames := 16, count := 2,
    policy := policy, late := none, notify := true }

/-- RUNNING playback at the first frame of a filled period. -/
def stream0 : Stream := { Stream.powerOn with
  state := .running, geom := some (playGeometry 0 0x1000), next := 102 }

/-- RUNNING capture at the first frame of a free period. -/
def stream1 : Stream := { Stream.powerOn with
  state := .running, geom := some (captureGeometry 1 0x3000 .dropNew), next := 98 }

/-- PRIMED playback, its START cue still to come. -/
def stream2 : Stream := { Stream.powerOn with
  state := .primed, geom := some (playGeometry 2 0x2000), start := some ⟨110, true⟩, next := 110 }

/-- HALTED capture on the lane in FAULT. -/
def stream3 : Stream := { Stream.powerOn with
  state := .halted, geom := some (captureGeometry 3 0x4000 .reclaim), next := 90 }

def ringOf (base : Nat) (a b : PeriodState) : Ring :=
  { base := base, channels := 2, frames := 16, periods := [⟨a, false⟩, ⟨b, false⟩] }

def entryOf (dir : Direction) (base : Nat) (a b : PeriodState) : RingEntry :=
  { dir := dir, notify := true, late := .block, current := ringOf base a b, pendingRing := none, retiring := none }

/-- A slot map that names stream `i` in slots `first` and the next. -/
def slotsOf (m : SlotMap) (first : Nat) (i : Fin 32) : SlotMap :=
  Vector.ofFn (fun j => if j.val = first ∨ j.val = first + 1 then some i else m[j])

/-- UP with four of each control; fader 0 touched with its motor HELD, fader 1 free, motor 2 DRIVEN. -/
def port0 : Port := { Port.powerOn with
  up := true, announced := ⟨4, 4, 4, 4⟩, silence := some 500000,
  faders := (Port.powerOn.faders.set 0 ⟨100, true, .inside⟩),
  motors := (Port.powerOn.motors.set 0 ⟨.held, some 512⟩).set 2 ⟨.driven, some 300⟩,
  encoders := Port.powerOn.encoders.set 1 0xFFFF,
  inFlight := some (framed [0x85, 0x7B]),
  mirrors := { Mirrors.zero with
    groups := Mirrors.zero.groups.set 0 ⟨0, 0x0F⟩, windows := Mirrors.zero.windows.set 0 ⟨50, 200⟩, notify := 2 } }

def closing1 : Closing := { header := [5, 0, 0, 0], slots := List.replicate 8 0 }

/-- A part at work. -/
def plant : State :=
  let s := ((opened.setDomain 0 domain0).setDomain 1 domain1).setDomain 2 domain2
  let s := ((((s.setOsc .int48 .running).setInput 0 input0).setLane 1 lane1).setLane 2 lane2).setLane 3 lane3
  let s := ((((s.setLane 4 lane4).setStream 0 stream0).setStream 1 stream1).setStream 2 stream2).setStream 3 stream3
  let s := (s.setEntry 0 (some (entryOf .play 0x1000 .filled .empty))).setEntry 1 (some (entryOf .capture 0x3000 .free .ready))
  let s := (s.setEntry 2 (some (entryOf .play 0x2000 .empty .empty))).setEntry 3 (some (entryOf .capture 0x4000 .filling .free))
  let s := s.setSlotMap .play 1 (slotsOf (slotsOf (s.slotMap .play 1) 0 0) 2 2)
  let s := (s.setSlotMap .capture 1 (slotsOf (s.slotMap .capture 1) 0 1)).setSlotMap .capture 3 (slotsOf (s.slotMap .capture 3) 0 3)
  let s := s.setOutput 1 { WordOutput.powerOn 0 with state := .waiting, settings := ⟨true, 0, .x1⟩ }
  let s := s.setOutput 2 { WordOutput.powerOn 0 with
    state := .running, settings := ⟨true, 0, .x1⟩, riseAt := some 1000010, half := 1041 }
  let s := s.setOutput 3 { WordOutput.powerOn 0 with
    state := .running, line := true, settings := ⟨true, 0, .x1⟩, fallAt := some 1000020, half := 1041 }
  let s := (s.setPort 0 port0).setWindow 1 { s.window 1 with table := some closing1 }
  { s with
    mem := ((((((((s.mem.writeWords 0x1000 [0x11000000, 0x22000000]).writeWords (control + 0x2000)
      [0x02000101, 0x6000, 0x00020010, 0x00010101]).writeWords (control + 0x2080)
      [0x02080101, 0x5000, 0x00020010, 0x00010101]).writeWords (control + 0x2400) [0x02020002, 0x0800]).writeWords
      (control + 0x2430) [0x01020002, 0x0800]).writeWords (control + 0x2440) [0x00010001]).writeWords (control + 0x3000)
      [0x0000030C, 7, 0, 0, 0, 0, 0, 0]).writeWords (control + 0x2470) [0]),
    mc := { s.mc with
      refreshTimer := some 999500,
      records := [⟨.event 2 .routine, false, [⟨control + 0x5020, [1, 2, 3, 4]⟩], []⟩, ⟨.image 0, false, [], []⟩,
        ⟨.meterTable 1, false, [], []⟩, ⟨.cueRead, false, [], []⟩] },
    cu := { takeMark := 0, postMark := 1, taking := true, record := none, drained := false, list := [] },
    ru := { s.ru with
      postMark := 3, written := 2, classes := [.routine, .fault, .routine], unread := ⟨1, 0, 1⟩,
      startWord := .ready } }

/-- The kinds and first data words of the events reserved behind those of the plant. -/
def newEvents (t : State) : List (Nat × Nat) :=
  t.mc.records.filterMap (fun it =>
    match it.work with
    | .event 2 _ => none
    | .event _ _ => (it.writes.head?).map (fun w => ((w.words.headD 0).toNat % 256, ((w.words.drop 2).headD 0).toNat))
    | _ => none)

/-- The periods of a stream's current ring. -/
def periodsOf (t : State) (i : Fin 32) : List PeriodState :=
  match t.entry i with
  | none => []
  | some e => e.current.periods.map (·.state)

/-! ## One step of each command -/

theorem test_passTransaction_stores_enabled_bytes :
    answers plant (.passTransaction ⟨0x103, .write [⟨0xDDCCBBAA, 0b0101⟩]⟩ false) (fun t =>
      t.mem.readWord 0x100 == 0x00CC00AA && t.pp.answer == some ⟨.okay, []⟩ && t.pp.writes == 1) = true := by
  decide +kernel

theorem test_passTransaction_above_memory_reads_zeros :
    answers plant (.passTransaction ⟨0x4000000, .read 2⟩ false) (fun t =>
      t.pp.answer == some ⟨.noMemory, [0, 0]⟩ && t.pp.noMemory == 1) = true := by decide +kernel

theorem test_playbackRingWrite_fills_the_period :
    answers plant (.playbackRingWrite ⟨0x10C0, List.replicate 16 (full 7), false⟩) (fun t =>
      periodsOf t 0 == [.filled, .filled] && t.mem.readWord 0x10FC == 7) = true := by decide +kernel

theorem test_fillNotice_leaves_a_halted_stream :
    (plant.setStream 0 { stream0 with state := .halted, starved := some ⟨0, 101⟩ }).fillNotice 0 0 =
      plant.setStream 0 { stream0 with state := .halted, starved := some ⟨0, 101⟩ } := by decide +kernel

theorem test_passTransaction_waits_for_its_turn :
    answers { plant with mc := { plant.mc with refreshPending := 4, lastOfThree := .pass } }
      (.passTransaction ⟨0x100, .read 1⟩ false) (fun t =>
        t.mc.refreshPending == 0 && t.mc.lastOfThree == .pass && t.mc.laneTurn == 1 && t.pp.reads == 1) = true := by
  decide +kernel

theorem test_captureRingRead_frees_the_period :
    answers plant (.captureRingRead ⟨0x30C0, 16, false⟩) (fun t =>
      periodsOf t 1 == [.free, .free] && t.pp.answer == some ⟨.okay, List.replicate 16 0⟩) = true := by decide +kernel

theorem test_cuePostMarkWrite_begins_a_take :
    answers opened (.cuePostMarkWrite (blockOf 0 1)) (fun t => t.cu.postMark == 1 && t.cu.taking) = true := by
  decide +kernel

theorem test_cuePostMarkWrite_at_the_take_mark_ends_taking :
    answers (after plant (.cuePostMarkWrite (blockOf 0 0))) (.cueTake 0) (fun t =>
      t.cu.takeMark == 1 && !t.cu.taking && t.cu.drained && t.mc.records.all (·.work != .cueRead)) = true := by
  decide +kernel

theorem test_eventTakeMarkWrite_takes_the_oldest :
    answers plant (.eventTakeMarkWrite (blockOf 0 1)) (fun t =>
      t.ru.takeMark == 1 && t.ru.unread == ⟨0, 0, 1⟩ && t.ru.classes == [.fault, .routine]) = true := by decide +kernel

theorem test_attentionMaskWrite_raises_attn :
    answers plant (.attentionMaskWrite (blockOf 1 4)) (fun t => t.ru.attn && t.ru.mask == ⟨false, false, true⟩) = true := by
  decide +kernel

theorem test_stampDomainWrite_sets_the_mirror :
    answers plant (.stampDomainWrite 0 (blockOf 0 1)) (fun t => (t.port 0).mirrors.stampDomain == 1) = true := by
  decide +kernel

theorem test_groupReferenceSelectWrite_diverges :
    answers plant (.groupReferenceSelectWrite 0 (blockOf 1 0x0101)) (fun t => (t.port 0).diverged[1]) = true := by
  decide +kernel

theorem test_faderWindowWrite_judges_the_position :
    answers plant (.faderWindowWrite 0 (blockOf 0 0x012C00C8)) (fun t =>
      (t.port 0).faders[0].window == .outside && (t.port 0).mirrors.windows[0] == ⟨200, 300⟩) = true := by decide +kernel

theorem test_ladderBindingWrite_binds :
    answers plant (.ladderBindingWrite 0 (blockOf 0 0x00010501)) (fun t =>
      (t.port 0).mirrors.bindings[0] == Binding.ofWord 0x00010501) = true := by decide +kernel

theorem test_encoderNotifyMaskWrite_sets_the_mirror :
    answers plant (.encoderNotifyMaskWrite 0 (blockOf 1 6)) (fun t => (t.port 0).mirrors.notify == 6) = true := by
  decide +kernel

theorem test_lampRowWrite_marks_the_row :
    answers plant (.lampRowWrite 0 (blockOf 2 0xA5)) (fun t =>
      (t.port 0).mirrors.lamps[2] == 0xA5 && (t.port 0).dirty[lampItem 2] == .dirty) = true := by decide +kernel

theorem test_thresholdWordWrite_sets_the_watch :
    answers plant (.thresholdWordWrite 1 1 (blockOf 3 0x81800800)) (fun t =>
      t.watch 1 19 == ⟨.silent, 2048, 3, false, 0⟩) = true := by decide +kernel

theorem test_cueTake_applies_a_mark_at_its_boundary :
    answers plant (.cueTake 0) (fun t =>
      t.cu.takeMark == 1 && !t.cu.taking && t.cu.list.map (·.body.due) == [101] && newEvents t == [] &&
        t.mem.readWord (control + 0x1800) == 1) = true := by decide +kernel

theorem test_frameBoundary_counts_and_sends :
    answers plant (.frameBoundary 0 0 []) (fun t =>
      (t.domain 0).count == 101 && ((t.lane 2).sent.map (·.tag)) == some 100 && (t.lane 2).trainingRun == 0 &&
        (t.lane 1).badRun == 1 && (t.lane 3).state == .training) = true := by decide +kernel

theorem test_frameBoundary_in_holdover_takes_the_due_one :
    answers plant (.frameBoundary 2 0 []) (fun t =>
      (t.domain 2).count == 8 && (t.domain 2).holdIndex == 4 && (t.domain 2).lastBoundary == 998333) = true := by
  decide +kernel

theorem test_startStream_runs_a_primed_stream :
    answers plant (.startStream (bodyOf 0 2 100 0 0 0)) (fun t =>
      (t.stream 2).state == .running && (t.stream 2).start == some ⟨110, false⟩ &&
        newEvents t == [(5, 0x0201), (13, 0x00010007)]) = true := by decide +kernel

theorem test_stopStream_now_empties_the_playback :
    answers plant (.stopStream (bodyOf 0 0 100 1 0 0)) (fun t =>
      (t.stream 0).state == .idle && t.entry 0 == none && (t.slotMap .play 1)[0] == none &&
        (newEvents t).map (·.1) == [6, 13]) = true := by decide +kernel

theorem test_stopStream_at_period_end_keeps_running :
    answers plant (.stopStream (bodyOf 0 1 100 2 0 0)) (fun t =>
      (t.stream 1).state == .running && (t.stream 1).stop == some ⟨.periodEnd, 113⟩) = true := by decide +kernel

theorem test_stopStream_at_the_crossing_of_a_skipped_period :
    answers (plant.setLane 1 { lane1 with
        outbound := lane1.outbound.set 1 { OutPlace.empty with carries := [⟨0, 0x1000, 1, 0, 16⟩] } })
      (.stopStream (bodyOf 0 0 100 2 0 0)) (fun t => (t.stream 0).stop == some ⟨.periodEnd, 100⟩) = true := by decide +kernel

theorem test_swapRing_reads_its_stage_in_turn :
    answers { plant with mc := { plant.mc with refreshPending := 4 } } (.swapRing (bodyOf 0 0 100 0 0 0)) (fun t =>
      (t.stream 0).swap.isSome && t.mc.refreshPending == 0 && t.mc.records.all (·.work != .stageRead)) = true := by
  decide +kernel

theorem test_swapRing_places_the_pending_ring :
    answers plant (.swapRing (bodyOf 0 0 100 0 0 0)) (fun t =>
      (t.stream 0).swap == some ⟨0x6000, 16, 2⟩ &&
        (t.entry 0).map (·.pendingRing) == some (some (ringOf 0x6000 .empty .empty))) = true := by decide +kernel

theorem test_switchReference_creates_a_candidate :
    answers plant (.switchReference (bodyOf 3 3 0 0 0 0) 5) (fun t =>
      ((t.domain 3).candidate.map (fun c => (c.source, c.phase, c.windowStart))) ==
        some (.int48, .settling, some 1000005)) = true := by decide +kernel

theorem test_setRate_waits_for_the_boundary :
    answers { plant with se := StreamEngine.powerOn } (.setRate (bodyOf 0 0 100 0 0 0)) (fun t =>
      (t.domain 0).rateChange == some ⟨.x2, 8⟩ && (t.domain 0).mult == .x1) = true := by decide +kernel

theorem test_stopDomain_sends_its_lanes_to_training :
    answers { plant with se := StreamEngine.powerOn } (.stopDomain (bodyOf 0 0 100 0 0 0) 0) (fun t =>
      (t.domain 0).run == .stopped && (t.domain 0).count == 100 && (t.lane 1).state == .training &&
        t.osc .int48 == .off) = true := by decide +kernel

theorem test_assignLane_trains :
    answers plant (.assignLane (bodyOf 0 5 100 0 0 0)) (fun t =>
      (t.lane 5).state == .training && (t.lane 5).domain == some 0) = true := by decide +kernel

theorem test_laneCommand_queues_the_word :
    answers plant (.laneCommand (bodyOf 0 1 100 0xABCD 0 0)) (fun t => (t.lane 1).queue == [0xABCD]) = true := by
  decide +kernel

theorem test_setOutput_waits :
    answers plant (.setOutput (bodyOf 0 0 100 0 0 0)) (fun t =>
      (t.output 0).state == .waiting && (t.output 0).settings == ⟨true, 0, .x1⟩) = true := by decide +kernel

theorem test_motorTarget_drives_a_free_motor :
    answers plant (.motorTarget (bodyOf 0 0 100 0 1 700)) (fun t =>
      (t.port 0).motors[1] == ⟨.driven, some 700⟩ && (t.port 0).dirty[motorItem 1] == .target) = true := by
  decide +kernel

theorem test_motorFree_releases :
    answers plant (.motorFree (bodyOf 0 0 100 0 2 0)) (fun t =>
      (t.port 0).motors[2] == ⟨.free, none⟩ && (t.port 0).dirty[motorItem 2] == .release) = true := by decide +kernel

theorem test_mark_reports_done :
    answers plant (.mark (bodyOf 0 0 100 0 0 0)) (fun t => newEvents t == [(13, 0x000C0007)]) = true := by decide +kernel

theorem test_retrainCountdownEnd_trains_the_lane :
    answers plant (.retrainCountdownEnd 3 0 []) (fun t =>
      (t.lane 3).state == .training && (t.lane 3).countdown == none && ((t.lane 3).sent.map (·.kind)) == some 2 &&
        (t.domain 0).count == 101) = true := by decide +kernel

theorem test_wordClockEdge_owes_a_boundary_or_takes_it :
    answers plant (.wordClockEdge 0 83 ⟨[], []⟩) (fun t =>
      (t.input 0).lastEdge == 1000083 && (t.input 0).blockEdges == 11 && (t.domain 1).edgeOwed &&
        (t.domain 1).count == 50) = true ∧
    answers plant (.wordClockEdge 0 83 ⟨[1], []⟩) (fun t => !(t.domain 1).edgeOwed && (t.domain 1).count == 51) = true := by
  decide +kernel

theorem test_wordClockEdge_settles_the_edge_before :
    answers (after plant (.wordClockEdge 0 83 ⟨[], []⟩)) (.wordClockEdge 0 2083 ⟨[], []⟩) (fun t =>
      (t.domain 1).edgeOwed && (t.domain 1).count == 51 && (t.domain 1).lastBoundary == 1000083) = true ∧
    answers (after plant (.wordClockEdge 0 83 ⟨[], []⟩)) (.frameBoundary 1 5 []) (fun t =>
      !(t.domain 1).edgeOwed && (t.domain 1).count == 51 && (t.domain 1).lastBoundary == 1000083) = true := by
  decide +kernel

theorem test_inputAbsent_starts_holdover :
    answers plant (.inputAbsent 0 8000 []) (fun t =>
      !(t.input 0).present && (t.input 0).absences == 1 && (t.domain 1).run == .holdover &&
        ((t.domain 1).candidate.map (·.origin)) == some .fallback && (t.domain 1).count == 54 &&
          (t.domain 1).lastBoundary == 1008000) = true := by
  decide +kernel

theorem test_oscillatorRunning_after_20_ms :
    answers (plant.setOsc .int44 (.starting 0)) (.oscillatorRunning .int44 1000000) (fun t =>
      t.osc .int44 == .running) = true ∧
    answers (plant.setOsc .int44 (.starting 0)) (.oscillatorRunning .int44 999999) (fun t =>
      t.osc .int44 == .starting 0) = true := by decide +kernel

/-- A candidate settling on INT48 since `w`. -/
def settling (w : Nat) : Candidate :=
  { source := .int48, family := .f48, mult := .x1, tickExp := 7, settle := 0, fallback := none, origin := .switch,
    phase := .settling, windowStart := some w, latest := none }

theorem test_settleWindowEnd_switches_a_stopped_domain :
    answers (plant.setDomain 3 { Domain.powerOn with candidate := some (settling 200000) }) (.settleWindowEnd 3 0) (fun t =>
      (t.domain 3).run == .locked && (t.domain 3).ref == some .int48 && (t.domain 3).tickExp == 7) = true := by
  decide +kernel

theorem test_outputRise_and_fall_at_their_times :
    answers plant (.outputRise 2 10) (fun t => (t.output 2).line && (t.output 2).fallAt == some 1001051) = true ∧
    answers plant (.outputRise 2 9) (fun t => !(t.output 2).line) = true ∧
    answers plant (.outputFall 3 20) (fun t =>
      !(t.output 3).line && (t.output 3).lastHalf == some 1041 && (t.output 3).lastFall == 1000020) = true := by
  decide +kernel

theorem test_inputStatusPeriodic_asks_for_four_records_each_10_ms :
    answers plant (.inputStatusPeriodic 999999) (fun t => t.mc.records.length == 4 && t.cb.tenMs == 1000000) = true ∧
    answers plant (.inputStatusPeriodic 1000000) (fun t => t.cb.tenMs == 2000000 &&
      (t.mc.records.drop 4).map (·.work) ==
        [.status (.input 0), .status (.input 1), .status .passCounters, .status .report]) = true := by decide +kernel

theorem test_surfaceCounterPeriodic_asks_for_the_image :
    answers plant (.surfaceCounterPeriodic 1 0) (fun t => (t.mc.records.drop 4).map (·.work) == [.image 1]) = true := by
  decide +kernel

theorem test_laneFrameReceived_makes_the_lane_up :
    answers plant (.laneFrameReceived 2 (LaneFrame.make 3 99 [] (some (plant.domain 0).announcement))) (fun t =>
      (t.lane 2).state == .up && (newEvents t).map (·.1) == [19]) = true := by decide +kernel

theorem test_laneFrameReceived_meters_and_stages :
    answers (plant.setDomain 0 { domain0 with mult := .x4 })
      (.laneFrameReceived 1 (LaneFrame.make 1 99 (List.replicate 16 0x80000000) none)) (fun t =>
        (t.lane 1).counters.good == 1 && t.peak 1 0 == 0x7FFFFF && (t.lane 1).inbound.map (·.number) == [98, 99]) = true := by
  decide +kernel

theorem test_memoryArbitration_serves_the_short_lane :
    answers plant .memoryArbitration (fun t => t.mc.lastOfThree == .stream || t.mc.lastOfThree == .record) = true := by
  decide +kernel

theorem test_memoryArbitration_refreshes_first :
    answers { plant with mc := { plant.mc with refreshPending := 4 } } .memoryArbitration (fun t =>
      t.mc.refreshPending == 3) = true := by decide +kernel

theorem test_refreshInterval_adds_a_pending_refresh :
    answers plant (.refreshInterval 280) (fun t => t.mc.refreshPending == 1 && t.mc.refreshTimer == some 1000280) = true ∧
    answers plant (.refreshInterval 279) (fun t => t.mc.refreshPending == 0) = true := by decide +kernel

theorem test_streamFetch_places_the_words :
    answers plant (.streamFetch 0) (fun t =>
      (t.lane 1).outbound[2].slots[0] == 0x11000000 && (t.lane 1).outbound[2].slots[1] == 0x22000000 &&
        (t.stream 0).frame == 1 && (t.stream 0).next == 103 && periodsOf t 0 == [.playing, .empty]) = true := by
  decide +kernel

theorem test_streamStore_writes_the_words :
    answers plant (.streamStore 1) (fun t =>
      t.mem.readWords 0x3000 3 == [0x500, 0x500, 0] && (t.stream 1).frame == 1 && (t.stream 1).next == 99 &&
        periodsOf t 1 == [.filling, .ready] && (t.lane 1).inbound == []) = true := by decide +kernel

theorem test_eventRecordWritten_posts_the_record :
    answers plant .eventRecordWritten (fun t =>
      t.ru.written == 3 && t.ru.unread == ⟨2, 0, 1⟩ && t.mem.readWord (control + 0x1804) == 3 &&
        t.mem.readWords (control + 0x5020) 4 == [1, 2, 3, 4] && t.mc.records.map (·.work) == [.cueMark]) = true := by decide +kernel

theorem test_meterTableWritten_clears_the_closing :
    answers plant (.meterTableWritten 1) (fun t =>
      (t.window 1).table == none && t.mem.readWord (control + 0xB400) == 5 &&
        t.mc.records.map (·.work) == [.cueRead, .posting 2 .routine]) = true := by
  decide +kernel

theorem test_surfaceImageWritten_writes_changed_words_only :
    answers plant (.surfaceImageWritten 0) (fun t =>
      (t.beginItem ⟨.image 0, false, [], []⟩).1.writes == [] &&
        ((t.setPort 0 { t.port 0 with encoders := (t.port 0).encoders.set 3 9 }).beginItem
          ⟨.image 0, false, [], []⟩).1.writes.map (·.words) == [[0x00090000]]) = true := by decide +kernel

theorem test_surfaceImageWritten_shows_the_port :
    answers plant (.surfaceImageWritten 0) (fun t =>
      t.mem.readWord (control + 0x9000) == 0x04040401 && t.mc.records.length == 3) = true := by decide +kernel

theorem test_announce_brings_the_port_up :
    answers plant (.announce 1 1 1 1 1 0xFB 0) (fun t =>
      (t.port 1).up && (t.port 1).inFlight == some (framed [0x85, 0x7B]) && (t.port 1).announced == ⟨1, 1, 1, 1⟩) = true := by
  decide +kernel

theorem test_buttons_diverge :
    answers plant (.buttons 0 0 1 0xFD 0) (fun t =>
      (t.port 0).buttons[0] == 1 && (t.port 0).diverged[0] && (t.port 0).counters.taken == 1) = true := by decide +kernel

theorem test_faderReport_release_drives_the_motor :
    answers plant (.faderReport 0 0 100 0 0x99 0) (fun t =>
      (t.port 0).motors[0] == ⟨.driven, some 512⟩ && !(t.port 0).faders[0].touched) = true := by decide +kernel

theorem test_encoderReport_wraps :
    answers plant (.encoderReport 0 1 1 0xFA 0) (fun t => (t.port 0).encoders[1] == 0) = true := by decide +kernel

theorem test_idleReport_is_counted :
    answers plant (.idleReport 0 0xFB 7) (fun t =>
      (t.port 0).counters.taken == 1 && (t.port 0).silence == some 1000007) = true := by decide +kernel

theorem test_surfaceSilenceTimeout_drops_the_link :
    answers plant (.surfaceSilenceTimeout 0 24500000) (fun t =>
      !(t.port 0).up && (t.port 0).counters.linkDrops == 1 && (t.port 0).motors[2] == ⟨.free, none⟩) = true ∧
    answers plant (.surfaceSilenceTimeout 0 24499999) (fun t => (t.port 0).up) = true := by decide +kernel

theorem test_surfaceCommandSent_counts :
    answers plant (.surfaceCommandSent 0) (fun t =>
      (t.port 0).counters.sent == 1 && (t.port 0).inFlight == none) = true := by decide +kernel

theorem test_malformedSurfaceMessage_is_counted :
    answers plant (.malformedSurfaceMessage 0 (framed [9])) (fun t => (t.port 0).counters.malformed == 1) = true := by
  decide +kernel

theorem test_a_framed_byte_ends_the_open_message :
    answers plant (.malformedSurfaceMessage 0 (framed [3, 1])) (fun t =>
      (t.port 0).counters.malformed == 0 && (t.port 0).incoming == [3, 1]) = true ∧
    answers (after plant (.malformedSurfaceMessage 0 (framed [3, 1]))) (.idleReport 0 0xFB 0) (fun t =>
      (t.port 0).counters.malformed == 1 && (t.port 0).counters.taken == 1 && (t.port 0).incoming == []) = true := by
  decide +kernel

theorem test_pornRelease_reads_the_straps :
    answers State.reset (.pornRelease 2 1 3) (fun t =>
      t.phase == .bringUp && t.mc.size == .mib256 && t.mc.refresh == .us39 && t.mc.releasedAt == 3) = true := by
  decide +kernel

theorem test_sdramBringUp_waits_200_us :
    answers { State.reset with phase := .bringUp } (.sdramBringUp 20000) (fun t => t.phase == .scrub) = true ∧
    answers { State.reset with phase := .bringUp } (.sdramBringUp 19999) (fun t => t.phase == .bringUp) = true := by
  decide +kernel

theorem test_startUpScrubComplete_clears_the_control_area :
    answers { plant with phase := .scrub } .startUpScrubComplete (fun t =>
      t.phase == .records && t.mem.readWord (control + 0x2000) == 0 && t.mem.readWord 0x1000 == 0x11000000) = true := by
  decide +kernel

theorem test_passPortOpen_shows_ready :
    answers { State.reset with phase := .records } .passPortOpen (fun t =>
      t.phase == .opened && t.ru.startWord == .ready) = true := by decide +kernel

theorem test_hrstnAssert_resets_the_blocks :
    answers plant .hrstnAssert (fun t =>
      t.phase == .hostReset && (t.stream 0).state == .idle && t.entry 0 == none && (t.domain 0).count == 100 &&
        t.ru.startWord == .resetting) = true := by decide +kernel

theorem test_hrstnAssert_grants_the_transaction_in_turn :
    answers { plant with
        pp := { plant.pp with inHand := some ⟨0x1000, .read 1⟩ }, mc := { plant.mc with refreshPending := 4 } } .hrstnAssert
      (fun t => t.phase == .hostReset && t.mc.refreshPending == 0 && t.mc.lastOfThree == .pass &&
        t.pp.answer == some ⟨.okay, [0x11000000]⟩) = true := by decide +kernel

theorem test_hrstnRelease_starts_the_scrub :
    answers { plant with phase := .hostReset, hrstn := true } .hrstnRelease (fun t =>
      t.phase == .hostScrub && !t.hrstn && t.mc.scrubNext == some 0) = true := by decide +kernel

theorem test_hostResetScrubComplete_asks_for_the_records :
    answers { plant with phase := .hostScrub } .hostResetScrubComplete (fun t => t.phase == .hostRecords) = true := by
  decide +kernel

theorem test_pornAssert_empties_the_part :
    answers plant .pornAssert (fun t =>
      t.phase == .held && t.mem == [] && t.mclk == 1000000 && (t.stream 0).state == .idle && (t.domain 0).count == 0) = true := by
  decide +kernel

theorem test_no_word_spells_a_command : decodeTableWord 32 0xFFFFFFFF = none ∧ plant.withFetchWord 32 7 = plant :=
  ⟨rfl, rfl⟩

/-! ## Every statement's hypotheses can be met -/

/-- The answer of a command that answers. -/
theorem exec_of_answers {s : State} {c : Instr} (h : answers s c (fun _ => true) = true) : exec c s = .next (after s c) := by
  unfold answers at h
  unfold after
  revert h
  cases exec c s <;> simp

/-- No two rings of different streams share a byte, all fit below the control area, and under PORn there are none. -/
def apartCheck (s : State) : Bool :=
  (List.finRange 32).all (fun i =>
    (s.entry i).all (fun e =>
      e.rings.all (fun r => decide (r.base % 64 = 0 ∧ r.base + r.bytes ≤ s.base) && s.phase != .held) &&
        (List.finRange 32).all (fun j => i == j ||
          (s.entry j).all (fun f => e.rings.all (fun r => f.rings.all (fun q =>
            !rangesOverlap r.base r.bytes q.base q.bytes))))))

theorem ringsApart_of_check {s : State} (h : apartCheck s = true) : s.RingsApart := by
  have at_ : ∀ i e, s.entry i = some e → _ := fun i e hi => by
    have := List.all_eq_true.mp h i (List.mem_finRange i)
    rw [hi] at this
    simpa using this
  refine ⟨?_, ?_, ?_⟩
  · intro i j e f hij hi hj r hr q hq
    rcases (at_ i e hi).2 j with h | h
    · exact absurd h hij
    · rw [hj] at h
      simp only [Option.all_some, List.all_eq_true, Bool.not_eq_true'] at h
      exact h r hr q hq
  · intro i e hi r hr
    exact ((at_ i e hi).1 r hr).1
  · intro hp i
    cases hi : s.entry i with
    | none => rfl
    | some e => exact absurd hp ((at_ i e hi).1 e.current (by simp [RingEntry.rings])).2

/-- A port whose silence runs to `now`. -/
theorem heard_of_check {x : Port} {now : Nat} (h : x.silence.all (fun t => decide (now ≤ t + 25000000)) = true) :
    x.heard now := by
  intro t ht
  rw [ht] at h
  simpa using h

theorem plant_sound : plant.Sound :=
  ⟨by decide +kernel, by decide +kernel, by unfold CueUnit.bounded; decide +kernel,
    by unfold State.ringSound; decide +kernel, by unfold ReportUnit.attnRight; decide +kernel⟩

theorem plant_ringsApart : plant.RingsApart := ringsApart_of_check (by decide +kernel)

theorem plant_interlocked : plant.Interlocked := by
  intro p
  refine ⟨?_, ?_, ?_⟩ <;> revert p <;> decide +kernel

/-- The state with one command queued. -/
def State.queue (s : State) (c : Instr) : State := { s with pending := [c] }

/-- The state without any queue. -/
def State.quiet (s : State) : State := { s with pending := [] }

/-- The plant with one command queued. -/
def queued (c : Instr) : State := State.queue plant c

/-- The plant without any queue. -/
def quiet : State := State.quiet plant

theorem step_queue (s : State) (c : Instr) : step (State.queue s c) = exec c (State.quiet s) := rfl

theorem sound_queue {s : State} (h : s.Sound) (c : Instr) : (State.queue s c).Sound := ⟨h.1, h.2, h.3, h.4, h.5⟩

theorem ringsApart_queue {s : State} (h : s.RingsApart) (c : Instr) : (State.queue s c).RingsApart := ⟨h.1, h.2, h.3⟩

theorem interlocked_queue {s : State} (h : s.Interlocked) (c : Instr) : (State.queue s c).Interlocked := h

theorem step_queued (c : Instr) (h : answers quiet c (fun _ => true) = true) :
    step (queued c) = .next (after quiet c) := Eq.trans (step_queue plant c) (exec_of_answers h)

theorem witness_StepRunsFrontCommand : (queued .pornAssert).pending = .pornAssert :: [] ∧
    ({ plant with pending := [.cueTake 0, .pornAssert] } : State).pending = .cueTake 0 :: [.pornAssert] := ⟨rfl, rfl⟩

theorem witness_NothingHappensWithoutCause : plant.pending = [] ∧ State.reset.phase = .held ∧
    Instr.memoryArbitration.reachesHeld = false := by decide +kernel

/-- Two cues of domain 0 in the list. -/
def listed : State := { plant with
  cu := { plant.cu with list := [⟨.mark, bodyOf 0 0 105 0 0 0⟩, ⟨.startStream, bodyOf 0 2 110 0 0 0⟩] } }

theorem witness_EveryStepKeepsSound : (queued .eventRecordWritten).Sound ∧
    step (queued .eventRecordWritten) = .next (after quiet .eventRecordWritten) :=
  ⟨sound_queue plant_sound _, step_queued _ (by decide +kernel)⟩

theorem witness_EveryStepKeepsSound_of_orders : (State.queue listed (.frameBoundary 0 0 [])).cuesOrdered ∧
    step (State.queue listed (.frameBoundary 0 0 [])) = .next (after (State.quiet listed) (.frameBoundary 0 0 [])) ∧
    (after (State.quiet listed) (.frameBoundary 0 0 [])).duesTogether := by
  refine ⟨by unfold State.cuesOrdered; decide +kernel,
    Eq.trans (step_queue listed _) (exec_of_answers (by decide +kernel)), fun d => ⟨0, ?_⟩⟩
  revert d
  decide +kernel

theorem witness_EveryStepKeepsRingsApart : (queued (.stopStream (bodyOf 0 0 100 1 0 0))).RingsApart ∧
    step (queued (.stopStream (bodyOf 0 0 100 1 0 0))) = .next (after quiet (.stopStream (bodyOf 0 0 100 1 0 0))) :=
  ⟨ringsApart_queue plant_ringsApart _, step_queued _ (by decide +kernel)⟩

theorem witness_EveryStepKeepsInterlock : (queued (.motorFree (bodyOf 0 0 100 0 2 0))).Interlocked ∧
    step (queued (.motorFree (bodyOf 0 0 100 0 2 0))) = .next (after quiet (.motorFree (bodyOf 0 0 100 0 2 0))) :=
  ⟨interlocked_queue plant_interlocked _, step_queued _ (by decide +kernel)⟩

theorem witness_NoBoundaryInHandBetweenSteps : (queued (.frameBoundary 0 0 [])).li.atBoundary = [] ∧
    step (queued (.frameBoundary 0 0 [])) = .next (after quiet (.frameBoundary 0 0 [])) :=
  ⟨by decide +kernel, step_queued _ (by decide +kernel)⟩

theorem witness_OnlyBoundariesMoveCounts : Instr.hrstnAssert.movesCounts = false ∧
    exec .hrstnAssert plant = .next (after plant .hrstnAssert) :=
  ⟨rfl, exec_of_answers (by decide +kernel)⟩

/-- Domain 1 with an edge whose boundary is still to come. -/
def owing : State := plant.setDomain 1 { domain1 with edgeOwed := true }

theorem witness_BoundariesRaiseTheCount : plant.phase ≠ .held ∧ owing.phase ≠ .held ∧
    boundaryIsDue (plant.domain 0) (plant.mclk + 0) ∧ boundaryIsDue (owing.domain 1) (owing.mclk + 0) ∧
    boundaryIsDue (({ plant with mclk := 998333 } : State).domain 2) (998333 + 0) ∧ (plant.domain 3).run = .stopped :=
  ⟨by decide +kernel, by decide +kernel, .inl (by decide +kernel), .inr (.inl (by decide +kernel)),
    .inr (.inr ⟨133333, by decide +kernel⟩), by decide +kernel⟩

theorem witness_BoundariesRaiseTheCount_at_their_times :
    boundaryFalls (plant.domain 0) (plant.edgeOf 0) (plant.mclk + 7) (plant.mclk + 7) domain0 ∧
    boundaryFalls (owing.domain 1) (owing.edgeOf 1) (owing.mclk + 0) 998000 domain1 ∧
    boundaryFalls (plant.domain 2) (plant.edgeOf 2) (plant.mclk + 0) 998333 domain2 ∧
    ((plant.domain 0).run ≠ .holdover ∧ (plant.domain 2).holdIndex + 1 < 64 ∧
      64 ≤ ({ domain2 with holdIndex := 63 } : Domain).holdIndex + 1 ∧ domain2.lastGood = some 133333) :=
  ⟨.inl (by decide +kernel), .inr (.inl (by decide +kernel)), .inr (.inr ⟨133333, by decide +kernel⟩), by decide +kernel⟩

/-- The plant in a phase of a sequence, with nothing reserved. -/
def inPhase (p : Phase) : State := { opened with
  phase := p, mem := plant.mem }

theorem witness_StartUpRunsItsSteps :
    State.reset.phase = .held ∧ plant.phase ≠ .held ∧
    ((inPhase .bringUp).phase = .bringUp ∧ (inPhase .bringUp).mc.releasedAt + 20000 ≤ (inPhase .bringUp).mclk + 0) ∧
    ((inPhase .scrub).phase = .scrub ∧ (inPhase .scrub).Sound) ∧
    ((inPhase .hostScrub).phase = .hostScrub ∧ (inPhase .hostScrub).Sound) := by
  refine ⟨by decide +kernel, by decide +kernel, by decide +kernel, ⟨rfl, ?_⟩, ⟨rfl, ?_⟩⟩ <;>
    exact ⟨by decide +kernel, by decide +kernel, by unfold CueUnit.bounded; decide +kernel,
      by unfold State.ringSound; decide +kernel, by unfold ReportUnit.attnRight; decide +kernel⟩

/-- A host reset's scrub with port 0 UP and a table of lane 1 pending. -/
def scrubbed : State := { inPhase .hostScrub with si := plant.si, mu := plant.mu }

theorem test_hostResetScrubComplete_restores_surfaces_and_meters :
    (scrubbed.port 0).up = true ∧ (scrubbed.window 1).table.isSome = true ∧
    answers scrubbed .hostResetScrubComplete (fun t =>
      (t.mc.records.map (·.work)).take 4 == [.wholeImage 0, .wholeImage 1, .meterTable 1, .status .identity] &&
      (t.port 0).dirty[lampItem 0] == .dirty && (t.port 1).dirty[lampItem 0] == .clean) = true := by
  and_intros <;> decide +kernel

/-- The end of a start-up with HRSTn asserted. -/
def held : State := { inPhase .records with hrstn := true }

/-- The write of READY, an event's record, and an end of a host reset with requests in the Record order. -/
def readyItem : RecordItem := ⟨.status .startWord, false, [⟨control + 0x10, [1]⟩], []⟩
def event0 : RecordItem := ⟨.event 0 .notice, false, [⟨control + 0x5000, [1, 2, 3, 4]⟩], []⟩
def ending (l : List RecordItem) : State := { inPhase .hostRecords with mc := { opened.mc with records := l } }
def report0 : RecordItem := ⟨.status .report, false, [⟨control + 0x7C0, [9]⟩], []⟩

theorem witness_PassPortOpensWhenReady : ((inPhase .records).phase = .records ∧ (inPhase .records).hrstn = false) ∧
    (inPhase .hostRecords).phase = .hostRecords ∧ (held.phase = .records ∧ held.hrstn = true) ∧
    ((ending [report0, readyItem, event0]).phase = .hostRecords ∧
      (ending [report0, readyItem, event0]).mc.records = [report0] ++ readyItem :: [event0] ∧
      readyItem.work = .status .startWord ∧ (report0.work ≠ .status .startWord ∧ report0.isEvent = false)) ∧
    readyWritten (ending [report0, readyItem, event0]) ((ending [report0, readyItem, event0]).completeItems 2) ∧
    readyWritten held held :=
  ⟨by decide +kernel, by decide +kernel, by decide +kernel, by decide +kernel,
    .inl ⟨[report0], readyItem, [event0], rfl, rfl, by decide +kernel, rfl⟩, .inr ⟨by decide +kernel, rfl⟩⟩

theorem test_passPortOpen_leaves_the_event_ring_empty :
    answers (ending [report0, readyItem, event0]) .passPortOpen (fun t =>
      t.phase == .opened && t.ru.unread == opened.ru.unread && t.ru.written == opened.ru.written &&
        t.mem.readWord (control + 0x10) == 1 && t.mc.records == [event0]) = true := by decide +kernel

theorem test_the_port_opens_where_ready_is_granted :
    answers (ending [readyItem, event0]) .memoryArbitration (fun t =>
      t.phase == .opened && t.ru.startWord == .ready && t.mc.records == [event0]) = true ∧
    answers (ending [report0, readyItem]) .memoryArbitration (fun t => t.phase == .hostRecords) = true := by decide +kernel

theorem test_passPortOpen_with_hrstn_asserted_is_a_host_reset :
    answers held .passPortOpen (fun t => t.phase == .hostReset && t.ru.startWord == .resetting) = true := by decide +kernel

/-- A transaction in hand. -/
def inHand : State := { plant with
  pp := { plant.pp with inHand := some ⟨0x100, .read 1⟩ } }

theorem witness_HrstnResetsTheBlocks : (plant.phase = .opened ∧ plant.pp.inHand = none) ∧
    (inPhase .hostReset).phase = .hostReset ∧ (inPhase .hostScrub).phase = .hostScrub ∧
    (inPhase .hostRecords).phase = .hostRecords ∧
    (inHand.phase = .opened ∧ inHand.pp.inHand = some ⟨0x100, .read 1⟩ ∧ inHand.pp.inHand ≠ none) ∧
    (inHand.mc.refreshPending = 0 ∧ inHand.urgentStream = none ∧ inHand.mc.lastOfThree = .record) ∧
    (inPhase .bringUp).phase = .bringUp ∧ (inPhase .scrub).phase = .scrub ∧ (inPhase .records).phase = .records ∧
    plant.phase ≠ .hostReset := by decide +kernel

/-! ### The Pass Port -/

theorem witness_UngrantedTransactionsAreAnswered :
    plant.portFree ∧
    (⟨60, .read 2⟩ : PassTransaction).wellShaped = false ∧ (⟨0, .read 0⟩ : PassTransaction).wellShaped = false ∧
    (⟨0, .read 17⟩ : PassTransaction).wellShaped = false ∧
    ((⟨0x4000000, .read 16⟩ : PassTransaction).wellShaped = true ∧
      plant.mc.size.bytes ≤ (⟨0x4000000, .read 16⟩ : PassTransaction).start) ∧
    ((⟨0x3FFFFFC, .write [⟨1, 0⟩]⟩ : PassTransaction).wellShaped = true ∧
      (⟨0x3FFFFFC, .write [⟨1, 0⟩]⟩ : PassTransaction).start < plant.mc.size.bytes ∧
      (⟨0x3FFFFFC, .write [⟨1, 0⟩]⟩ : PassTransaction).enablesNothing = true) ∧
    ((⟨0x3F0183C, .write [full 1]⟩ : PassTransaction).wellShaped = true ∧
      (⟨0x3F0183C, .write [full 1]⟩ : PassTransaction).start < plant.mc.size.bytes ∧
      (⟨0x3F0183C, .write [full 1]⟩ : PassTransaction).enablesNothing = false ∧
      plant.partOwnedAt (⟨0x3F0183C, .write [full 1]⟩ : PassTransaction).start = true) ∧
    (inPhase .records).phase ≠ .opened ∧ inHand.pp.inHand ≠ none ∧ plant.ungranted ⟨0x3F01840, .write [full 1]⟩ = none ∧
    exec (.passTransaction ⟨0x3F0183C, .write [full 1]⟩ false) plant =
      .next (after plant (.passTransaction ⟨0x3F0183C, .write [full 1]⟩ false)) := by
  and_intros <;> first | decide +kernel | exact exec_of_answers (by decide +kernel)

/-- A read of the last word of memory. -/
def lastRead : PassTransaction := ⟨0x3FFFFFF, .read 1⟩

/-- A write of the last word below the control area. -/
def lastWrite : PassTransaction := ⟨0x3EFFFFC, .write [⟨5, 0b0110⟩]⟩

/-- The open part with a requester last granted. -/
def granted (r : Requester) : State := { opened with mc := { opened.mc with lastOfThree := r } }

/-- A word of the control area, and the last word of memory. -/
def atOffset (o : Nat) : PassTransaction := ⟨BitVec.ofNat 32 (control + o), .write [full 5]⟩

/-- A read or a write in a ring that makes no claim: the direction of the ring, and the word it lies before. -/
def claimless (x : PassTransaction) (dir : Direction) (last : Nat) : Bool :=
  match plant.findRing x.start with
  | none => false
  | some f => f.entry.dir == dir && f.ring.lastWord (f.ring.periodOf x.start) == last && decide (x.lastWord < last)

theorem witness_PlainTransactionsReachMemory_of_host_words :
    ((⟨0x1000, .read 16⟩ : PassTransaction).wellShaped = true ∧ claimless ⟨0x1000, .read 16⟩ .play 0x107C = true) ∧
    ((⟨0x3040, .read 15⟩ : PassTransaction).wellShaped = true ∧ claimless ⟨0x3040, .read 15⟩ .capture 0x307C = true) ∧
    ((⟨0x3000, .write [full 5]⟩ : PassTransaction).enablesNothing = false ∧
      claimless ⟨0x3000, .write [full 5]⟩ .capture 0x307C = true) ∧
    ∀ o ∈ [0x1844, 0x187C, 0x1888, 0x2000, 0x4FFC, 0x9808, 0x983C, 0x9940, 0x9A08, 0x9BFC, 0x9C00, 0x9FFC, 0xA800, 0xAFFC,
        0xD000, 0xFFFFC],
      (atOffset o).wellShaped = true ∧ (atOffset o).enablesNothing = false ∧ plant.base ≤ (atOffset o).start ∧
      (atOffset o).start < plant.mc.size.bytes ∧ plant.partOwnedAt (atOffset o).start = false ∧
      (o ≠ 0x1840 ∧ o ≠ 0x1880 ∧ o ≠ 0x1884 ∧ ¬ (0xA000 ≤ o ∧ o < 0xA800) ∧
        ¬ (0x9800 ≤ o ∧ o < 0x9C00 ∧ (o % 512 < 8 ∨ (64 ≤ o % 512 ∧ o % 512 < 320)))) ∧
      (atOffset o).start - plant.base = o ∧ plant.findRing (atOffset o).start = none := by decide +kernel

theorem witness_PlainTransactionsReachMemory :
    (∀ r ∈ [Requester.record, .pass, .stream], (granted r).portReady) ∧
    (plant.portReady ∧ lastRead.op = .read 1 ∧ lastRead.wellShaped = true ∧ lastRead.start < plant.mc.size.bytes ∧
      plant.findRing lastRead.start = none) ∧
    (plant.mem.wf = true ∧ lastWrite.op = .write [⟨5, 0b0110⟩] ∧ lastWrite.wellShaped = true ∧
      lastWrite.enablesNothing = false ∧ lastWrite.start + 4 * 1 ≤ plant.base ∧ plant.findRing lastWrite.start = none) := by
  decide +kernel

theorem lands (o : Nat) (w : BlockWrite)
    (h : w.waits = false ∧ w.start.val + w.words.length ≤ 16 ∧ (∃ x ∈ w.words, x.enables ≠ 0) ∧ plant.base % 64 = 0 ∧
      o % 64 = 0 ∧ plant.base + o + 64 ≤ plant.mc.size.bytes ∧ partOwned o = false) : blockWriteLands w plant o :=
  ⟨by decide +kernel, plant_ringsApart, h.1, h.2.1, h.2.2.1, h.2.2.2.1, h.2.2.2.2.1, h.2.2.2.2.2.1, h.2.2.2.2.2.2⟩

theorem witness_WatchedBlockWritesLand :
    ∀ x ∈ [((15 : Fin 16), 0x1840), (0, 0x1880), (1, 0x9800), (0, 0x9800 + 512 * 1), (15, 0x9840 + 512 * 1),
        (15, 0x9880 + 512 * 1), (15, 0x98C0 + 512 * 1), (15, 0x9900 + 512 * 1), (15, 0xA000 + 256 * 7 + 64 * 3)],
      blockWriteLands (blockOf x.1 1) plant x.2 := by
  refine fun x hx => lands x.2 (blockOf x.1 1) ?_
  revert x
  decide +kernel

/-- A write of the last word of an EMPTY period, and one of the first word of a FILLED period. -/
def emptyWrite : HostWrite := ⟨0x10FC, [full 1], false⟩
def firstWrite : HostWrite := ⟨0x1000, [full 1], false⟩

/-- A read of the last word of a READY period. -/
def readyRead : HostRead := ⟨0x30FC, 1, false⟩

/-- The plant with stream 0's first period PLAYING, reported or not, under a late policy, and stream 1's second FILLING. -/
def playing (reported : Bool) (late : LatePolicy) : State :=
  (plant.setEntry 0 (some { entryOf .play 0x1000 .playing .empty with
    late := late, current := { ringOf 0x1000 .playing .empty with periods := [⟨.playing, reported⟩, ⟨.empty, false⟩] } })).setEntry
      1 (some (entryOf .capture 0x3000 .free .filling))

/-- What an address of a stream's current ring finds. -/
def foundAt (s : State) (i : Fin 32) : Option Found := (s.entry i).map (fun e => ⟨i, .current, e.current, e⟩)

theorem witness_HostClaimsFollowThePeriod :
    (plant.portReady ∧ emptyWrite.waits = false ∧ emptyWrite.transaction.wellShaped = true ∧
      emptyWrite.transaction.enablesNothing = false ∧ emptyWrite.transaction.lastWord < plant.base ∧
      plant.findRing emptyWrite.transaction.start = foundAt plant 0 ∧
      (foundAt plant 0).all (fun f => f.entry.dir == .play &&
        f.ring.period (f.ring.periodOf emptyWrite.transaction.start) == some ⟨.empty, false⟩ &&
          touchesWord emptyWrite.words 0x10FC (f.ring.lastWord 1)) = true ∧ (foundAt plant 0).isSome = true) ∧
    (firstWrite.transaction.lastWord < plant.base ∧ plant.findRing firstWrite.transaction.start = foundAt plant 0 ∧
      (foundAt plant 0).any (fun f => f.ring.period (f.ring.periodOf firstWrite.transaction.start) == some ⟨.filled, false⟩)
        = true) ∧
    ∀ b : Bool, ∀ late ∈ [LatePolicy.land, .block], (playing b late).portReady ∧ firstWrite.waits = false ∧
      firstWrite.transaction.wellShaped = true ∧ firstWrite.transaction.enablesNothing = false ∧
      firstWrite.transaction.lastWord < (playing b late).base ∧
      (playing b late).findRing firstWrite.transaction.start = foundAt (playing b late) 0 ∧
      (foundAt (playing b late) 0).any (fun f => f.entry.dir == .play && f.entry.late == late &&
        f.ring.period (f.ring.periodOf firstWrite.transaction.start) == some ⟨.playing, b⟩) = true := by decide +kernel

/-- The plant with both periods of stream 1's ring FREE, or the second FILLING and reported. -/
def emptied : State := plant.setEntry 1 (some (entryOf .capture 0x3000 .free .free))
def reported1 : State := plant.setEntry 1 (some { entryOf .capture 0x3000 .free .filling with
  current := { ringOf 0x3000 .free .filling with periods := [⟨.free, false⟩, ⟨.filling, true⟩] } })

theorem witness_HostClaimsFollowThePeriod_of_reads :
    ∀ s ∈ [plant, playing false .land, emptied, reported1], s.portReady ∧ readyRead.waits = false ∧ readyRead.transaction.wellShaped = true ∧
      readyRead.transaction.start < s.mc.size.bytes ∧ s.findRing readyRead.transaction.start = foundAt s 1 ∧
      (foundAt s 1).any (fun f => f.entry.dir == .capture && f.ring.periodOf readyRead.transaction.start == 1 &&
        (f.ring.period 1 == some ⟨.ready, false⟩ || f.ring.period 1 == some ⟨.filling, false⟩ ||
          f.ring.period 1 == some ⟨.free, false⟩ || f.ring.period 1 == some ⟨.filling, true⟩) &&
          decide (readyRead.transaction.start ≤ f.ring.lastWord 1) &&
            decide (f.ring.lastWord 1 ≤ readyRead.transaction.lastWord)) = true := by decide +kernel

theorem witness_HostClaimsFollowThePeriod_of_rings :
    plant.entry 5 = none ∧ (plant.findRing 0x1FFF = none ∧ plant.findRing 0x2100 = none) ∧
    (plant.findRing 0x2000 = foundAt plant 2 ∧ plant.findRing 0x20FF = foundAt plant 2 ∧ (foundAt plant 2).isSome = true) := by
  decide +kernel

/-! ### The Report Unit -/

theorem witness_RequestsShowTheirRecords : (inPhase .scrub).phase.holdsWrites = true ∧ plant.phase.holdsWrites = false ∧
    plant.phase ≠ .held ∧ (plant.mclk + 999999 - plant.cb.tenMs) / 1000000 = 0 ∧
    (plant.mclk + 1000000 - plant.cb.tenMs) / 1000000 ≠ 0 ∧
    ((plant.stream 5).geom = none ∧ (plant.stream 0).geom = some (playGeometry 0 0x1000) ∧ plant.entry 5 = none ∧
      plant.entry 0 = some (entryOf .play 0x1000 .filled .empty)) := by decide +kernel

theorem witness_RequestsShowTheirRecords_of_images :
    (∀ x ∈ plant.mc.records, ¬ (x.work = .image 1 ∧ x.begun = false)) ∧
    (plant.mc.records.map (·.work) = [.event 2 .routine, .image 0, .meterTable 1, .cueRead] ∧
      ∀ x ∈ plant.mc.records, x.begun = false) ∧
    ((plant.window 1).table ≠ none ∧ (plant.window 2).table = none) ∧
    (({ plant with mc := { plant.mc with records := [] } } : State).window 1).table ≠ none ∧
    ((inPhase .records).phase.holdsWrites = false ∧ (inPhase .records).phase = .records) := by decide +kernel

theorem test_announce_during_a_start_up_writes_no_event :
    answers { inPhase .records with mc := { opened.mc with records := [readyItem] } } (.announce 1 1 1 1 1 0xFB 0) (fun t =>
      (t.port 1).up && t.mc.records == [readyItem, ⟨.image 1, false, [], []⟩]) = true ∧
    answers (inPhase .hostRecords) (.announce 1 1 1 1 1 0xFB 0) (fun t =>
      t.mc.records.map (fun it => it.events.map (·.kind)) == [[.surfaceUp]]) = true := by decide +kernel

/-- A full event ring, and one with a single free slot, with an event lost. -/
def fullRing (n : BitVec 10) : State := { plant with
  ru := { plant.ru with postMark := n, lost := 1 } }

theorem witness_EventsAreReservedOrLost :
    (inPhase .scrub).phase.discardsEvents = true ∧
    ((fullRing 1022).phase.discardsEvents = false ∧ (fullRing 1022).ru.occupied < 1023) ∧
    1023 ≤ (fullRing 1023).ru.occupied ∧ plant.ru.lost = 0 ∧ (fullRing 1022).ru.lost ≠ 0 := by decide +kernel

/-- Port 0 with a stamp domain word that names no domain. -/
def unstamped : State :=
  plant.setPort 0 { plant.port 0 with mirrors := { (plant.port 0).mirrors with stampDomain := 4 } }

theorem witness_EventsAreReservedOrLost_of_stamps :
    ((plant.domain 3).run = .stopped ∧ (plant.domain 0).run ≠ .stopped ∧ (plant.stream 5).geom = none ∧
      (plant.stream 0).geom = some (playGeometry 0 0x1000)) ∧
    (0 : Fin 4).val = (plant.port 0).mirrors.stampDomain.toNat ∧ 4 ≤ ((unstamped.port 0).mirrors.stampDomain).toNat := by
  and_intros <;> decide +kernel

/-- The plant with another Record order, and the requests it is made of. -/
def ordering (l : List RecordItem) : State := { plant with mc := { plant.mc with records := l } }
def record2 : RecordItem := ⟨.event 2 .routine, false, [⟨control + 0x5020, [1, 2, 3, 4]⟩], []⟩
def posting2 : RecordItem := ⟨.posting 2 .routine, false, [⟨control + 0x1804, [3]⟩], []⟩
def table1 : RecordItem := ⟨.meterTable 1, false, [], []⟩
def cueRead : RecordItem := ⟨.cueRead, false, [], []⟩
def cueMark : RecordItem := ⟨.cueMark, false, [⟨control + 0x1800, [1]⟩], []⟩
def imageOf (whole : Bool) : RecordItem := ⟨if whole then .wholeImage 0 else .image 0, false, [], []⟩

theorem witness_CompletedWritesPassTheirEvents :
    plant.phase ≠ .held ∧ (plant.ru.written = 2 ∧ (ordering [record2]).mc.records = [record2]) ∧
    plant.mc.records = record2 :: [imageOf false, table1, cueRead] ∧ plant.mem.wf = true ∧
    (∀ b : Bool, (ordering [imageOf b, table1]).mc.records = imageOf b :: [table1]) ∧
    ((ordering [table1]).mc.records = table1 :: [] ∧ (plant.window 1).table = some closing1) := by decide +kernel

/-- A begun write of two transactions at the head, a status write of one, and a scrub. -/
def begun : State := ordering [⟨.image 0, true, [⟨control, [1]⟩, ⟨control + 64, [2]⟩], []⟩]
def status1 : State := ordering [⟨.status .report, false, [⟨control, [1]⟩], []⟩]
def scrubbing : State := { inPhase .scrub with
  mc := { (inPhase .scrub).mc with scrubNext := some 16383 } }

theorem witness_RecordWritesKeepTheirOrder :
    plant.phase ≠ .held ∧
    (plant.mc.records = [] ++ record2 :: [imageOf false, table1, cueRead] ∧ record2.work = .event plant.ru.written .routine ∧
      (plant.completeItems 1).mc.records = [imageOf false, table1, cueRead] ++ posting2 :: []) ∧
    ((ordering [posting2]).mc.records = [] ++ posting2 :: [] ∧ posting2.work = .posting plant.ru.written .routine ∧
      ((ordering [posting2]).completeItems 1).mc.records = []) ∧
    (plant.mc.records = [record2] ++ imageOf false :: [table1, cueRead] ∧ (imageOf false).work = .image 0 ∧
      ∀ x ∈ [record2], ¬ (x.work = .image 0 ∨ x.work = .wholeImage 0)) ∧
    (plant.mc.records = [record2, imageOf false] ++ table1 :: [cueRead] ∧ table1.work = .meterTable 1 ∧
      ∀ x ∈ [record2, imageOf false], x.work ≠ .meterTable 1) ∧
    (ordering [cueRead]).mc.records = cueRead :: [] ∧
    begun.mc.records = ⟨.image 0, true, [⟨control, [1]⟩, ⟨control + 64, [2]⟩], []⟩ :: [] ∧
    status1.mc.records = ⟨.status .report, false, [⟨control, [1]⟩], []⟩ :: [] ∧
    (scrubbing.mc.records = [] ∧ scrubbing.mc.scrubNext = some 16383) := by decide +kernel

theorem witness_RecordWritesKeepTheirOrder_behind_ready :
    (inPhase .hostRecords).ru.written = 0 ∧
    (∀ it ∈ [event0, imageOf false, table1], (ending [readyItem, it]).phase = .hostRecords ∧
      (ending [readyItem, it]).mc.records = [readyItem] ++ it :: [] ∧ readyItem.work = .status .startWord ∧
      readyItem.isEvent = false ∧
      answers (ending [readyItem, it]) .passPortOpen (fun t => t.phase == .opened && t.mc.records == [it]) = true) := by
  decide +kernel

theorem test_eventRecordWritten_behind_ready_opens_the_port_first :
    answers (ending [readyItem, event0]) .eventRecordWritten (fun t =>
      t.phase == .opened && t.ru.written == 1 && t.mc.records == []) = true := by decide +kernel

theorem witness_TakeMarkAndMaskEvaluateAttn :
    let a (m : BitVec 10) := (m - plant.ru.takeMark).toNat
    let u := (plant.ru.written - plant.ru.takeMark).toNat
    a 0 = 0 ∧ (1 ≤ a 1 ∧ a 1 ≤ u) ∧ (1 ≤ a 2 ∧ a 2 ≤ u) ∧ u < a 3 := by decide +kernel

/-! ### Cues -/

/-- A raw record. -/
def rawOf (verb domain target : Byte) (due : Word) (now : Bool) : RawCue :=
  { verb := verb, now := now, report := true, domain := domain, target := target, tag := 7, due := due, arg0 := 0, arg1 := 0,
    arg2 := 0, arg3 := 0 }

theorem witness_CueTakeReadsOneRecord : plant.phase ≠ .held ∧ opened.cu.taking = false ∧ opened.phase ≠ .held ∧
    plant.cu.taking = true ∧ (ordering [cueRead]).mc.records = [cueRead] ∧
    (plant.mc.records = [record2, imageOf false, table1] ++ cueRead :: [] ∧
      (∀ x ∈ [record2, imageOf false, table1], x.work ≠ .cueRead) ∧
      (plant.completeItems 4).mc.records = [posting2] ++ cueMark :: [] ∧ posting2.work ≠ .cueMark) ∧
    ((∀ x ∈ (ordering []).mc.records, x.work ≠ .cueRead ∧ x.work ≠ .cueMark) ∧
      (ordering []).finishRead.cu.record = none) ∧
    ((ordering [cueMark]).mc.records = [] ++ cueMark :: [] ∧ cueMark.work = .cueMark ∧
      ∀ x ∈ (ordering [cueMark]).mc.records, x.work ≠ .cueRead) ∧
    plant.finishRead.cu.record = some (plant.cueRecord 0) := by decide +kernel

/-- A state with nothing asked of Record, whose turn is next, and what an owner's read of a stage entry leaves of it. -/
def calm (s : State) : State := { s with mc := { s.mc with records := [], lastOfThree := .stream } }
def readDone (s : State) : State := { s with mc := { s.mc with records := [], lastOfThree := .record } }

theorem calm_read {s : State} (h : (s.mc.refreshPending == 0 && s.urgentStream == none) = true) :
    (calm s).recordRead = readDone s := by
  simp only [Bool.and_eq_true, beq_iff_eq] at h
  exact State.recordRead_of_next rfl h.1 h.2 (.inl rfl)

/-- The answer's reason, where it is a refusal. -/
def reasonOf {α : Type} : Except Reason α → Option Reason
  | .error r => some r
  | .ok _ => none

theorem witness_AcceptanceChecksInOrder_of_the_engine :
    (rawOf 1 0 4 0 true).target.toNat = (4 : Fin 32).val ∧ (plant.streamStage 4).lane.toNat = (1 : Fin 8).val := by
  decide +kernel

theorem witness_AcceptanceChecksInOrder :
    (rawOf 0 0 0 0 true).verb = 0 ∧ 12 < (rawOf 13 0 0 0 true).verb.toNat ∧
    Verb.ofCode 1 = some .startStream ∧ Verb.ofCode 8 = some .laneCommand ∧ Verb.ofCode 12 = some .mark ∧
    plant.targetOk .startStream (rawOf 1 0 32 0 true) = false ∧ plant.targetOk .startStream (rawOf 1 0 31 0 true) = true ∧
    (plant.targetOk .mark (rawOf 12 4 0 0 true) = true ∧ domainOf (rawOf 12 4 0 0 true).domain = none) ∧
    (plant.targetOk .laneCommand (rawOf 8 1 1 0 true) = true ∧ domainOf (rawOf 8 1 1 0 true).domain = some 1 ∧
      plant.domainOk .laneCommand (rawOf 8 1 1 0 true) 1 = false) ∧
    plant.domainOk .mark (rawOf 12 3 0 0 true) 3 = true ∧
    (calm plant).recordRead.domainOk .startStream (rawOf 1 1 4 0 true) 1 = false ∧
    ((calm plant).recordRead.domainOk .startStream (rawOf 1 0 4 0 true) 0 = true ∧
      reasonOf ((calm plant).recordRead.engineAccepts (rawOf 1 0 4 0 true) 0 101) = none) ∧
    ((calm plant).recordRead.domainOk .startStream (rawOf 1 0 0 0 true) 0 = true ∧
      reasonOf ((calm plant).recordRead.engineAccepts (rawOf 1 0 0 0 true) 0 101) = some .wrongState) ∧
    (∀ r ∈ [Requester.record, .pass, .stream], (granted r).mc.records = [] ∧ (granted r).mc.refreshPending = 0 ∧
      (granted r).urgentStream = none ∧ (granted r).streamWork = none ∧ (granted r).pp.inHand = none) := by
  simp only [calm_read (s := plant) (by decide +kernel)]
  decide +kernel

/-- The placed form of a record at ring index 9. -/
def placedOf (d : Fin 4) (r : RawCue) (due origin : Word) : CueBody :=
  { index := 9, now := r.now, report := r.report, domain := d, target := r.target, tag := r.tag, due := due, origin := origin,
    arg0 := r.arg0, arg1 := r.arg1, arg2 := r.arg2, arg3 := r.arg3 }

/-- What the statement asks of the placed form `b` of a record. -/
abbrev placedRightly (s : State) (r : RawCue) (d : Fin 4) (b : CueBody) (isDue running : Bool) : Prop :=
  (isDue = true ↔ r.now = true ∨ ((s.domain d).count - r.due).toNat < 2147483648) ∧
    (running = true ↔ (s.domain d).run = .locked ∨ (s.domain d).run = .holdover) ∧
    (isDue = true → b.due = (s.domain d).count + 1) ∧ (isDue = false → b.due = r.due) ∧
    (r.now = true → running = true → b.origin = (s.domain d).count + 1) ∧
    (r.now = true → running = false → b.origin = (s.domain d).count) ∧ (r.now = false → b.origin = r.due)

theorem witness_AcceptedCueIsPlaced :
    placedRightly plant (rawOf 12 0 0 5 true) 0 (placedOf 0 (rawOf 12 0 0 5 true) 101 101) true true ∧
    placedRightly plant (rawOf 12 3 0 5 true) 3 (placedOf 3 (rawOf 12 3 0 5 true) 1 0) true false ∧
    placedRightly plant (rawOf 12 0 0 100 false) 0 (placedOf 0 (rawOf 12 0 0 100 false) 101 100) true true ∧
    placedRightly plant (rawOf 12 0 0 101 false) 0 (placedOf 0 (rawOf 12 0 0 101 false) 101 101) false true ∧
    placedRightly plant (rawOf 12 3 0 0x80000001 false) 3 (placedOf 3 (rawOf 12 3 0 0x80000001 false) 1 0x80000001) true false ∧
    placedRightly plant (rawOf 12 3 0 0x80000000 false) 3 (placedOf 3 (rawOf 12 3 0 0x80000000 false) 0x80000000 0x80000000)
      false false := by
  refine ⟨?_, ?_, ?_, ?_, ?_, ?_⟩ <;> refine ⟨?_, ?_, ?_, ?_, ?_, ?_, ?_⟩ <;> decide +kernel

/-- The owner's refusal, where it refuses. -/
def refusalOf : Machine.Outcome → Option Reason
  | .done _ => none
  | .refused _ r => some r

theorem refused_of {o : Machine.Outcome} {r : Reason} (h : refusalOf o = some r) : ∃ t, o = .refused t r := by
  cases o with
  | done t => cases h
  | refused t q => exact ⟨t, by cases h; rfl⟩

theorem witness_CuesAreAppliedWhole_of_rows :
    plant.phase ≠ .held ∧ plant.dueNow (bodyOf 0 0 100 0 0 0) ∧ (plant.domain 0).run ≠ .stopped ∧
    plant.dueNow (bodyOf 3 3 0 0 0 0) ∧ (plant.domain 3).run = .stopped := by decide +kernel

theorem witness_CuesAreAppliedWhole :
    plant.phase ≠ .held ∧ ¬ plant.dueNow (bodyOf 0 0 101 0 0 0) ∧ plant.dueNow (bodyOf 0 0 100 0 0 0) ∧
    plant.applicationCheck ⟨.laneCommand, bodyOf 1 1 50 0 0 0⟩ = false ∧
    (plant.applicationCheck ⟨.mark, bodyOf 0 0 100 0 0 0⟩ = true ∧
      plant.handOver ⟨.mark, bodyOf 0 0 100 0 0 0⟩ = .done plant) ∧
    (plant.applicationCheck ⟨.startStream, bodyOf 0 5 100 0 0 0⟩ = true ∧
      ∃ t, plant.handOver ⟨.startStream, bodyOf 0 5 100 0 0 0⟩ = .refused t .wrongState) ∧
    (bodyOf 0 0 100 0 0 0).report = true ∧ Verb.setRate ≠ Verb.mark ∧ (plant.domain 0).run ≠ .stopped ∧
    (plant.domain 3).run = .stopped ∧ Verb.mark ≠ Verb.stopStream ∧
    (plant.cu.list = [] ∧ listed.applicationCheck ⟨.stopStream, bodyOf 0 2 100 1 0 0⟩ = true ∧
      (listed.stream 2).state = .primed ∧ (listed.stream 2).start = some ⟨110, true⟩ ∧
      listed.cu.list = [⟨.mark, bodyOf 0 0 105 0 0 0⟩] ++ ⟨.startStream, bodyOf 0 2 110 0 0 0⟩ :: [] ∧
      ∀ x ∈ [(⟨.mark, bodyOf 0 0 105 0 0 0⟩ : Cue)], ¬ (x.verb = .startStream ∧ x.body.target.toNat = 2)) := by
  and_intros <;> first | decide +kernel | rfl | exact refused_of (by decide +kernel)

/-- Lane 1 with `n` command words queued. -/
def queuedWords (n : Nat) : State := plant.setLane 1 { lane1 with queue := List.replicate n 3 }

theorem witness_LaneCuesFollowTheirRules :
    (plant.phase ≠ .held ∧ plant.dueNow (bodyOf 0 1 100 9 0 0) ∧ (1 : Byte).toNat = (1 : Fin 8).val) ∧
    (((queuedWords 7).lane 1).domain = some 0 ∧ ((queuedWords 7).lane 1).state = .up ∧
      ((queuedWords 7).lane 1).queue.length < 8) ∧
    (((queuedWords 8).lane 1).domain = some 0 ∧ ((queuedWords 8).lane 1).state = .up ∧
      8 ≤ ((queuedWords 8).lane 1).queue.length) ∧
    ((plant.lane 3).domain = some 0 ∧ (plant.lane 3).state = .fault) ∧
    ((plant.lane 2).domain = some 0 ∧ (plant.lane 2).state = .training) ∧ (plant.lane 4).domain ≠ some 0 ∧
    plant.li.atBoundary = [] ∧ plant.applicationCheck ⟨.assignLane, bodyOf 3 7 0 3 0 0⟩ = true ∧
    (¬ ∃ i, (plant.stream i).state.active = true ∧ ∃ g, (plant.stream i).geom = some g ∧ g.lane = 7) ∧
    (plant.applicationCheck ⟨.assignLane, bodyOf 0 2 100 0xFFFFFFFF 0 0⟩ = true ∧ (plant.lane 2).state ≠ .idle ∧
      ¬ ∃ i, (plant.stream i).state.active = true ∧ ∃ g, (plant.stream i).geom = some g ∧ g.lane = 2) ∧
    (plant.applicationCheck ⟨.assignLane, bodyOf 0 7 100 0xFFFFFFFF 0 0⟩ = true ∧ (plant.lane 7).state = .idle) ∧
    (plant.applicationCheck ⟨.assignLane, bodyOf 0 1 100 3 0 0⟩ = true ∧ (bodyOf 0 1 100 3 0 0).arg0.toNat < 4 ∧
      ∃ i, (plant.stream i).state.active = true ∧ ∃ g, (plant.stream i).geom = some g ∧ g.lane = 1) := by decide +kernel

/-- The plant with fader 3 of port 0 touched. -/
def touched3 : State := plant.setPort 0 { port0 with faders := port0.faders.set 3 ⟨9, true, .inside⟩ }

theorem witness_MotorCuesDriveTheMotor :
    (plant.phase ≠ .held ∧ plant.dueNow (bodyOf 0 0 100 0 3 1023) ∧ (0 : Word).toNat = (0 : Fin 2).val ∧
      (3 : Word).toNat = (3 : Fin 16).val) ∧
    ((plant.port 0).up = true ∧ (3 : Fin 16).val < (plant.port 0).announced.faders) ∧
    (plant.port 0).motors[0].state = .held ∧ (plant.port 0).motors[2].state = .driven ∧
    ((touched3.port 0).motors[3].state = .free ∧ (touched3.port 0).faders[3].touched = true) ∧
    ((plant.port 0).motors[3].state = .free ∧ (plant.port 0).faders[3].touched = false) ∧ (plant.port 1).up = false ∧
    (plant.port 0).announced.faders ≤ (4 : Fin 16).val := by decide +kernel

/-- An output stage with divider 3. -/
def badOutput : State := { plant with
  mem := plant.mem.writeWord (control + 0x2460) 0x00030001 }

theorem witness_SetOutputFollowsItsTable :
    ((calm plant).phase ≠ .held ∧ (calm plant).dueNow (bodyOf 0 3 100 0 0 0) ∧ (3 : Byte).toNat = (3 : Fin 4).val) ∧
    (calm badOutput).recordRead.outputStage 2 = .invalid ∧ (calm plant).recordRead.outputStage 3 = .disable ∧
    (calm plant).recordRead.outputStage 0 = .settings ⟨true, 0, .x1⟩ ∧
    (plant.output 0).state = .off ∧ (plant.output 1).state = .waiting ∧
    ((plant.output 3).state = .running ∧ (plant.output 3).line = true) ∧
    ((plant.output 2).state = .running ∧ (plant.output 2).line = false) ∧
    ({ plant.output 3 with state := .ending } : WordOutput).state = .ending ∧
    (plant.output 2).settings = ⟨true, 0, .x1⟩ ∧ (⟨true, 0, .x2⟩ : OutputSettings) ≠ (plant.output 2).settings := by
  simp only [calm_read (s := plant) (by decide +kernel), calm_read (s := badOutput) (by decide +kernel)]
  decide +kernel

theorem witness_SetOutputFollowsItsTable_of_stages :
    let w (s : State) (o : Nat) : Word := s.mem.readWord (s.base + 0x2440 + 16 * o)
    (w plant 3).getLsbD 0 = false ∧
    ((w plant 0).getLsbD 0 = true ∧ ((w plant 0).extractLsb' 8 8).toNat = (0 : Fin 4).val ∧
      ((w plant 0).extractLsb' 16 8).toNat = Factor.x1.value) ∧
    ((w badOutput 2).getLsbD 0 = true ∧ ∀ k ∈ [Factor.x1, .x2, .x4], ((w badOutput 2).extractLsb' 16 8).toNat ≠ k.value) := by
  decide +kernel

/-! ### Streams -/

/-- A playback stage on lane 1. -/
def stageOf (first : Byte) (base : Word) : StreamStage :=
  { dir := 1, lane := 1, firstSlot := first, channels := 2, base := base, frames := 16, count := 2, policy := 1, late := 2,
    notify := true }

/-- Domain 0 before a change of rate. -/
def changing : State := plant.setDomain 0 { domain0 with rateChange := some ⟨.x2, 8⟩ }

theorem witness_StartAcceptanceChecksInOrder :
    (plant.stream 0).state ≠ .idle ∧ (plant.stream 4).state = .idle ∧
    (plant.streamStage 5).geometry plant.base 1 0 (plant.capacity 1) = none ∧
    (∀ x ∈ [(62, 0x5000), (0, 0x5000), (62, 0x3EFFF00), (62, 0x10C0)],
      (stageOf (BitVec.ofNat 8 x.1) (BitVec.ofNat 32 x.2)).geometry plant.base 1 0 (plant.capacity 1) =
        some (playGeometry x.1 x.2)) ∧
    ((stageOf 62 0x5000).geometry plant.base 2 0 (plant.capacity 2)).isSome = true ∧ (plant.lane 2).state ≠ .up ∧
    (plant.lane 1).state = .up ∧ changing.domain 0 = { domain0 with rateChange := some ⟨.x2, 8⟩ } ∧
    (∃ r, (changing.domain 0).rateChange = some r ∧ r.mult ≠ (changing.domain 0).mult) ∧
    (¬ ((∃ c, (plant.domain 0).candidate = some c ∧
        (c.family ≠ (plant.domain 0).family ∨ c.mult ≠ (plant.domain 0).mult)) ∨
      ∃ r, (plant.domain 0).rateChange = some r ∧ r.mult ≠ (plant.domain 0).mult)) ∧
    (∃ j : Fin 64, 0 ≤ j.val ∧ j.val < 2 ∧ (plant.slotMap .play 1)[j] ≠ none) ∧
    (¬ ∃ j : Fin 64, 62 ≤ j.val ∧ j.val < 64 ∧ (plant.slotMap .play 1)[j] ≠ none) ∧
    (∃ k e, plant.entry k = some e ∧ ∃ r ∈ e.rings, rangesOverlap 0x10C0 256 r.base r.bytes = true) ∧
    (¬ ∃ k e, plant.entry k = some e ∧ ∃ r ∈ e.rings, rangesOverlap 0x3EFFF00 256 r.base r.bytes = true) := by decide +kernel

/-- Stream 2 starved before its start. -/
def starvedPrimed : State := plant.setStream 2 { stream2 with starved := some ⟨0, 110⟩ }

/-- A PRIMED capture stream. -/
def primedCapture : State := plant.setStream 1 { stream1 with
  state := .primed, start := some ⟨98, true⟩, next := 98 }

theorem witness_StartStreamRunsThePrimedStream :
    plant.phase ≠ .held ∧ plant.dueNow (bodyOf 0 2 100 0 0 0) ∧ (2 : Byte).toNat = (2 : Fin 32).val ∧
    (plant.stream 2).geom = some (playGeometry 2 0x2000) ∧
    ((plant.stream 2).state = .primed ∧ (plant.stream 2).starved = none) ∧
    ((primedCapture.stream 1).state = .primed ∧
      (primedCapture.stream 1).geom = some (captureGeometry 1 0x3000 .dropNew)) ∧
    ((starvedPrimed.stream 2).state = .primed ∧ (starvedPrimed.stream 2).starved = some ⟨0, 110⟩) ∧
    ((plant.stream 3).state = .halted ∧ (plant.stream 3).geom = some (captureGeometry 3 0x4000 .reclaim)) ∧
    (∀ i ∈ [(0 : Fin 32), 5], (plant.stream i).state ≠ .primed ∧ (plant.stream i).state ≠ .halted) ∧
    (plant.stream 5).geom = none := by decide +kernel

/-- Stream 0 in a state of its own, and stream 1 with a stop pending. -/
def stream0As (x : StreamState) : State := plant.setStream 0 { stream0 with state := x }
def stopping : State := plant.setStream 1 { stream1 with stop := some ⟨.now, 99⟩ }

/-- Stream 0 at frame `n` of its period. -/
def fetchingAt (n : Nat) : State := plant.setStream 0 { stream0 with frame := n }

/-- Lane 1 with frame `f` of a period staged in place `k`. -/
def staged (k : Fin 4) (f : Nat) : State := plant.setLane 1 { lane1 with
  outbound := lane1.outbound.set k { OutPlace.empty with carries := [⟨0, 0x1000, 0, f, 16⟩] } }

theorem witness_StopStreamFollowsItsTable :
    (plant.phase ≠ .held ∧ plant.dueNow (bodyOf 0 5 100 1 0 0) ∧ (5 : Byte).toNat = (5 : Fin 32).val ∧
      (plant.stream 5).state = .idle) ∧
    ((plant.stream 2).geom = some (playGeometry 2 0x2000) ∧ (playGeometry 2 0x2000).domain = 0 ∧
      (plant.stream 2).state = .primed) ∧
    ((plant.stream 3).geom = some (captureGeometry 3 0x4000 .reclaim) ∧ (plant.stream 3).state = .halted) ∧
    ((stream0As .starved).stream 0).state = .starved ∧
    ((plant.stream 0).state = .running ∧ (plant.stream 0).geom = some (playGeometry 0 0x1000)) ∧
    ((plant.stream 1).state = .running ∧ (plant.stream 1).geom = some (captureGeometry 1 0x3000 .dropNew) ∧
      (plant.stream 1).stop = none) ∧
    ((stopping.stream 1).state = .running ∧ (stopping.stream 1).stop ≠ none) := by decide +kernel

theorem witness_StopStreamFollowsItsTable_of_last_frames :
    (∀ k : Fin 4, ∀ f ∈ [2, 3, 15], ((staged k f).lane 1).outbound[placeOf (100 + BitVec.ofNat 32 k.val)].carries.find?
        (fun r => r.stream == 0) = some ⟨0, 0x1000, 0, f, 16⟩ ∧
      ∀ m < k, ((staged k f).lane 1).outbound[placeOf (100 + BitVec.ofNat 32 m.val)].carries = []) ∧
    (playGeometry 0 0x1000).policy = .keepTime ∧ (1 : Fin 8) ∉ (staged 3 2).li.atBoundary ∧
    ((∀ k : Fin 4, ∀ r ∈ (plant.lane 1).outbound[k].carries, r.stream ≠ 0) ∧
      (102 - (plant.stream 0).next).toNat < 2147483648 ∧ 2147483648 ≤ (100 - (plant.stream 0).next).toNat ∧
      (plant.stream 0).frame < ((plant.stream 0).next - 100).toNat ∧
      ¬ ((fetchingAt 2).stream 0).frame < (((fetchingAt 2).stream 0).next - 100).toNat) ∧
    ((100 - (plant.stream 1).next).toNat < 2147483648 ∧ ((plant.stream 1).next - (plant.stream 1).next).toNat < 2147483648) ∧
    ((listed.stream 2).state = .primed ∧ (listed.stream 2).start = some ⟨110, true⟩ ∧
      listed.cu.list = [⟨.mark, bodyOf 0 0 105 0 0 0⟩] ++ ⟨.startStream, bodyOf 0 2 110 0 0 0⟩ :: [] ∧
      (2 : Byte).toNat = (2 : Fin 32).val ∧
      ∀ x ∈ [(⟨.mark, bodyOf 0 0 105 0 0 0⟩ : Cue)], ¬ (x.verb = .startStream ∧ x.body.target.toNat = 2)) ∧
    (plant.stream 0).start = none ∧ (plant.stream 0).state ≠ .primed ∧ (plant.stream 0).state ≠ .halted ∧
    ((plant.stream 0).geom = some (playGeometry 0 0x1000) ∧ (1 : Fin 8) ∉ plant.li.atBoundary ∧
      ((101 - 100 : Word).toNat < 2 ∧ ¬ (101 - 100 : Word).toNat < 1) ∧ ¬ (99 - 100 : Word).toNat < 3) := by
  decide +kernel

theorem witness_StreamsLeaveAsRuled :
    (plant.stream 0).geom = some (playGeometry 0 0x1000) ∧
    ((plant.stream 3).geom = some (captureGeometry 3 0x4000 .reclaim) ∧ (plant.stream 3).state = .halted) ∧
    (plant.stream 0).state ≠ .idle ∧ (plant.stream 0).state ≠ .halted := by decide +kernel

/-- Stream 0's stage with another base, stream 0 with a swap pending, and its entry with a retiring ring. -/
def stagedAt (base : Word) : State := { plant with
  mem := plant.mem.writeWord (control + 0x2004) base }
def swapping : State := (plant.setStream 0 { stream0 with swap := some ⟨0x6000, 16, 2⟩, period := 1, frame := 15 }).setEntry 0
  (some { entryOf .play 0x1000 .filled .empty with pendingRing := some (ringOf 0x6000 .empty .empty) })
def retiring : State := plant.setEntry 0
  (some { entryOf .play 0x1000 .filled .empty with retiring := some (ringOf 0x6000 .playing .empty) })

/-- The stage entry of stream `i` as SWAP_RING reads it. -/
abbrev stageRead (s : State) (i : Fin 32) : StreamStage := (calm s).recordRead.streamStage i

/-- The staged geometry fits stream 0's. -/
abbrev sameGeometry (y : StreamStage) : Prop :=
  y.dir = 1 ∧ y.lane.toNat = 1 ∧ y.firstSlot.toNat = 0 ∧ y.channels.toNat = 2 ∧ 16 ≤ y.frames.toNat ∧
    y.frames.toNat ≤ 4096 ∧ y.frames.toNat % 16 = 0 ∧ 2 ≤ y.count.toNat ∧ y.count.toNat ≤ 16

theorem witness_SwapsAreMadeAtTheWrap :
    ((calm plant).phase ≠ .held ∧ (calm plant).dueNow (bodyOf 0 0 100 0 0 0) ∧
      ((calm plant).recordRead.stream 5).geom = none) ∧
    (∀ i ∈ [(0 : Byte), 1, 2, 5], (calm plant).applicationCheck ⟨.swapRing, bodyOf 0 i 100 0 0 0⟩ = true) ∧
    (((calm plant).recordRead.stream 0).geom = some (playGeometry 0 0x1000) ∧ ((calm plant).recordRead.entry 0).isSome = true ∧
      ((calm plant).recordRead.stream 0).state = .running ∧ ((calm plant).recordRead.stream 0).stop = none ∧
      ((calm plant).recordRead.stream 0).swap = none) ∧
    ((calm plant).recordRead.stream 2).state = .primed ∧ ((calm swapping).recordRead.stream 0).swap ≠ none ∧
    (((calm plant).recordRead.stream 1).state = .running ∧ (stageRead plant 1).dir ≠ 2) ∧
    (sameGeometry (stageRead retiring 0) ∧ ((calm retiring).recordRead.entry 0).any (·.retiring.isSome) = true) ∧
    (sameGeometry (stageRead (stagedAt 0x6020) 0) ∧ ¬ (stageRead (stagedAt 0x6020) 0).base.toNat % 64 = 0) ∧
    (sameGeometry (stageRead (stagedAt 0x3EFFF40) 0) ∧
      ¬ (stageRead (stagedAt 0x3EFFF40) 0).base.toNat + 256 ≤ (stagedAt 0x3EFFF40).base) ∧
    (sameGeometry (stageRead (stagedAt 0x3EFFF00) 0) ∧
      (stageRead (stagedAt 0x3EFFF00) 0).base.toNat + 256 ≤ (stagedAt 0x3EFFF00).base) ∧
    (15 ≤ (swapping.stream 0).frame ∧ 2 ≤ (swapping.stream 0).period + 1 ∧
      (swapping.stream 0).swap = some ⟨0x6000, 16, 2⟩ ∧
      (swapping.entry 0).map (·.pendingRing) = some (some (ringOf 0x6000 .empty .empty))) := by
  simp only [stageRead, calm_read (s := plant) (by decide +kernel), calm_read (s := swapping) (by decide +kernel),
    calm_read (s := retiring) (by decide +kernel), calm_read (s := stagedAt 0x6020) (by decide +kernel),
    calm_read (s := stagedAt 0x3EFFF40) (by decide +kernel), calm_read (s := stagedAt 0x3EFFF00) (by decide +kernel)]
  and_intros <;> decide +kernel

theorem witness_SwapsAreMadeAtTheWrap_of_overlaps :
    (∃ j f, (calm plant).recordRead.entry j = some f ∧ ∃ r ∈ f.rings, rangesOverlap 0x30C0 256 r.base r.bytes = true) ∧
    (¬ ∃ j f, (calm plant).recordRead.entry j = some f ∧ ∃ r ∈ f.rings, rangesOverlap 0x3EFFF00 256 r.base r.bytes = true) := by
  simp only [calm_read (s := plant) (by decide +kernel)]
  decide +kernel

theorem witness_EngineWorkKeepsTheRest : (plant.stream 1).geom = some (captureGeometry 1 0x3000 .dropNew) ∧
    plant.mem.wf = true ∧ (plant.stream 5).geom = none ∧ (plant.fetchReady 0 = true ∧ plant.storeReady 1 = true) ∧
    (plant.fetchReady 1 = false ∧ plant.storeReady 0 = false) := by decide +kernel

theorem witness_FetchPlacesTheFrame_of_last_frames :
    (∀ s ∈ [fetchingAt 0, fetchingAt 15, swapping], s.phase ≠ .held ∧ (s.stream 0).geom = some (playGeometry 0 0x1000) ∧
      s.fetchIsNext 0 (playGeometry 0 0x1000) ∧ (s.stream 0).starved = none ∧ (s.entry 0).isSome = true ∧
      (s.entry 0).all (fun e => (e.current.period (s.stream 0).period).isSome) = true ∧ (s.stream 0).stamp = none) ∧
    (entryOf .play 0x1000 .filled .empty).current.period ((fetchingAt 0).stream 0).period = some ⟨.filled, false⟩ ∧
    ((fetchingAt 15).stream 0).frame + 1 = 16 := by decide +kernel

theorem witness_FetchPlacesTheFrame :
    ∀ n ∈ [0, 14], (fetchingAt n).phase ≠ .held ∧ ((fetchingAt n).stream 0).geom = some (playGeometry 0 0x1000) ∧
      (fetchingAt n).fetchIsNext 0 (playGeometry 0 0x1000) ∧ ((fetchingAt n).stream 0).starved = none ∧
      (fetchingAt n).entry 0 = some (entryOf .play 0x1000 .filled .empty) ∧
      (ringOf 0x1000 .filled .empty).period ((fetchingAt n).stream 0).period = some ⟨.filled, false⟩ ∧ 0 + 2 ≤ 64 ∧ 1 ≤ 2 ∧
      ((fetchingAt n).stream 0).frame + 1 < 16 := by decide +kernel

/-- Stream 0 at the start of an EMPTY period, under a policy and in a state. -/
def unfilled (p : StreamPolicy) (x : StreamState) : State :=
  (plant.setStream 0 { stream0 with geom := some { playGeometry 0 0x1000 with policy := p }, state := x }).setEntry 0
    (some (entryOf .play 0x1000 .empty .empty))

/-- A STARVED stream 0 before a period in state `p`. -/
def starving (resume : Bool) (p : PeriodState) : State :=
  (plant.setStream 0 { stream0 with state := .starved, starved := some ⟨1, 101⟩, resumeMark := resume }).setEntry 0
    (some (entryOf .play 0x1000 p .empty))

theorem witness_StarvedStreamsSpendAndResume :
    (∀ p ∈ [StreamPolicy.keepTime, .keepData], ∀ x ∈ [StreamState.running, .primed],
      (unfilled p x).phase ≠ .held ∧ ((unfilled p x).stream 0).geom = some { playGeometry 0 0x1000 with policy := p } ∧
      (unfilled p x).fetchIsNext 0 { playGeometry 0 0x1000 with policy := p } ∧
      ((unfilled p x).stream 0).starved = none ∧ ((unfilled p x).stream 0).frame = 0 ∧
      (unfilled p x).entry 0 = some (entryOf .play 0x1000 .empty .empty) ∧
      (ringOf 0x1000 .empty .empty).period ((unfilled p x).stream 0).period = some ⟨.empty, false⟩ ∧
      ((unfilled p x).stream 0).state = x) ∧
    (∀ b : Bool, ∀ p ∈ [PeriodState.filled, .empty],
      ((starving b p).stream 0).geom = some (playGeometry 0 0x1000) ∧ ((starving b p).stream 0).starved = some ⟨1, 101⟩ ∧
      (starving b p).entry 0 = some (entryOf .play 0x1000 p .empty) ∧
      (ringOf 0x1000 p .empty).period ((starving b p).stream 0).period = some ⟨p, false⟩ ∧
      ((starving b p).stream 0).resumeMark = b ∧ ((starving b p).stream 0).crossed = false ∧
      ((starving b p).stream 0).state = .starved) := by decide +kernel

/-- Stream 0 starved and still PRIMED, before a period in state `p`. -/
def primedStarving (p : PeriodState) : State :=
  (plant.setStream 0 { stream0 with state := .primed, starved := some ⟨1, 101⟩, crossed := true }).setEntry 0
    (some (entryOf .play 0x1000 p .empty))

theorem witness_StarvedStreamsSpendAndResume_of_primed_streams :
    ∀ p ∈ [PeriodState.filled, .playing], ((primedStarving p).stream 0).geom = some (playGeometry 0 0x1000) ∧
      ((primedStarving p).stream 0).starved = some ⟨1, 101⟩ ∧
      (primedStarving p).entry 0 = some (entryOf .play 0x1000 p .empty) ∧
      (ringOf 0x1000 p .empty).period ((primedStarving p).stream 0).period = some ⟨p, false⟩ ∧
      ((primedStarving p).stream 0).crossed = true ∧ ((primedStarving p).stream 0).state = .primed ∧
      ((starving true p).stream 0).state = .starved ∧ ((starving true p).stream 0).resumeMark = true := by decide +kernel

theorem witness_StarvedStreamsSpendAndResume_of_fetches :
    (∀ s ∈ [primedStarving .filled, starving true .filled, starving true .empty, starving false .filled],
      s.phase ≠ .held ∧ (s.stream 0).geom = some (playGeometry 0 0x1000) ∧ s.fetchIsNext 0 (playGeometry 0 0x1000) ∧
      (s.stream 0).starved = some ⟨1, 101⟩) ∧
    (∀ s ∈ [primedStarving .filled, starving true .filled], ((s.serveStream 0 .outbound).fetchBegin 0).2 = true) ∧
    ∀ s ∈ [starving true .empty, starving false .filled], ((s.serveStream 0 .outbound).fetchBegin 0).2 = false := by
  and_intros <;> decide +kernel

theorem test_streamFetch_resumes_a_primed_stream_unreported :
    answers (primedStarving .filled) (.streamFetch 0) (fun t => (t.stream 0).state == .primed &&
      (t.stream 0).starved == none && (t.stream 0).frame == 1 && t.ru.postMark == plant.ru.postMark) = true := by decide +kernel

/-- Stream 1 at frame `n` of a period in state `p`, under a policy. -/
def storingAt (n : Nat) (p : PeriodState) (y : StreamPolicy) : State :=
  (plant.setStream 1 { stream1 with geom := some (captureGeometry 1 0x3000 y), frame := n }).setEntry 1
    (some (entryOf .capture 0x3000 p .free))

theorem witness_StoreWritesTheFrame :
    (∀ x ∈ [(14, PeriodState.filling, StreamPolicy.dropNew), (0, .free, .dropNew), (0, .ready, .reclaim),
        (0, .ready, .dropNew)],
      let s := storingAt x.1 x.2.1 x.2.2
      let f : InboundFrame := ⟨98, .good (List.replicate 64 0x500)⟩
      s.phase ≠ .held ∧ (s.stream 1).geom = some (captureGeometry 1 0x3000 x.2.2) ∧
      s.storeIsNext 1 (captureGeometry 1 0x3000 x.2.2) f ∧ (s.stream 1).next = f.number ∧ (s.stream 1).stop = none ∧
      s.entry 1 = some (entryOf .capture 0x3000 x.2.1 .free) ∧
      (ringOf 0x3000 x.2.1 .free).period (s.stream 1).period = some ⟨x.2.1, false⟩ ∧
      (entryOf .capture 0x3000 x.2.1 .free).retiring = none ∧ (s.stream 1).state = .running ∧
      (s.stream 1).frame = x.1 ∧ x.1 + 1 < 16 ∧ (s.lane 1).inbound = [f]) ∧
    (plant.entry 3 = some (entryOf .capture 0x4000 .filling .free) ∧
      (ringOf 0x4000 .filling .free).period 0 = some ⟨.filling, false⟩ ∧
      (ringOf 0x4000 .filling .free).period 1 = some ⟨.free, false⟩) ∧
    ((playing false .land).entry 0).map (fun e => (e.current.period 0, e.retiring)) =
      some (some ⟨.playing, false⟩, none) := by decide +kernel

/-- Stream 1 in a state, at frame `n` of a period in state `p`. -/
def takingAs (x : StreamState) (n : Nat) (p : PeriodState) : State :=
  (storingAt n p .dropNew).setStream 1 { (storingAt n p .dropNew).stream 1 with state := x }

theorem witness_StoreWritesTheFrame_of_every_state :
    (∀ s ∈ [storingAt 15 .filling .dropNew, takingAs .primed 0 .free, takingAs .primed 0 .ready],
      s.phase ≠ .held ∧ (s.stream 1).geom = some (captureGeometry 1 0x3000 .dropNew) ∧
      s.storeIsNext 1 (captureGeometry 1 0x3000 .dropNew) ⟨98, .good (List.replicate 64 0x500)⟩) ∧
    (∀ n ∈ [0, 14], ∀ p ∈ [PeriodState.free, .filling, .ready], ((takingAs .overflowing n p).stream 1).state = .overflowing ∧
      ((takingAs .overflowing n p).stream 1).frame = n ∧
      ((takingAs .overflowing n p).entry 1) = some (entryOf .capture 0x3000 p .free) ∧
      (ringOf 0x3000 p .free).period ((takingAs .overflowing n p).stream 1).period = some ⟨p, false⟩) ∧
    (∀ s ∈ [stopping], (s.stream 1).stop = some ⟨.now, 99⟩) ∧
    ((retiring.entry 0).map (fun e => (e.current.base, e.retiring.map (fun r => (r.base, r.period 0)))) =
      some (0x1000, some (0x6000, some ⟨.playing, false⟩))) := by decide +kernel

theorem test_played_claim_releases_the_retiring_ring :
    ((retiring.playedClaim 0 0x6000 0).entry 0).map (·.retiring) = some none := by decide +kernel

theorem test_streamStore_at_the_end_of_a_period :
    answers (storingAt 15 .filling .dropNew) (.streamStore 1) (fun t => (t.stream 1).period == 1 && (t.stream 1).frame == 0 &&
      periodsOf t 1 == [.ready, .free]) = true := by decide +kernel

/-- The plant with pending refreshes, a requester last granted, and stream 0's next frame. -/
def pointOf (n : Nat) (r : Requester) (next : Word) : State :=
  { plant.setStream 0 { stream0 with next := next } with mc := { plant.mc with refreshPending := n, lastOfThree := r } }

theorem witness_ArbitrationFollowsItsOrder :
    plant.phase ≠ .held ∧ 4 ≤ (pointOf 4 .pass 102).mc.refreshPending ∧
    ((pointOf 3 .pass 101).mc.refreshPending < 4 ∧ (pointOf 3 .pass 101).urgentStream = some (1, .outbound)) ∧
    (∀ n ∈ [1, 3], 1 ≤ (pointOf n .pass 102).mc.refreshPending ∧ (pointOf n .pass 102).mc.refreshPending < 4 ∧
      (pointOf n .pass 102).urgentStream = none) ∧
    (∀ r ∈ [Requester.record, .pass, .stream], (pointOf 0 r 102).mc.refreshPending = 0 ∧
      (pointOf 0 r 102).urgentStream = none ∧ (pointOf 0 r 102).mc.lastOfThree = r) ∧
    (plant.phase ≠ .records ∧ plant.phase ≠ .hostRecords) ∧
    ((ending [report0, readyItem]).phase = .hostRecords ∧
      ((ending [report0, readyItem]).arbitrate.mc.records).map (·.work) = [.status .startWord] ∧
      (ending [readyItem, event0]).arbitrate.mc.records = [event0] ∧ event0.work ≠ .status .startWord) ∧
    (plant.mc.refreshTimer = some 999500 ∧ 999500 + 780 ≤ plant.mclk + 280 ∧ plant.mclk + 279 < 999500 + 780) := by
  decide +kernel

theorem witness_ArbitrationFollowsItsOrder_for_lanes :
    ((plant.stream 0).geom = some (playGeometry 0 0x1000) ∧ plant.mayFetch 0 = true ∧ plant.fetchInOrder 0 = true) ∧
    plant.laneWork 1 .outbound 0 ∧ (plant.laneWork 1 .inbound 1 ∧ ∀ j < (1 : Fin 32), ¬ plant.laneWork 1 .inbound j) := by
  refine ⟨by decide +kernel, ⟨playGeometry 0 0x1000, by decide +kernel⟩,
    ⟨captureGeometry 1 0x3000 .dropNew, by decide +kernel, by decide +kernel, by decide +kernel,
      ⟨98, .good (List.replicate 64 0x500)⟩, by decide +kernel⟩, fun j hj => ?_⟩
  obtain rfl : j = 0 := by omega
  rintro ⟨g, hg, -, hd, -⟩
  have : (plant.stream 0).geom = some (playGeometry 0 0x1000) := by decide +kernel
  rw [this] at hg
  cases hg
  cases hd

/-! ### Clocks -/

/-- Domain 3's stage with a source and a fallback, and domain 0's with the rate in force. -/
def sourced (source fallback : Nat) : State := { plant with
  mem := (plant.mem.writeWord (control + 0x2430) (BitVec.ofNat 32 (source + 256 * fallback + 0x01020000))).writeWord
    (control + 0x2400) 0x01020002 }

/-- The stage entry of domain `d`, and its record, as a cue of the Clock Block finds them. -/
abbrev clockRead (s : State) (d : Fin 4) : DomainStage := (calm s).recordRead.domainStage d
abbrev domainRead (s : State) (d : Fin 4) : Domain := (calm s).recordRead.domain d

/-- A domain with a candidate on a source, in a phase. -/
def waiting (d : Fin 4) (x : Domain) (source : Source) (ph : CandidatePhase) : State :=
  plant.setDomain d { x with candidate := some { settling 200000 with source := source, phase := ph } }

/-- The candidate that a stage of family 48, multiplier 1, selector 0 and exponent 8 gives. -/
def given (source : Source) (fallback : Option Source) : Candidate :=
  { source := source, family := .f48, mult := .x1, tickExp := 8, settle := 0, fallback := fallback, origin := .switch,
    phase := .starting, windowStart := none, latest := none }

theorem witness_SwitchReferenceCreatesACandidate :
    ((calm plant).phase ≠ .held ∧ (calm plant).dueNow (bodyOf 3 3 0 0 0 0) ∧ (3 : Byte).toNat = (3 : Fin 4).val) ∧
    (domainRead (waiting 3 Domain.powerOn .int48 .settling) 3).candidate ≠ none ∧
    ((domainRead plant 1).candidate = none ∧ (clockRead plant 1).candidate = none) ∧
    ((domainRead plant 3).candidate = none ∧ (clockRead plant 3).candidate = some (given .int48 none)) ∧
    ((clockRead plant 0).candidate = some { given .int48 none with mult := .x2 } ∧
      (domainRead plant 0).mult ≠ .x2 ∧ ∃ i, (calm plant).recordRead.isStreamOf 0 i = true) ∧
    ((clockRead (sourced 2 0) 0).candidate = some (given .int48 none) ∧ (domainRead (sourced 2 0) 0).run = .locked ∧
      (domainRead (sourced 2 0) 0).ref = some .int48) ∧
    (¬ (domainRead plant 3).run = .locked ∧ (calm plant).recordRead.osc .int48 = .running) ∧
    ((calm { plant with cb := { plant.cb with osc48 := .off } }).recordRead.osc .int48 ≠ .running) ∧
    ((clockRead (sourced 3 2) 3).candidate = some (given .wci0 (some .int48)) ∧
      ((calm (sourced 3 2)).recordRead.input 0).present = true) ∧
    ((clockRead (sourced 4 0) 3).candidate = some (given .wci1 none) ∧
      ((calm (sourced 4 0)).recordRead.input 1).present = false) := by
  simp only [clockRead, domainRead, State.recordRead_domain, State.recordRead_osc,
    calm_read (s := plant) (by decide +kernel), calm_read (s := sourced 2 0) (by decide +kernel),
    calm_read (s := sourced 3 2) (by decide +kernel), calm_read (s := sourced 4 0) (by decide +kernel)]
  decide +kernel

theorem witness_SwitchReferenceCreatesACandidate_wherever :
    (plant.osc .int48 = .running ∧ plant.osc .int44 ≠ .running ∧ (plant.input 0).present = true ∧
      (plant.input 1).present = false) ∧
    (∀ x ∈ [(Source.int44, Osc.int44), (.int48, .int48)], (given x.1 none).source = (match x.2 with | .int44 => .int44 | .int48 => .int48)) ∧
    (∀ w : Fin 2, (given (if w = 0 then .wci0 else .wci1) none).source = (if w = 0 then .wci0 else .wci1)) ∧
    (plant.domain 0).candidate = none ∧
    ((waiting 0 domain0 .int48 .settling).domain 0).candidate = some (settling 200000) ∧
    (plant.isStreamOf 0 0 = true ∧ plant.isStreamOf 0 5 = false) := by decide +kernel

/-- No stream on any domain, and domain `d`'s stage with a multiplier. -/
def streamless (d : Fin 4) (mult : Nat) : State := { plant with
  se := StreamEngine.powerOn,
  mem := (plant.mem.writeWord (control + 0x2400 + 16 * d.val) (BitVec.ofNat 32 (0x1000000 * mult))).writeWord
    (control + 0x2404 + 16 * d.val) 0x0800 }

/-- Domain 0 with a SET_RATE waiting. -/
def rated (m : Factor) : State := plant.setDomain 0 { domain0 with rateChange := some ⟨m, 9⟩ }

theorem witness_RateChangesFollowTheirTable :
    ((calm plant).phase ≠ .held ∧ (calm plant).dueNow (bodyOf 0 0 100 0 0 0) ∧ (0 : Byte).toNat = (0 : Fin 4).val) ∧
    (domainRead (waiting 0 domain0 .int48 .settling) 0).candidate ≠ none ∧
    (∀ m ∈ [Factor.x1, .x2, .x4], ¬ ((clockRead plant 1).mult = 1 ∧ m = .x1 ∨ (clockRead plant 1).mult = 2 ∧ m = .x2 ∨
      (clockRead plant 1).mult = 4 ∧ m = .x4)) ∧
    ((clockRead plant 0).mult = 2 ∧ (clockRead plant 0).tickExp.toNat = 8 ∧
      ∃ i, (calm plant).recordRead.isStreamOf 0 i = true) ∧
    ((calm (streamless 0 1)).recordRead.streamsOf 0 = [] ∧ (clockRead (streamless 0 1) 0).mult = 1) ∧
    ((calm (streamless 0 2)).recordRead.streamsOf 0 = [] ∧ (clockRead (streamless 0 2) 0).mult = 2) ∧
    ((calm (streamless 1 2)).recordRead.streamsOf 1 = [] ∧ (clockRead (streamless 1 2) 1).mult = 2) ∧
    ((calm (streamless 3 2)).recordRead.streamsOf 3 = [] ∧ (clockRead (streamless 3 2) 3).mult = 2) ∧
    ((domainRead (streamless 1 2) 1).run = .locked ∧ (domainRead (streamless 1 2) 1).ref = some .wci0 ∧
      (domainRead (streamless 1 2) 1).mult = .x1) ∧
    ((domainRead (streamless 0 1) 0).mult = .x1 ∧ (domainRead (streamless 0 1) 0).tickExp = 8) ∧
    ((domainRead (streamless 0 2) 0).run = .locked ∧ (domainRead (streamless 0 2) 0).ref = some .int48) ∧
    (domainRead (streamless 3 2) 3).run = .stopped ∧
    (plant.domain 0).rateChange = none ∧
    (((rated .x1).domain 0).rateChange = some ⟨.x1, 9⟩ ∧ ((rated .x1).domain 0).mult = .x1) ∧
    (((rated .x2).domain 0).rateChange = some ⟨.x2, 9⟩ ∧ ((rated .x2).domain 0).mult ≠ .x2 ∧
      ((rated .x2).lane 1).domain = some 0) ∧
    (plant.domain 0).candidate = none ∧
    (∀ x ∈ [Source.int48, .wci0], ((waiting 0 domain0 x .passed).domain 0).candidate =
      some { settling 200000 with source := x, phase := .passed }) := by
  simp only [clockRead, domainRead, State.recordRead_domain, calm_read (s := plant) (by decide +kernel),
    calm_read (s := streamless 0 1) (by decide +kernel), calm_read (s := streamless 0 2) (by decide +kernel),
    calm_read (s := streamless 1 2) (by decide +kernel), calm_read (s := streamless 3 2) (by decide +kernel)]
  and_intros <;> decide +kernel

/-- Domain 0 with a PASSED candidate of a multiplier. -/
def passed (m : Factor) : State := plant.setDomain 0 { domain0 with
  candidate := some { settling 200000 with phase := .passed, mult := m } }

theorem witness_RateChangesFollowTheirTable_of_switches :
    (∀ m ∈ [Factor.x1, .x2], ((passed m).domain 0).candidate = some { settling 200000 with phase := .passed, mult := m }) ∧
    (¬ ((settling 200000).family ≠ domain0.family ∨ Factor.x1 ≠ domain0.mult) ∧ Factor.x2 ≠ domain0.mult) ∧
    plant.lanesNumbered 0 = [1, 2, 3] := by decide +kernel

theorem test_stopDomain_ends_the_outputs_after_the_candidate :
    answers ((streamless 0 1).setDomain 0 { domain0 with candidate := some (settling 200000) })
      (.stopDomain (bodyOf 0 0 100 0 0 0) 0) (fun t => (t.output 3).state == .ending && (t.output 2).state == .waiting &&
        (t.lane 1).state == .training && (newEvents t).map (·.1) == [18, 13]) = true := by decide +kernel

theorem witness_StopDomainStopsTheDomain :
    (plant.phase ≠ .held ∧ plant.dueNow (bodyOf 0 0 100 0 0 0) ∧ (bodyOf 0 0 100 0 0 0).domain = 0) ∧
    (∃ i, plant.isStreamOf 0 i = true ∧ (plant.stream i).state.active = true) ∧
    (∀ d : Fin 4, ¬ ∃ i, (streamless 0 1).isStreamOf d i = true ∧ ((streamless 0 1).stream i).state.active = true) ∧
    (plant.domain 3).run = .stopped ∧ (plant.domain 3).candidate = none ∧ (plant.domain 0).run ≠ .stopped ∧
    (∀ d ∈ [(0 : Fin 4), 3], ((waiting d (plant.domain d) .int48 .settling).domain d).candidate = some (settling 200000)) := by
  decide +kernel

/-- A word clock candidate, measured or not. -/
def measuredAs (d : Fin 4) (x : Domain) (m : Option Nat) : State :=
  plant.setDomain d { x with candidate := some { settling 200000 with source := .wci0, latest := m } }

theorem witness_CandidatesQualifyInTime :
    (plant.phase ≠ .held ∧ (plant.setOsc .int44 (.starting 0)).osc .int44 = .starting 0 ∧ 0 + 2000000 ≤ plant.mclk + 1000000 ∧
      plant.mclk + 999999 < 0 + 2000000) ∧
    (∀ d ∈ [(0 : Fin 4), 3], ((waiting d (plant.domain d) .int48 .settling).domain d).candidate = some (settling 200000) ∧
      (settling 200000).phase = .settling ∧ (settling 200000).windowStart = some 200000) ∧
    (200000 + 800000 * 2 ^ 0 ≤ plant.mclk + 0 ∧ ({ plant with mclk := 999999 } : State).mclk + 0 < 200000 + 800000 * 2 ^ 0) ∧
    ((plant.domain 0).run ≠ .stopped ∧ (plant.domain 3).run = .stopped) ∧
    (∀ m ∈ [none, some 133333], ((measuredAs 3 Domain.powerOn m).domain 3).candidate =
      some { settling 200000 with source := .wci0, latest := m }) := by decide +kernel

/-- Input 0 at the last edge of its block, of a length `m` if the next edge comes now. -/
def lastOfBlock (m : Nat) : State := plant.setInput 0 { input0 with blockEdges := 63, blockStart := 1000000 - m }

/-- Domain 1 in its first frame after a switch at `t`. -/
def firstFrame (t : Nat) : State := plant.setDomain 1 { domain1 with afterSwitch := some t }

theorem witness_RisingEdgesAreJudged :
    plant.phase ≠ .held ∧ (plant.input 1).present = false ∧
    ((plant.input 0).present = true ∧ plant.mclk + 8000 ≤ (plant.input 0).lastEdge + 10000 ∧
      (plant.input 0).blockEdges + 1 < 64) ∧
    (∀ d, (plant.domain d).ref = some .wci0 → (plant.domain d).edgeOwed = false ∧ (plant.domain d).afterSwitch = none) ∧
    ((plant.domain 1).run = .locked ∧ (plant.domain 1).ref = some .wci0 ∧ (owing.domain 1).edgeOwed = true) ∧
    (((firstFrame 998959).domain 1).afterSwitch = some 998959 ∧ 2 * rateOf .f48 .x1 * (1000000 - 998959) < 100000000) ∧
    (((firstFrame 998958).domain 1).afterSwitch = some 998958 ∧ 100000000 ≤ 2 * rateOf .f48 .x1 * (1000000 - 998958)) ∧
    (63 ≤ ((lastOfBlock 133400).input 0).blockEdges ∧
      (∀ d, ((lastOfBlock 133400).domain d).candidate = none) ∧
      ∀ d, ((lastOfBlock 133400).domain d).run = .locked → ((lastOfBlock 133400).domain d).ref = some .wci0 →
        withinTolerance ((lastOfBlock 133400).domain d).family ((lastOfBlock 133400).domain d).mult
          ((lastOfBlock 133400).mclk + 0 - ((lastOfBlock 133400).input 0).blockStart) = true) := by decide +kernel

theorem witness_RisingEdgesAreJudged_by_each_domain :
    (¬ (plant.domain 0).ref = some .wci0 ∧ (plant.domain 0).candidate = none) ∧
    ((plant.domain 1).run = .locked ∧ (plant.domain 1).ref = some .wci0 ∧ (plant.domain 1).candidate = none) ∧
    withinTolerance .f48 .x1 133267 = true ∧ withinTolerance .f48 .x1 133266 = false ∧
    (¬ ((measuredAs 3 Domain.powerOn none).domain 3).run = .locked ∧
      ((measuredAs 3 Domain.powerOn none).domain 3).candidate = some { settling 200000 with source := .wci0, latest := none } ∧
      plant.mclk ≤ 200000 + 800000 * 2 ^ 0) := by decide +kernel

/-- Domain 1, LOCKED on WCI0, with a candidate on it too. -/
def both : State := plant.setDomain 1 { domain1 with candidate := some { settling 200000 with source := .wci0 } }

theorem witness_LossStartsHoldover :
    (plant.phase ≠ .held ∧ (plant.input 1).present = false ∧ plant.mclk + 7999 < (plant.input 0).lastEdge + 10000) ∧
    ((plant.input 0).present = true ∧ (plant.input 0).lastEdge + 10000 ≤ plant.mclk + 8000) ∧
    ((plant.domain 0).ref ≠ some .wci0 ∧ (plant.domain 0).candidate = none) ∧
    ((plant.domain 1).run = .locked ∧ (plant.domain 1).ref = some .wci0 ∧ (plant.domain 1).candidate = none ∧
      (plant.domain 1).fallback = some .int48) ∧
    ((measuredAs 3 Domain.powerOn none).domain 3).candidate = some { settling 200000 with source := .wci0, latest := none } ∧
    ((both.domain 1).run = .locked ∧ (both.domain 1).ref = some .wci0 ∧
      (both.domain 1).candidate = some { settling 200000 with source := .wci0 }) ∧
    (plant.domain 0).fallback = none ∧
    ((plant.domain 2).run = .holdover ∧ (plant.domain 2).lastGood = some 133333 ∧
      (plant.domain 2).holdStart + ((plant.domain 2).holdIndex + 1) * 133333 / 64 ≤ 998333 ∧
      998332 < (plant.domain 2).holdStart + ((plant.domain 2).holdIndex + 1) * 133333 / 64 ∧ 64 ≤ 133333) ∧
    (plant.domain 0).run ≠ .holdover := by
  decide +kernel

theorem test_catchUp_takes_every_boundary_up_to_the_limit :
    let y := (plant.catchUp 2 1000000 [] (plant.catchUpFuel 2 1000000)).domain 2
    y.run = .holdover ∧ y.count = 8 ∧ 1000000 < y.holdStart + (y.holdIndex + 1) * 133333 / 64 := by decide +kernel

/-! ### Lanes -/

/-- The echo of TRAIN frame 99, and the same with a wrong announcement. -/
def echo99 : LaneFrame := LaneFrame.make 3 99 [] (some (plant.domain 0).announcement)
def wrong99 : LaneFrame := LaneFrame.make 3 99 [] (some 0)

/-- Lane 2 with `n` good echoes, and lane 1 expecting nothing. -/
def trained (n : Nat) : State := plant.setLane 2 { lane2 with trainingRun := n }
def idle1 : State := plant.setLane 1 { lane1 with expected := none }

theorem witness_TrainingLanesJudgeEchoes :
    plant.phase ≠ .held ∧ (plant.lane 0).state = .idle ∧ (plant.lane 3).state = .fault ∧
    ((idle1.lane 1).state = .up ∧ (idle1.lane 1).expected = none) ∧
    ((plant.lane 2).state = .training ∧ (plant.lane 2).expected = some 99 ∧ (plant.lane 2).domain = some 0) ∧
    ¬ goodEcho wrong99 99 (plant.domain 0).announcement ∧ goodEcho echo99 99 (plant.domain 0).announcement ∧
    ((trained 14).lane 2).trainingRun + 1 ≠ 16 ∧ ((trained 15).lane 2).trainingRun + 1 = 16 := by decide +kernel

/-- A frame of 16 slots, with a word or none. -/
def data16 (tag : Byte) (w : Option Word) : LaneFrame := LaneFrame.make 1 tag (List.replicate 16 0x100) w

/-- Lane 1 on a domain of multiplier 4, with `n` bad frames in a row. -/
def quick (n : Nat) : State := (plant.setDomain 0 { domain0 with mult := .x4 }).setLane 1 { lane1 with badRun := n }

theorem witness_UpLanesJudgeTheirFrames :
    ((quick 7).phase ≠ .held ∧ ((quick 7).lane 1).state = .up ∧ ((quick 7).lane 1).expected = some 99 ∧
      ((quick 7).lane 1).domain = some 0 ∧ slotCapacity ((quick 7).domain 0).mult = 16) ∧
    (frameCause (data16 99 none) 16 99 = none ∧ (data16 99 none).mark = 0) ∧
    (frameCause (data16 99 (some 5)) 16 99 = none ∧ (data16 99 (some 5)).mark = 1 ∧
      ((quick 7).lane 1).lastStatus ≠ some (data16 99 (some 5)).word) ∧
    (frameCause { data16 99 none with crc := 0 } 16 99 = some .crc ∧ frameCause echo99 16 99 = some .format ∧
      frameCause (LaneFrame.make 1 98 [] none) 0 99 = some .tag) ∧
    ((quick 6).lane 1).badRun + 1 ≠ 8 ∧ ((quick 7).lane 1).badRun + 1 = 8 := by
  and_intros <;> decide +kernel

/-- Lane 1 with `n` frames in inbound staging. -/
def crowded (n : Nat) (late : Bool) : State :=
  plant.setLane 1 { lane1 with inbound := List.replicate n ⟨98, .bad⟩, lateIn := late }

theorem witness_UpLanesJudgeTheirFrames_of_staging :
    ((crowded 3 true).lane 1).domain = some 0 ∧ ((crowded 3 true).lane 1).inbound.countP (fun f => f.kind != .lost) < 4 ∧
    (∀ b : Bool, 4 ≤ ((crowded 4 b).lane 1).inbound.countP (fun f => f.kind != .lost) ∧ ((crowded 4 b).lane 1).lateIn = b) := by
  decide +kernel

/-- What hangs on a frame of a lane's inbound staging leaves it, or does not. -/
theorem witness_UpLanesJudgeTheirFrames_of_leaving :
    (∀ i, (plant.stream i).state ≠ .overflowing) ∧
    ((plant.stream 1).geom = some (captureGeometry 1 0x3000 .dropNew) ∧ plant.delays 98 1 = true) ∧
    ∀ i, plant.delays 97 i = false := by decide +kernel

theorem witness_UpLanesJudgeTheirFrames_of_overflowing_streams :
    let f : InboundFrame := ⟨98, .good (List.replicate 64 0x500)⟩
    (∀ p ∈ [PeriodState.free, .ready], ((takingAs .overflowing 0 p).stream 1).state = .overflowing ∧
      ((takingAs .overflowing 0 p).stream 1).storesFrame 98 = true) ∧
    ((State.leaveInbound 1 (takingAs .overflowing 0 .free) f).delays 98 1 = true ∧
      ((State.leaveInbound 1 (takingAs .overflowing 0 .free) f).lane 1).inbound = [f]) ∧
    ((∀ i, (State.leaveInbound 1 (takingAs .overflowing 0 .ready) f).delays 98 i = false) ∧
      ((State.leaveInbound 1 (takingAs .overflowing 0 .ready) f).lane 1).inbound = []) := by decide +kernel

/-- Lane 1 with its boundary in hand, and with its late allowance spent. -/
def atLane1 : State := { plant with li := { plant.li with atBoundary := [1] } }
def spent1 : State := plant.setLane 1 { lane1 with lateOut := false }

theorem witness_LanesSendAtTheirBoundaries_of_leaving :
    (1 ∉ plant.li.atBoundary ∧ 1 ∈ atLane1.li.atBoundary ∧ (atLane1.domain 3).run = .stopped ∧
      (atLane1.domain 0).run ≠ .stopped) ∧
    ((plant.stream 0).state = .running ∧ (plant.stream 0).next = 102 ∧ (plant.stream 0).stop = none ∧
      (plant.stream 0).next ≠ 101) ∧
    ((plant.stream 0).words = 0 ∧ (plant.fetchBegin 0).2 = true ∧
      ((unfilled .keepTime .running).fetchBegin 0).2 = false) ∧
    ((plant.lane 1).domain = some 0 ∧ (plant.lane 1).lateOut = true ∧ (spent1.lane 1).lateOut = false) ∧
    ((plant.stream 0).geom = some (playGeometry 0 0x1000) ∧ (plant.stream 0).frame + 1 < 16) := by decide +kernel

theorem witness_LanesSendAtTheirBoundaries :
    (plant.lane 2).state = .training ∧ ((plant.lane 1).state = .up ∧ (plant.lane 1).queue = []) ∧
    ((queuedWords 8).lane 1).queue = 3 :: List.replicate 7 3 ∧ (plant.lane 3).state = .fault ∧ (plant.lane 0).state = .idle ∧
    (plant.lane 0).expected = none ∧ (plant.lane 1).expected = some 99 ∧ (plant.lane 2).expected = some 99 ∧
    ((plant.setLane 3 { lane3 with countdown := some 1024 }).lane 3).countdown = some (1022 + 2) ∧
    (plant.lane 3).countdown = some 1 ∧ (plant.lane 3).domain = some 0 ∧
    boundaryIsDue (plant.domain 0) (plant.mclk + 0) ∧ plant.cu.list = [] ∧ (plant.domain 0).candidate = none ∧
    (plant.domain 0).rateChange = none := by
  and_intros <;> first | decide +kernel | exact .inl (by decide +kernel)

/-! ### Outputs -/

/-- Output 3 ENDING, with settings staged or not. -/
def endingWith (p : Option OutputSettings) : State := plant.setOutput 3 { plant.output 3 with
  state := .ending, settings := ⟨false, 0, .x1⟩, pendingSettings := p }

theorem witness_OutputsFollowTheirCycles :
    (plant.phase ≠ .held ∧ (plant.output 0).riseAt = none ∧ (plant.output 0).fallAt = none) ∧
    ((plant.output 2).riseAt = some 1000010 ∧ plant.mclk + 9 < 1000010 ∧ 1000010 ≤ plant.mclk + 10) ∧
    ((plant.output 3).fallAt = some 1000020 ∧ plant.mclk + 19 < 1000020 ∧ 1000020 ≤ plant.mclk + 20 ∧
      (plant.output 3).state ≠ .ending) ∧
    (∀ p ∈ [none, some (⟨true, 1, .x2⟩ : OutputSettings)], ((endingWith p).output 3).state = .ending ∧
      ((endingWith p).output 3).fallAt = some 1000020 ∧ ((endingWith p).output 3).pendingSettings = p ∧
      ((endingWith p).output 3).settings.enable = false) ∧
    ((plant.domain 0).run = .locked ∧ (plant.domain 0).ref = some .int48) ∧
    ((plant.domain 2).lastGood = some 133333 ∧ (plant.domain 2).run = .holdover) ∧
    (plant.output 0).state = .off ∧ (plant.output 1).state = .waiting ∧
    ((plant.output 3).state = .running ∧ ¬ ((plant.output 3).line = false ∧ (plant.output 3).riseAt = none)) ∧
    (let x : WordOutput := { plant.output 2 with riseAt := none }
     x.state = .running ∧ (x.line = false ∧ x.riseAt = none) ∧ x.pendingSettings = none) ∧
    (let p : OutputSettings := ⟨true, 0, .x4⟩
     p.domain = 0 ∧ (4 : Word).toNat % p.divider.value = 0 ∧ ¬ (p.domain = 0 ∧ (3 : Word).toNat % p.divider.value = 0)) ∧
    (let y : WordOutput := { WordOutput.powerOn 0 with lastHalf := some 1000, lastFall := 50 }
     y.lastFall + min 1000 1041 ≤ 1050 ∧ 1049 < y.lastFall + min 1000 1041) := by decide +kernel

/-- Domain 0 at a boundary of count 100 that fell at `t`. -/
def fell (t : Nat) : State := plant.setDomain 0 { domain0 with lastBoundary := t }

theorem witness_OutputsFollowTheirCycles_at_boundaries :
    ((plant.output 3).settings.domain = 0 ∧ (plant.domain 0).count.toNat % (plant.output 3).settings.divider.value = 0 ∧
      (plant.output 3).settings.domain ≠ 1) ∧ (((fell 0).domain 0).lastBoundary = 0 ∧ (plant.domain 0).lastBoundary ≠ 0) ∧
    ((plant.output 3).riseAt = none ∧ (plant.output 3).fallAt = some 1000020 ∧ (plant.domain 0).lastBoundary ≤ 1000020 ∧
      1000020 < ((fell 1000021).domain 0).lastBoundary ∧ (plant.output 3).state = .running) := by decide +kernel

/-! ### Control surfaces -/

/-- Port 0 with a message open. -/
def opening (l : List Byte) : State := plant.setPort 0 { port0 with incoming := l }

theorem witness_LinksComeUpAndGoDown :
    (plant.phase ≠ .held ∧ (1 : Byte) + 16 + 16 + 16 + 16 + 0xBF = 0 ∧ (16 : Byte).toNat ≤ 16 ∧
      (1 : Byte) + 0 + 0 + 0 + 0 + 0xFF = 0) ∧
    (plant.port 0).heard (plant.mclk + 24500000) ∧ (plant.port 1).heard (plant.mclk + 0) ∧
    (∀ p, (plant.port p).incoming = []) ∧
    ((plant.port 0).up = true ∧ (plant.port 0).silence = some 500000 ∧ 500000 + 25000000 ≤ plant.mclk + 24500000 ∧
      plant.mclk + 24499999 < 500000 + 25000000) := by
  and_intros <;> first | decide +kernel | exact heard_of_check (by decide +kernel)

theorem witness_ButtonsAndEncodersAreTaken :
    (plant.phase ≠ .held ∧ (plant.port 0).up = true) ∧ (plant.port 0).heard (plant.mclk + 24500000) ∧
    ((2 : Byte) + 3 + 9 + 0xF2 = 0 ∧ (3 : Byte).toNat = (3 : Fin 16).val ∧ (3 : Fin 16).val < (plant.port 0).announced.groups ∧
      (9 : Byte) ≠ (plant.port 0).buttons[3] ∧ (0 : Byte) = (plant.port 0).buttons[3]) ∧
    ((2 : Byte) + 3 + 0 + 0xFB = 0 ∧ (5 : Byte) + 0xFB = 0) ∧
    ((4 : Byte) + 3 + 0xC0 + 0x39 = 0 ∧ -64 ≤ (0xC0 : Byte).toInt ∧ (4 : Byte) + 3 + 0x3F + 0xBA = 0 ∧
      (0x3F : Byte).toInt ≤ 63 ∧ (4 : Byte) + 3 + 0 + 0xF9 = 0) ∧ (3 : Fin 16).val < (plant.port 0).announced.encoders := by
  and_intros <;> first | decide +kernel | exact heard_of_check (by decide +kernel)

/-- Port 0 with motor 0 in a state of its own. -/
def motor0As (m : Motor) : State := plant.setPort 0 { port0 with motors := port0.motors.set 0 m }

theorem witness_FaderReportsActOnPositionThenTouch :
    (plant.phase ≠ .held ∧ (plant.port 0).up = true) ∧ (plant.port 0).heard (plant.mclk + 0) ∧
    ((3 : Byte) + 3 + 0xFF + 3 + 0xF8 = 0 ∧ (3 : Byte).toNat = (3 : Fin 16).val ∧
      (∀ b, 2 ≤ b → b < 7 → (3 : Byte).getLsbD b = false) ∧ (3 : Fin 16).val < (plant.port 0).announced.faders) ∧
    ((3 : Byte) + 3 + 0xFF + 0x83 + 0x78 = 0 ∧ (∀ b, 2 ≤ b → b < 7 → (0x83 : Byte).getLsbD b = false)) ∧
    ((plant.port 0).faders[3] = ⟨0, false, .inside⟩ ∧ (plant.port 0).faders[0] = ⟨100, true, .inside⟩) ∧
    (∀ m ∈ [(⟨.free, none⟩ : Motor), ⟨.driven, some 5⟩, ⟨.held, none⟩, ⟨.held, some 7⟩],
      ((motor0As m).port 0).motors[0] = m) := by
  and_intros <;> first | decide +kernel | exact heard_of_check (by decide +kernel)

theorem witness_DiscardedReportsAreOnlyCounted :
    plant.phase ≠ .held ∧ (plant.port 0).heard (plant.mclk + 0) ∧ (plant.port 1).heard (plant.mclk + 0) ∧
    ((1 : Byte) + 0 + 0 + 0 + 0 + 0 ≠ 0 ∧ 16 < (17 : Byte).toNat ∧ (2 : Byte) + 0 + 0 + 0 ≠ 0 ∧ (3 : Byte) + 0 + 0 + 0 + 0 ≠ 0 ∧
      (∃ k < 7, 2 ≤ k ∧ (0x04 : Byte).getLsbD k = true) ∧ (4 : Byte) + 0 + 0 + 0 ≠ 0 ∧ (0xBF : Byte).toInt < -64 ∧
      63 < (0x40 : Byte).toInt ∧ (5 : Byte) + 0 ≠ 0) ∧
    ((plant.port 1).up = false ∧ (2 : Byte) + 0 + 0 + 0xFE = 0 ∧ (3 : Byte) + 0 + 0 + 0 + 0xFD = 0 ∧
      (∀ k, 2 ≤ k → k < 7 → (0 : Byte).getLsbD k = false) ∧ (4 : Byte) + 0 + 0 + 0xFC = 0 ∧ -64 ≤ (0 : Byte).toInt ∧
      (5 : Byte) + 0xFB = 0) ∧
    ((plant.port 0).up = true ∧ (2 : Byte) + 4 + 0 + 0xFA = 0 ∧ (plant.port 0).announced.groups ≤ (4 : Byte).toNat ∧
      (3 : Byte) + 16 + 0 + 0 + 0xED = 0 ∧ 16 ≤ (16 : Byte).toNat ∧ (4 : Byte) + 4 + 0 + 0xF8 = 0 ∧
      (plant.port 0).announced.encoders ≤ (4 : Byte).toNat) ∧
    ((∀ k ∈ [(0 : Byte), 6], ¬ (1 ≤ k.toNat ∧ k.toNat ≤ 5)) ∧ (3 : Byte).toNat = 3 ∧ [(1 : Byte)].length + 1 < 5 ∧
      ((opening [3, 1]).port 0).incoming = 3 :: [1] ∧ [(1 : Byte)].length + [(2 : Byte), 0, 0].length + 1 = 5 ∧
      (3 :: [1] ++ [(2 : Byte), 0, 0]).foldl (· + ·) 0 ≠ 0) := by
  and_intros <;> first | decide +kernel | exact heard_of_check (by decide +kernel)

/-- Port 0 with nothing in flight, and with the last item before the round-robin position dirty. -/
def ready0 : Port := { port0 with inFlight := none }
def dirty47 : Port := { ready0 with dirty := ready0.dirty.set 47 .dirty }

theorem witness_CommandsAreDrawnInOrder :
    (plant.phase ≠ .held ∧ (plant.port 0).inFlight = some (framed [0x85, 0x7B]) ∧ (plant.port 1).inFlight = none) ∧
    (Port.powerOn.up = false ∧ port0.inFlight ≠ none) ∧
    (ready0.up = true ∧ ready0.inFlight = none ∧ ready0.welcome = false ∧ ∀ k : Fin 48, ready0.dirty[k] = .clean) ∧
    ({ ready0 with welcome := true } : Port).welcome = true ∧
    ((47 : Fin 48) = dirty47.roundRobin + 47 ∧ dirty47.up = true ∧ dirty47.inFlight = none ∧ dirty47.welcome = false ∧
      dirty47.dirty[(47 : Fin 48)] ≠ .clean ∧ ∀ m : Fin 48, m < 47 → dirty47.dirty[dirty47.roundRobin + m] = .clean) := by
  decide +kernel

/-- Port 0 with a target pending for motor 2, and with a release. -/
def pending2 (m : DirtyMark) : State := plant.setPort 0 { port0 with dirty := port0.dirty.set (motorItem 2) m }

theorem witness_CommandsAreDrawnInOrder_for_motors :
    (((pending2 .target).port 0).dirty[motorItem 2] = .target ∧ ((pending2 .target).port 0).motors[2].target = some 300 ∧
      ((pending2 .release).port 0).dirty[motorItem 2] = .release) ∧ ((pending2 .target).port 0).Interlocked ∧
    ((pending2 .target).port 0).command (motorItem 2) = .motor (2 : Fin 16).val 300 :=
  ⟨by decide +kernel, ⟨by decide +kernel, by decide +kernel, by decide +kernel⟩, rfl⟩

/-- Port 0 with group 1 diverged, and with ladder 0 bound to a level `v`. -/
def diverged1 : State := plant.setPort 0 { port0 with diverged := port0.diverged.set 1 true }
def bound0 (v : BitVec 4) : State := plant.setPort 0 { port0 with
  ladders := port0.ladders.set 0 v, mirrors := { port0.mirrors with
    bindings := port0.mirrors.bindings.set 0 ⟨1, 0, true⟩ } }

theorem witness_SurfaceWordsTakeEffect :
    (plant.port 0).diverged[1] = false ∧ (diverged1.port 0).diverged[1] = true ∧
    (∀ b : Fin 8, ((0x0000 : Word).extractLsb' 8 8).getLsbD b = true →
      (plant.port 0).buttons[1].getLsbD b = ((0x0000 : Word).extractLsb' 0 8).getLsbD b) ∧
    (¬ ∀ b : Fin 8, ((0x8080 : Word).extractLsb' 8 8).getLsbD b = true →
      (plant.port 0).buttons[1].getLsbD b = ((0x8080 : Word).extractLsb' 0 8).getLsbD b) ∧
    ((plant.port 0).up = true ∧ (3 : Fin 16).val < (plant.port 0).announced.groups ∧
      (plant.port 0).announced.groups ≤ (4 : Fin 16).val ∧ (plant.port 1).up = false) ∧
    (((bound0 3).port 0).mirrors.bindings[0].enable = true ∧ ((bound0 3).port 0).mirrors.bindings[0].lane = 1 ∧
      0 < ((bound0 3).port 0).announced.ladders ∧ (plant.port 0).mirrors.bindings[1].enable = false) ∧
    (((bound0 3).port 0).mirrors.bindings[0].enable = true ∧ (Binding.ofWord 0).enable = false ∧
      ((bound0 3).port 0).ladders[0] ≠ 0 ∧ ((bound0 0).port 0).ladders[0] = 0 ∧
      (plant.port 0).mirrors.bindings[0].enable = false) := by decide +kernel

/-! ### Meters -/

theorem witness_ThresholdWatchFollowsItsMode :
    (let x : SlotWatch := ⟨.over, 2048, 1, false, 0⟩
     x.mode = .over ∧ x.threshold ≤ 2048 ∧ x.flag = false ∧ (2047 : BitVec 23) < x.threshold ∧
       ({ x with flag := true } : SlotWatch).flag = true) ∧
    (let x : SlotWatch := ⟨.silent, 2048, 255, false, 255⟩
     x.mode = .silent ∧ (2047 : BitVec 23) < x.threshold ∧ x.silence = 255 ∧ x.run ≤ 255 ∧ x.flag = false) ∧
    (let x : SlotWatch := ⟨.silent, 2048, 3, false, 1⟩
     x.silence + 1 < x.run ∧ x.threshold ≤ (2048 : BitVec 23)) ∧ SlotWatch.powerOn.mode = .off ∧
    ((plant.window 1).good = 0 ∧ ((plant.meterFrame 1 [0x100]).window 1).good ≠ 0 ∧ plant.capacity 1 ≤ 64 ∧
      (quick 0).capacity 1 ≤ (16 : Fin 64).val ∧ (15 : Fin 64).val < (quick 0).capacity 1) := by decide +kernel

theorem witness_ClosingsFixTheWindow :
    (255 : BitVec 23).toNat < 256 ∧ (2 ^ (1 + 7) ≤ (256 : BitVec 23).toNat ∧ (256 : BitVec 23).toNat < 2 ^ (1 + 8)) ∧
    (2 ^ (15 + 7) ≤ (0x7FFFFF : BitVec 23).toNat ∧ (0x7FFFFF : BitVec 23).toNat < 2 ^ (15 + 8)) ∧
    (0x80000000 : Word).getLsbD 31 = true ∧ (0x00800000 : Word).getLsbD 31 = false ∧
    (0x00800000 : Word).extractLsb' 23 8 = (1 : Byte) ∧ (0x01000000 : Word).extractLsb' 23 8 ≠ (1 : Byte) ∧
    (plant.port 0).up = true ∧ (plant.port 1).up = false := by decide +kernel

end Sys2Proof.Tests
end

-- ==== Proofs of the family 01: rings and period tracking ====
section
/-! The directory of rings through every command (R3, R4, R19). -/

namespace Sys2Proof.Machine

/-! ## What a command carries from the state it runs on to the next -/

/-- What every operation of a running part keeps, whether it takes cues in, takes them out or leaves them. -/
structure Carries (s t : State) : Prop where
  phase : t.phase = s.phase
  hrstn : t.hrstn = s.hrstn
  mclk : t.mclk = s.mclk
  pending : t.pending = s.pending
  size : t.mc.size = s.mc.size
  sound : s.Sound → t.Sound
  apart : s.phase ≠ .held → s.RingsApart → t.RingsApart
  motors : s.Interlocked → t.Interlocked
  hand : ∀ l, l ∈ t.li.atBoundary → l ∈ s.li.atBoundary

theorem Runs.carries {s t : State} (h : Runs s t) : Carries s t :=
  ⟨h.phase, h.hrstn, h.mclk, h.pending, h.size, h.sound, h.apart, h.motors, h.hand⟩

theorem Takes.carries {s t : State} (h : Takes s t) : Carries s t :=
  ⟨h.phase, h.hrstn, h.mclk, h.pending, h.size, h.sound, h.apart, h.motors, h.hand⟩

theorem Keeps.carries {s t : State} (h : Keeps s t) : Carries s t := h.toRuns.carries

theorem Carries.refl (s : State) : Carries s s := (Keeps.refl s).carries

/-- The rows of the reset sequences, and those at which the Pass Port may open (R166, R178 to R182). -/
def mayTurnPhase : Instr → Bool
  | .memoryArbitration | .eventRecordWritten | .meterTableWritten _ | .surfaceImageWritten _ => true
  | .pornAssert | .pornRelease _ _ _ | .sdramBringUp _ | .startUpScrubComplete | .passPortOpen => true
  | .hrstnAssert | .hrstnRelease | .hostResetScrubComplete => true
  | _ => false

/-- Time passes, and a powered part acts. -/
theorem carries_powered {s t : State} {f : State → State} (he : powered s f = .next t) (hf : ∀ u, Carries u (f u)) :
    Carries s t ∧ (s.phase = .held → t = s) := by
  unfold powered at he
  split at he <;> cases he
  · exact ⟨.refl s, fun _ => rfl⟩
  · next hp => exact ⟨hf s, fun h => absurd h hp⟩

/-- R177: one pending refresh more, at most 8. -/
theorem carries_refreshDue (s : State) (m : MemController) (hs : m.size = s.mc.size)
    (hr : m.refreshPending = min Config.refreshMax (s.mc.refreshPending + 1)) (hl : m.records = s.mc.records) :
    Carries s { s with mc := m } where
  phase := rfl
  hrstn := rfl
  mclk := rfl
  pending := rfl
  size := hs
  sound a := ⟨a.memory, hr ▸ Nat.min_le_left _ _, a.cues,
    by simpa only [State.ringSound, State.reservedRecords, hl] using a.ring, a.attn⟩
  apart _ := RingsApart.of_same rfl (base_of_size hs) (.of_rw rfl)
  motors := id
  hand _ := id

theorem carries_cueTaken (s : State) : Carries s (if s.cu.taking then s.takeCue else s) := by
  split
  · next ht => exact (takes_takeCue (.refl s) ht).carries
  · exact .refl s

theorem carries_oscillatorUp (o : Osc) (at_ : Nat) (s : State) :
    Keeps s ((indices 4).foldl (fun s d =>
      match (s.domain d).candidate with
      | none => s
      | some c =>
        if c.source.osc = some o ∧ c.phase = .starting then
          (s.mapDomain d (fun x => { x with
            candidate := some { c with phase := .settling, windowStart := some at_ } })).request (.domain d)
        else s) (s.setOsc o .running)) := by
  refine keeps_foldl (fun u d h => ?_) _ (keeps_setOsc (.refl s) o .running)
  split
  · exact h
  · split
    · refine keeps_request (keeps_mapDomain h d _ ?_) _
      exact fun _ => rfl
    · exact h

/-- A command outside the reset sequences acts on the state after its time has passed, and carries the laws over; under PORn
nothing but the time changes (R178). -/
theorem exec_carries {c : Instr} {s t : State} (hc : mayTurnPhase c = false) (he : exec c s = .next t) :
    ∃ n, Carries (s.elapse n) t ∧ (s.phase = .held → t = s.elapse n) := by
  have now {f : State → State} (h : powered s f = .next t) (hf : ∀ u, Carries u (f u)) :
      ∃ n, Carries (s.elapse n) t ∧ (s.phase = .held → t = s.elapse n) := ⟨0, carries_powered h hf⟩
  have later {f : State → State} {n : Nat} (h : powered (s.elapse n) f = .next t) (hf : ∀ u, Carries u (f u)) :
      ∃ n, Carries (s.elapse n) t ∧ (s.phase = .held → t = s.elapse n) := ⟨n, carries_powered h hf⟩
  have cue (c : Cue) (u : State) : Carries u (u.applyIfReached c) := (drops_applyIfReached (.refl u) c).toRuns.carries
  have report (p : Fin 2) (b : List SurfaceByte) (u : State) : Carries u (u.surfaceMessage p b) :=
    (keeps_surfaceMessage (.refl u) p b).carries
  cases c with
    dsimp only [exec, execPassTransaction, execPlaybackRingWrite, execCaptureRingRead, execCuePostMarkWrite,
      execEventTakeMarkWrite, execAttentionMaskWrite, execStampDomainWrite, execGroupReferenceSelectWrite,
      execFaderWindowWrite, execLadderBindingWrite, execEncoderNotifyMaskWrite, execLampRowWrite,
      execThresholdWordWrite, execCueTake, execFrameBoundary, execStartStream, execStopStream, execSwapRing,
      execSwitchReference, execSetRate, execStopDomain, execAssignLane, execLaneCommand, execSetOutput,
      execMotorTarget, execMotorFree, execMark, execRetrainCountdownEnd, execWordClockEdge, execInputAbsent,
      execOscillatorRunning, execSettleWindowEnd, execOutputRise, execOutputFall, execInputStatusPeriodic,
      execSurfaceCounterPeriodic, execLaneFrameReceived, execRefreshInterval, execStreamFetch, execStreamStore,
      execAnnounce, execButtons, execFaderReport, execEncoderReport, execIdleReport, execSurfaceSilenceTimeout,
      execSurfaceCommandSent, execMalformedSurfaceMessage] at he
  | passTransaction x w => exact now he fun u => (keeps_passTake (.refl u) _ _).carries
  | playbackRingWrite w => exact now he fun u => (keeps_passTake (.refl u) _ _).carries
  | captureRingRead w => exact now he fun u => (keeps_passTake (.refl u) _ _).carries
  | cuePostMarkWrite w => exact now he fun u => (keeps_blockTake (.refl u) _ _).carries
  | eventTakeMarkWrite w => exact now he fun u => (keeps_blockTake (.refl u) _ _).carries
  | attentionMaskWrite w => exact now he fun u => (keeps_blockTake (.refl u) _ _).carries
  | stampDomainWrite p w => exact now he fun u => (keeps_blockTake (.refl u) _ _).carries
  | groupReferenceSelectWrite p w => exact now he fun u => (keeps_blockTake (.refl u) _ _).carries
  | faderWindowWrite p w => exact now he fun u => (keeps_blockTake (.refl u) _ _).carries
  | ladderBindingWrite p w => exact now he fun u => (keeps_blockTake (.refl u) _ _).carries
  | encoderNotifyMaskWrite p w => exact now he fun u => (keeps_blockTake (.refl u) _ _).carries
  | lampRowWrite p w => exact now he fun u => (keeps_blockTake (.refl u) _ _).carries
  | thresholdWordWrite l q w => exact now he fun u => (keeps_blockTake (.refl u) _ _).carries
  | cueTake dt => exact later he carries_cueTaken
  | frameBoundary d dt order => exact later he fun u => (runs_boundary (.refl u) _ _).carries
  | startStream c => exact now he (cue _)
  | stopStream c => exact now he (cue _)
  | swapRing c => exact now he (cue _)
  | switchReference c dt => exact later he (cue _)
  | setRate c => exact now he (cue _)
  | stopDomain c dt =>
    refine later he fun u => ?_
    have h := drops_applyIfReached (.refl u) ⟨.stopDomain, c⟩
    split
    · exact (drops_flushStopped h _).toRuns.carries
    · exact h.toRuns.carries
  | assignLane c => exact now he (cue _)
  | laneCommand c => exact now he (cue _)
  | setOutput c => exact now he (cue _)
  | motorTarget c => exact now he (cue _)
  | motorFree c => exact now he (cue _)
  | mark c => exact now he (cue _)
  | retrainCountdownEnd l dt order =>
    refine later he fun u => ?_
    split
    · exact (runs_boundary (.refl u) _ _).carries
    · exact .refl u
  | wordClockEdge w dt order => exact later he fun u => (runs_risingEdge (.refl u) _ _ _).carries
  | inputAbsent w dt order =>
    refine later he fun u => ?_
    split
    · exact (runs_goAbsent (.refl u) _ _).carries
    · exact .refl u
  | oscillatorRunning o dt =>
    refine later he fun u => ?_
    split
    · split
      · exact (carries_oscillatorUp o _ u).carries
      · exact .refl u
    · exact .refl u
  | settleWindowEnd d dt => exact later he fun u => (keeps_windowOver (.refl u) _ _).carries
  | outputRise o dt =>
    refine later he fun u => ?_
    split
    · exact .refl u
    · split
      · exact (keeps_putOutput (.refl u) _ _).carries
      · exact .refl u
  | outputFall o dt =>
    refine later he fun u => ?_
    split
    · exact .refl u
    · split
      · exact (keeps_putOutput (.refl u) _ _).carries
      · exact .refl u
  | inputStatusPeriodic dt =>
    refine later he fun u => ?_
    split
    · exact .refl u
    · refine (keeps_requestAll ?_ _).carries
      exact .quiet rfl rfl rfl rfl rfl rfl rfl rfl rfl rfl rfl (fun _ => rfl) rfl
  | surfaceCounterPeriodic p dt => exact later he fun u => (keeps_requestImage (.refl u) _ _).carries
  | laneFrameReceived l f => exact now he fun u => (keeps_frameArrives (.refl u) _ _).carries
  | refreshInterval dt =>
    refine later he fun u => ?_
    split
    · exact .refl u
    · split
      · exact carries_refreshDue u _ rfl rfl rfl
      · exact .refl u
  | streamFetch st =>
    refine now he fun u => ?_
    split
    · exact (keeps_fetchFrame (keeps_serveStream (.refl u) _ _) _ _).carries
    · exact .refl u
  | streamStore st =>
    refine now he fun u => ?_
    split
    · exact (keeps_storeFrame (keeps_serveStream (.refl u) _ _) _ _).carries
    · exact .refl u
  | announce p a b c d e dt => exact later he (report p _)
  | buttons p a b c dt => exact later he (report p _)
  | faderReport p a b c d dt => exact later he (report p _)
  | encoderReport p a b c dt => exact later he (report p _)
  | idleReport p a dt => exact later he (report p _)
  | malformedSurfaceMessage p b => exact now he (report p _)
  | surfaceSilenceTimeout p dt =>
    refine later he fun u => ?_
    split
    · exact (keeps_goDown (.refl u) p).carries
    · exact .refl u
  | surfaceCommandSent p =>
    refine now he fun u => ?_
    split
    · refine (keeps_putPort (.refl u) p _ fun h => ?_).carries
      exact h.same rfl rfl rfl rfl
    · exact .refl u
  | _ => cases hc

/-! ## The rings through the reset sequences (R19, R178 to R182) -/

/-- The directory and the memory map as before, outside power-on. -/
theorem State.RingsApart.of_rw {s t : State} (a : s.RingsApart) (hr : t.rw = s.rw) (hb : t.base = s.base)
    (hp : t.phase = .held → s.phase = .held) : t.RingsApart := by
  have he (i : Fin 32) : t.entry i = s.entry i := by simp only [State.entry, hr]
  exact ⟨by simpa only [he] using a.apart, by simpa only [he, hb] using a.within,
    fun h => by simpa only [he] using a.held (hp h)⟩

/-- R180, R19: a host reset empties the directory. -/
theorem resetBlocks_entry (s : State) (i : Fin 32) : s.resetBlocks.entry i = none := by
  have h : s.resetBlocks.rw = Vector.replicate 32 none := by
    rfl
  simp [State.entry, h]

theorem resetBlocks_apart (s : State) : s.resetBlocks.RingsApart := apart_of_none (resetBlocks_entry s)

theorem openPort_apart {s : State} (a : s.RingsApart) : s.openPort.RingsApart := by
  rcases openPort_cases s with ⟨-, -, e⟩ | ⟨-, e⟩ <;> rw [e]
  · exact resetBlocks_apart s
  · exact a.of_rw rfl rfl (fun h => nomatch h)

theorem openWhenReady_apart {s : State} (a : s.RingsApart) : s.openWhenReady.RingsApart := by
  unfold State.openWhenReady; split
  · exact openPort_apart a
  · exact a

theorem writeReady_apart {s : State} (hp : s.phase ≠ .held) (a : s.RingsApart) : s.writeReady.RingsApart := by
  unfold State.writeReady; split
  · exact openPort_apart ((keeps_completeThrough (.refl s) _).apart hp a)
  · exact a

theorem openPort_not_held {s : State} : s.openPort.phase ≠ .held := by
  rcases openPort_cases s with ⟨-, -, e⟩ | ⟨-, e⟩ <;> rw [e] <;> simp

theorem writeReady_not_held {s : State} (hp : s.phase ≠ .held) : s.writeReady.phase ≠ .held := by
  unfold State.writeReady; split
  · exact openPort_not_held
  · exact hp

theorem completeRow_apart {s : State} (hp : s.phase ≠ .held) (a : s.RingsApart) (p : RecordWork → Bool) :
    (s.completeRow p).RingsApart ∧ (s.completeRow p).phase ≠ .held := by
  unfold State.completeRow
  split
  · have k := keeps_completeThrough (.refl s.writeReady) p
    exact ⟨k.apart (writeReady_not_held hp) (writeReady_apart hp a), k.phase ▸ writeReady_not_held hp⟩
  · have k := keeps_completeThrough (.refl s) p
    exact ⟨k.apart hp a, k.phase ▸ hp⟩

theorem powered_apart {s t : State} {f : State → State} (he : powered s f = .next t) (a : s.RingsApart)
    (hf : s.phase ≠ .held → (f s).RingsApart) : t.RingsApart := by
  unfold powered at he
  split at he <;> cases he
  · exact a
  · next h => exact hf h

theorem elapse_apart {s : State} (a : s.RingsApart) (n : Nat) : (s.elapse n).RingsApart := a.of_rw rfl rfl id

/-- R179, R181: the scrub done, the records are asked for. -/
theorem scrubbed_apart {s : State} (a : s.RingsApart) {p : Phase} (hp : p ≠ .held) : (s.scrubbed p).RingsApart :=
  a.of_rw rfl rfl (fun h => absurd h hp)

/-- Each row of the sequences keeps the rings apart, or empties the directory. -/
theorem sequence_apart {c : Instr} {s t : State} (hc : mayTurnPhase c = true) (he : exec c s = .next t)
    (a : s.RingsApart) : t.RingsApart := by
  cases c with
    dsimp only [exec, execPornAssert, execPornRelease, execSdramBringUp, execStartUpScrubComplete, execPassPortOpen,
      execMemoryArbitration, execEventRecordWritten, execMeterTableWritten, execSurfaceImageWritten, execHrstnAssert,
      execHrstnRelease, execHostResetScrubComplete] at he
  | pornAssert => cases he; exact powerOn_apart _ _ _
  | pornRelease m r dt =>
    split at he <;> cases he
    · next h => exact apart_of_none fun i => a.held h i
    · exact elapse_apart a dt
  | sdramBringUp dt =>
    refine powered_apart he (elapse_apart a dt) fun _ => ?_
    split
    · exact a.of_rw rfl rfl (fun h => nomatch h)
    · exact elapse_apart a dt
  | startUpScrubComplete =>
    refine powered_apart he a fun _ => ?_
    split
    · have k := keeps_request (keeps_requestImage (keeps_requestImage
        (keeps_requestAll (.refl (s.scrubbed .records)) rewriteOrder) 0 []) 1 []) .startWord
      exact k.apart (by simp [State.scrubbed]) (scrubbed_apart a (by simp))
    · exact a
  | passPortOpen => exact powered_apart he a fun h => writeReady_apart h a
  | memoryArbitration =>
    exact powered_apart he a fun h => openWhenReady_apart ((keeps_arbitrate (.refl s)).apart h a)
  | eventRecordWritten =>
    refine powered_apart he a fun h => ?_
    obtain ⟨a1, h1⟩ := completeRow_apart h a (·.isSlot s.ru.written)
    exact (completeRow_apart h1 a1 _).1
  | meterTableWritten l => exact powered_apart he a fun h => (completeRow_apart h a _).1
  | surfaceImageWritten p => exact powered_apart he a fun h => (completeRow_apart h a _).1
  | hrstnAssert =>
    have pin : ({ s with hrstn := true } : State).RingsApart := a.of_rw rfl rfl id
    split at he <;> cases he
    exacts [resetBlocks_apart _, resetBlocks_apart _, resetBlocks_apart _, resetBlocks_apart _, pin, pin, pin, pin]
  | hrstnRelease =>
    split at he <;> cases he
    · exact a.of_rw rfl rfl (fun h => nomatch h)
    · exact a.of_rw rfl rfl id
  | hostResetScrubComplete =>
    refine powered_apart he a fun _ => ?_
    split
    · have k := keeps_request (keeps_requestAll
        (keeps_restoreMeters (keeps_restoreSurfaces (.refl (s.scrubbed .hostRecords)))) rewriteOrder) .startWord
      exact k.apart (by simp [State.scrubbed]) (scrubbed_apart a (by simp))
    · exact a
  | _ => cases hc

/-- No command brings rings of two streams together, or one into the control area. -/
theorem exec_apart {c : Instr} {s t : State} (he : exec c s = .next t) (a : s.RingsApart) : t.RingsApart := by
  cases hc : mayTurnPhase c with
  | true => exact sequence_apart hc he a
  | false =>
    obtain ⟨n, k, hold⟩ := exec_carries hc he
    by_cases hp : s.phase = .held
    · exact hold hp ▸ elapse_apart a n
    · exact k.apart hp (elapse_apart a n)

end Sys2Proof.Machine

namespace Sys2Proof.Proofs

open Sys2Proof.Machine

/-- Settles O7: a step is its front command, and no command lets rings meet. -/
theorem everyStepKeepsRingsApart : Obligations.EveryStepKeepsRingsApart := by
  intro s t a h
  unfold step at h
  split at h
  · cases h; exact a
  · exact exec_apart h (a.of_rw rfl rfl id)

end Sys2Proof.Proofs
end

-- ==== Proofs of the family 01: power-on and host reset ====
section
/-! PORN_ASSERT, the reset state, and HRSTn (R46, R69, R122, R143, R144, R178 to R182). -/

namespace Sys2Proof.Machine

/-! ## Power-on, block by block (R178) -/

section
variable (n : Nat) (b : Bool) (q : List Instr)

theorem powerOn_domain (d : Fin 4) : (State.powerOn n b q).domain d = Domain.powerOn := by
  simp [State.domain, State.powerOn, ClockBlock.powerOn]
theorem powerOn_osc (o : Osc) : (State.powerOn n b q).osc o = .off := by cases o <;> rfl
theorem powerOn_input (w : Fin 2) : (State.powerOn n b q).input w = WordInput.powerOn := by
  simp [State.input, State.powerOn, ClockBlock.powerOn]
theorem powerOn_output (o : Fin 4) : (State.powerOn n b q).output o = WordOutput.powerOn n := by
  simp [State.output, State.powerOn, ClockBlock.powerOn]
theorem powerOn_lane (l : Fin 8) : (State.powerOn n b q).lane l = Lane.powerOn := by
  simp [State.lane, State.powerOn]
theorem powerOn_stream (i : Fin 32) : (State.powerOn n b q).stream i = Stream.powerOn := by
  simp [State.stream, State.powerOn, StreamEngine.powerOn]
theorem powerOn_slotMap (dir : Direction) (l : Fin 8) :
    (State.powerOn n b q).slotMap dir l = Vector.replicate 64 none := by
  cases dir <;> simp [State.slotMap, State.powerOn, StreamEngine.powerOn]
theorem powerOn_entry (i : Fin 32) : (State.powerOn n b q).entry i = none := by
  simp [State.entry, State.powerOn]
theorem powerOn_port (p : Fin 2) : (State.powerOn n b q).port p = Port.powerOn := by
  simp [State.port, State.powerOn]
theorem powerOn_window (l : Fin 8) : (State.powerOn n b q).window l = ⟨Vector.replicate 64 0, 0, 0, none, []⟩ := by
  simp [State.window, State.powerOn, MeterUnit.powerOn]
theorem powerOn_watch (l : Fin 8) (i : Fin 64) : (State.powerOn n b q).watch l i = SlotWatch.powerOn := by
  simp [State.watch, State.powerOn, MeterUnit.powerOn]

end

/-- R136, R143: at power-on every motor is FREE and nothing is pending. -/
theorem port_powerOn_interlocked : Port.powerOn.Interlocked where
  target f h := by simp [Port.powerOn] at h
  driven f h := by simp [Port.powerOn] at h
  down _ k := by simp [Port.powerOn]

end Sys2Proof.Machine

namespace Sys2Proof.Proofs

open Sys2Proof.Machine

/-- Settles O4: PORN_ASSERT answers the power-on state, whose blocks read as the rules give them. -/
theorem pornAssertGivesPowerOnState : Obligations.PornAssertGivesPowerOnState := by
  intro s
  refine ⟨State.powerOn s.mclk s.hrstn s.pending, rfl, rfl, rfl, rfl, fun d => ?_, powerOn_osc _ _ _, fun w => ?_,
    fun o => ?_, powerOn_lane _ _ _, powerOn_stream _ _ _, powerOn_slotMap _ _ _, powerOn_entry _ _ _, rfl,
    powerOn_port _ _ _, rfl, powerOn_window _ _ _, powerOn_watch _ _ _, rfl, rfl, rfl, rfl, rfl, rfl, rfl, rfl, rfl, rfl,
    rfl, rfl, rfl⟩
  · rw [powerOn_domain]; simp [Domain.powerOn]
  · rw [powerOn_input]; simp [WordInput.powerOn]
  · rw [powerOn_output]; simp [WordOutput.powerOn]

/-- Settles O5: the reset state is the power-on state at time 0, which meets each law. -/
theorem resetMeetsTheLaws : Obligations.ResetMeetsTheLaws :=
  ⟨⟨rfl, rfl, rfl, rfl, rfl, rfl⟩, powerOn_sound _ _ _, powerOn_apart _ _ _,
    fun p => by rw [State.reset, powerOn_port]; exact port_powerOn_interlocked, rfl⟩

end Sys2Proof.Proofs
end

-- ==== Proofs of the family 01: the grant to Pass ====
section
/-! The grant of a pass transaction, and what plain reads and writes leave (R168 to R172, R176). -/

namespace Sys2Proof.Machine

variable {s : State}

/-! ## Waiting for a grant -/

@[simp] theorem grantInTurn_of_none (h : s.pp.inHand = none) (n : Nat) : s.grantInTurn n = s := by
  cases n <;> simp [State.grantInTurn, h]

theorem grantInTurn_succ (h : s.pp.inHand ≠ none) (n : Nat) : s.grantInTurn (n + 1) = s.arbitrate.grantInTurn n := by
  rw [State.grantInTurn, if_pos (Option.isSome_iff_ne_none.2 h)]

/-- R171, R176: waiting runs arbitration points up to the first after which nothing is in hand. -/
theorem grantInTurn_point : ∀ (n : Nat) (s : State), ∃ k ≤ n, s.grantInTurn n = State.arbitrate^[k] s ∧
    (∀ j < k, (State.arbitrate^[j] s).pp.inHand ≠ none) ∧ (k < n → (State.arbitrate^[k] s).pp.inHand = none)
  | 0, s => ⟨0, le_rfl, rfl, fun j hj => by omega, fun h => by omega⟩
  | n + 1, s => by
    by_cases h : s.pp.inHand = none
    · exact ⟨0, by omega, grantInTurn_of_none h _, fun j hj => by omega, fun _ => h⟩
    · obtain ⟨k, hk, e, before, after⟩ := grantInTurn_point n s.arbitrate
      refine ⟨k + 1, by omega, by rw [grantInTurn_succ h, e]; rfl, fun j hj => ?_, fun hlt => after (by omega)⟩
      cases j with
      | zero => exact h
      | succ j => exact before j (by omega)

/-- R176: where the rotation comes to Pass first, the arbitration point grants the transaction in hand. -/
theorem arbitrate_of_passIsNext {x : PassTransaction} (h : s.passIsNext) (hx : s.pp.inHand = some x) :
    s.arbitrate = s.grantPass x := by
  obtain ⟨refresh, urgent, turn⟩ := h
  have pass : s.tryGrant .pass = some (s.grantPass x) := by simp [State.tryGrant, hx]
  have first : (rotation s.mc.lastOfThree).findSome? s.tryGrant = some (s.grantPass x) := by
    rcases turn with hl | ⟨hl, hr⟩ | ⟨hl, hw, hr⟩ <;> rw [hl]
    · simp [rotation, pass]
    · have record : s.tryGrant .record = none := by simp [State.tryGrant, hr]
      simp [rotation, pass, record]
    · have record : s.tryGrant .record = none := by simp [State.tryGrant, hr]
      have stream : s.tryGrant .stream = none := by simp [State.tryGrant, hw]
      simp [rotation, pass, record, stream]
  unfold State.arbitrate
  rw [urgent, first, refresh]
  rfl

/-! ## What a pass transaction leaves of the port -/

@[simp] theorem beginTake_pp (s : State) : s.beginTake.pp = s.pp := by
  unfold State.beginTake; split <;> rfl

@[simp] theorem configWritten_pp (s : State) (p : Fin 2) (o : Nat) (w : Word) : (s.configWritten p o w).pp = s.pp := by
  unfold State.configWritten State.groupWritten State.windowWritten State.bindingWritten State.lampWritten
  dsimp only
  repeat' split
  all_goals simp [State.putPort]

@[simp] theorem watchWord_pp (s : State) (o : Nat) (w : Word) : (s.watchWord o w).pp = s.pp := by
  unfold State.watchWord State.postMarkWritten State.thresholdWritten
  dsimp only
  repeat' split
  all_goals simp

@[simp] theorem watchWords_pp : ∀ (ws : List WriteWord) (a : Nat) (s : State), (s.watchWords a ws).pp = s.pp
  | [], _, _ => rfl
  | w :: ws, a, s => by
    rw [State.watchWords, watchWords_pp ws]
    split
    · exact watchWord_pp _ _ _
    · rfl

@[simp] theorem count_inHand (x : PassPort) (r : Response) (b : Bool) : (x.count r b).inHand = x.inHand := by
  unfold PassPort.count; split
  · split <;> rfl
  all_goals rfl

/-- R171: what is performed answers, and puts nothing in hand. -/
theorem performPass_inHand (s : State) (x : PassTransaction) : (s.performPass x).pp.inHand = s.pp.inHand := by
  unfold State.performPass
  split
  · simp only [State.performRead, State.answer, count_inHand]
    split
    · rfl
    · split
      · rw [(engine_hostReadClaim (.refl s) _ _).pp]
      · rfl
  · have claim (f : Found) (a : Nat) (b : Bool) : (s.hostWriteClaim f a b).1.pp = s.pp :=
      (engine_hostWriteClaim (.refl s) f a b).pp
    unfold State.performPassWrite
    dsimp only
    split <;> simp only [State.answer, count_inHand, watchWords_pp]
    all_goals
      split
      · rfl
      · split
        · rw [claim]
        · rfl

@[simp] theorem grantPass_inHand (s : State) (x : PassTransaction) : (s.grantPass x).pp.inHand = none := by
  unfold State.grantPass
  rw [performPass_inHand]

/-! ## A transaction granted at once -/

/-- The state in which a granted transaction is performed, nothing being in hand. -/
def State.granted (s : State) : State := { s with mc := { s.mc with lastOfThree := .pass } }

/-- R171, R176: on a port where Pass is granted next, a transaction that needs a grant is performed at once. -/
theorem exec_passTransaction_granted {x : PassTransaction} (h : s.portReady) (hx : s.ungranted x = none) :
    exec (.passTransaction x false) s = .next (s.granted.performPass x) := by
  obtain ⟨⟨hopen, hfree⟩, next⟩ := h
  let u : State := { s with pp := { s.pp with inHand := some x } }
  have held : u.passIsNext := next
  have granted : u.grantPass x = s.granted.performPass x := by
    unfold State.grantPass State.granted
    show State.performPass { s with mc := _, pp := { s.pp with inHand := none } } x = _
    rw [← hfree]
  have turn : u.grantInTurn Config.grantPoints = s.granted.performPass x := by
    rw [Config.grantPoints, grantInTurn_succ (by simp [u]), arbitrate_of_passIsNext held rfl,
      grantInTurn_of_none (grantPass_inHand _ _), granted]
  show powered s (fun s => s.passTake x false) = _
  rw [powered, if_neg (by simp [hopen]), State.passTake, if_neg (by simp [hopen, hfree]), hx]
  exact congrArg _ turn

/-! ## What needs a grant (R169) -/

theorem base_le_bytes (s : State) : s.base ≤ s.mc.size.bytes := Nat.sub_le _ _

theorem wellShaped_length {x : PassTransaction} (h : x.wellShaped = true) : 1 ≤ x.length := by
  simp only [PassTransaction.wellShaped, Bool.and_eq_true, decide_eq_true_eq] at h
  exact h.1.1

theorem partOwnedAt_below {a : Nat} (h : a < s.base) : s.partOwnedAt a = false := by
  simp [State.partOwnedAt, Nat.not_le.2 h]

theorem ungranted_read {x : PassTransaction} {n : Nat} (hop : x.op = .read n) (hw : x.wellShaped = true)
    (hs : x.start < s.mc.size.bytes) : s.ungranted x = none := by
  simp [State.ungranted, hw, Nat.not_le.2 hs, PassTransaction.enablesNothing, isRead, hop]

theorem ungranted_write {x : PassTransaction} (hw : x.wellShaped = true) (he : x.enablesNothing = false)
    (hs : x.start < s.mc.size.bytes) (ho : s.partOwnedAt x.start = false) : s.ungranted x = none := by
  simp [State.ungranted, hw, Nat.not_le.2 hs, he, ho]

/-! ## Words without a watcher (R170) -/

theorem configWritten_unwatched (p : Fin 2) {o : Nat} (w : Word) (ho : o < 512) (h : ¬ (o < 8 ∨ (64 ≤ o ∧ o < 320))) :
    s.configWritten p o w = s := by
  unfold State.configWritten
  dsimp only
  rw [if_neg (by omega), if_neg (by omega)]
  split
  · rfl
  · split
    case h_5 => rfl
    all_goals omega

theorem watchWord_unwatched {o : Nat} (w : Word) (h : unwatched o) : s.watchWord o w = s := by
  obtain ⟨h1, h2, h3, h4, h5⟩ := h
  unfold State.watchWord
  rw [if_neg h1, if_neg h2, if_neg h3]
  split
  · exact configWritten_unwatched 0 w (by omega) (by omega)
  · split
    · exact configWritten_unwatched 1 w (by omega) (by omega)
    · rfl

/-- Words of which none is watched, or that lie below the control area, are told to nobody. -/
theorem watchWords_unwatched : ∀ (ws : List WriteWord) (a : Nat) (s : State),
    (∀ (k : Nat) (h : k < ws.length), ws[k].enables ≠ 0 → s.base ≤ a + 4 * k → unwatched (a + 4 * k - s.base)) →
    s.watchWords a ws = s
  | [], _, _, _ => rfl
  | w :: ws, a, s, h => by
    have hd : (if w.enables ≠ 0 ∧ s.base ≤ a then s.watchWord (a - s.base) (s.mem.readWord a) else s) = s := by
      split
      · next hw => exact watchWord_unwatched _ (h 0 (by simp) hw.1 hw.2)
      · rfl
    rw [State.watchWords, hd]
    refine watchWords_unwatched ws (a + 4) s fun k hk hw hb => ?_
    have := h (k + 1) (by simpa using hk) hw (by omega)
    rwa [show a + 4 * (k + 1) = a + 4 + 4 * k by omega] at this

/-- What a byte of a host write's words reads as after it. -/
theorem Memory.readByte_writeEnabledWords_inside : ∀ (ws : List WriteWord) {m : Memory} (_ : m.wf = true) (a k i : Nat)
    (hk : k < ws.length), i < 4 → (m.writeEnabledWords a ws).readByte (a + 4 * k + i) =
      if ws[k].enables.getLsbD i then ws[k].data.byte i else m.readByte (a + 4 * k + i)
  | w :: ws, m, hm, a, 0, i, _, hi => by
    rw [Memory.writeEnabledWords,
      Memory.readByte_writeEnabledWords_outside (Memory.wf_writeEnabled hm a w) _ _ _ (.inl (by omega)),
      Memory.readByte_writeEnabled hm]
    have e : a + 4 * 0 + i - a = i := by omega
    simp only [e, List.getElem_cons_zero, show a ≤ a + 4 * 0 + i ∧ a + 4 * 0 + i < a + 4 by omega, true_and]
  | w :: ws, m, hm, a, k + 1, i, hk, hi => by
    have out : (m.writeEnabled a w).readByte (a + 4 + 4 * k + i) = m.readByte (a + 4 + 4 * k + i) := by
      rw [Memory.readByte_writeEnabled hm, if_neg (by omega)]
    rw [Memory.writeEnabledWords, show a + 4 * (k + 1) + i = a + 4 + 4 * k + i by omega,
      readByte_writeEnabledWords_inside ws (Memory.wf_writeEnabled hm a w) (a + 4) k i (by simpa using hk) hi, out]
    rfl

/-! ## Plain transactions (R168 to R171) -/

theorem performPass_read {x : PassTransaction} {n : Nat} (hop : x.op = .read n) : s.performPass x = s.performRead x n := by
  unfold State.performPass; rw [hop]

theorem performPass_write {x : PassTransaction} {ws : List WriteWord} (hop : x.op = .write ws) :
    s.performPass x = s.performPassWrite x ws := by
  unfold State.performPass; rw [hop]

/-- R9, R171: a read that claims nothing returns memory's words. -/
theorem performRead_plain {x : PassTransaction} {n : Nat} (h : ∀ f, s.findRing x.start = some f → f.entry.dir = .play ∨
      ¬ (x.start ≤ f.ring.lastWord (f.ring.periodOf x.start) ∧ f.ring.lastWord (f.ring.periodOf x.start) ≤ x.lastWord)) :
    s.performRead x n = s.answer x .okay (s.mem.readWords x.start n) := by
  unfold State.performRead
  dsimp only
  split
  · rfl
  · next f hf =>
    rw [if_neg]
    rintro ⟨hd, hl⟩
    rcases h f hf with hp | hn
    · rw [hd] at hp; cases hp
    · exact hn hl

theorem answer_okay_read {x : PassTransaction} {n : Nat} (hop : x.op = .read n) (ws : List Word) :
    s.answer x .okay ws = { s with pp := { s.pp with reads := s.pp.reads + 1, answer := some ⟨.okay, ws⟩ } } := by
  simp [State.answer, PassPort.count, isRead, hop]

theorem answer_okay_write {x : PassTransaction} {ws : List WriteWord} (hop : x.op = .write ws) :
    s.answer x .okay [] = { s with pp := { s.pp with writes := s.pp.writes + 1, answer := some ⟨.okay, []⟩ } } := by
  simp [State.answer, PassPort.count, isRead, hop]

/-- R9 to R12: how a granted write is judged. -/
def State.judgeWrite (s : State) (x : PassTransaction) (ws : List WriteWord) : State × WriteVerdict :=
  match s.findRing x.start with
  | none => (s, .lands)
  | some f =>
    if f.entry.dir = .play then
      s.hostWriteClaim f x.start (touchesWord ws x.start (f.ring.lastWord (f.ring.periodOf x.start)))
    else (s, .lands)

theorem judgeWrite_of_play {x : PassTransaction} {ws : List WriteWord} {f : Found} (hf : s.findRing x.start = some f)
    (hd : f.entry.dir = .play) : s.judgeWrite x ws =
      s.hostWriteClaim f x.start (touchesWord ws x.start (f.ring.lastWord (f.ring.periodOf x.start))) := by
  unfold State.judgeWrite; rw [hf]; exact if_pos hd

theorem judgeWrite_of_plain {x : PassTransaction} {ws : List WriteWord}
    (h : ∀ f, s.findRing x.start = some f → f.entry.dir = .capture) : s.judgeWrite x ws = (s, .lands) := by
  unfold State.judgeWrite
  split
  · rfl
  · next f hf => rw [if_neg (by simp [h f hf])]

theorem performPassWrite_lands {x : PassTransaction} {ws : List WriteWord} {u : State}
    (h : s.judgeWrite x ws = (u, .lands)) : s.performPassWrite x ws =
      (({ u with mem := u.mem.writeEnabledWords x.start ws } : State).watchWords x.start ws).answer x .okay [] := by
  have hp : s.performPassWrite x ws = match (s.judgeWrite x ws).2 with
      | .dropped => (s.judgeWrite x ws).1.answer x .refused []
      | .lands => (({ (s.judgeWrite x ws).1 with mem := (s.judgeWrite x ws).1.mem.writeEnabledWords x.start ws } :
          State).watchWords x.start ws).answer x .okay [] := rfl
  rw [hp, h]

theorem performPassWrite_dropped {x : PassTransaction} {ws : List WriteWord} {u : State}
    (h : s.judgeWrite x ws = (u, .dropped)) : s.performPassWrite x ws = u.answer x .refused [] := by
  have hp : s.performPassWrite x ws = match (s.judgeWrite x ws).2 with
      | .dropped => (s.judgeWrite x ws).1.answer x .refused []
      | .lands => (({ (s.judgeWrite x ws).1 with mem := (s.judgeWrite x ws).1.mem.writeEnabledWords x.start ws } :
          State).watchWords x.start ws).answer x .okay [] := rfl
  rw [hp, h]

/-- R9, R170: a write that claims nothing, of words that nobody watches, stores its enabled bytes. -/
theorem performPassWrite_plain {x : PassTransaction} {ws : List WriteWord}
    (hw : ∀ (k : Nat) (h : k < ws.length), ws[k].enables ≠ 0 → s.base ≤ x.start + 4 * k →
      unwatched (x.start + 4 * k - s.base))
    (h : ∀ f, s.findRing x.start = some f → f.entry.dir = .capture) :
    s.performPassWrite x ws = ({ s with mem := s.mem.writeEnabledWords x.start ws } : State).answer x .okay [] := by
  rw [performPassWrite_lands (judgeWrite_of_plain h)]
  exact congrArg (State.answer · x .okay []) (watchWords_unwatched ws x.start _ hw)

end Sys2Proof.Machine

namespace Sys2Proof.Proofs

open Sys2Proof.Machine

/-- Settles O16: a plain transaction is granted at once, claims nothing and tells no watcher. -/
theorem plainTransactionsReachMemory : Obligations.PlainTransactionsReachMemory := by
  refine ⟨fun x n s hr hop hw hs hf => ?_, fun x ws s hr hm hop hw he hplace hf => ?_⟩
  · rw [exec_passTransaction_granted hr (ungranted_read hop hw hs), performPass_read hop]
    exact congrArg _ ((performRead_plain (s := s.granted) hf).trans (answer_okay_read hop _))
  · have hlen : 1 ≤ ws.length := by simpa [PassTransaction.length, hop] using wellShaped_length hw
    have hb := base_le_bytes s
    have hu : s.ungranted x = none := by
      rcases hplace with below | ⟨-, hs, ho, -⟩
      · exact ungranted_write hw he (by omega) (partOwnedAt_below (by omega))
      · exact ungranted_write hw he hs ho
    have watch : ∀ (k : Nat) (h : k < ws.length), ws[k].enables ≠ 0 → s.base ≤ x.start + 4 * k →
        unwatched (x.start + 4 * k - s.base) := by
      intro k hk hen hbk
      rcases hplace with below | ⟨-, -, -, free⟩
      · omega
      · exact free k hk hen
    have run : exec (.passTransaction x false) s = .next { s with
        mem := s.mem.writeEnabledWords x.start ws, mc := { s.mc with lastOfThree := .pass },
        pp := { s.pp with writes := s.pp.writes + 1, answer := some ⟨.okay, []⟩ } } := by
      rw [exec_passTransaction_granted hr hu, performPass_write hop]
      exact congrArg _ ((performPassWrite_plain (s := s.granted) watch hf).trans (answer_okay_write hop))
    exact ⟨_, run, rfl, fun k hk i hi => Memory.readByte_writeEnabledWords_inside ws hm _ _ _ hk hi,
      fun a ha => Memory.readByte_writeEnabledWords_outside hm _ _ _ ha⟩

end Sys2Proof.Proofs
end

-- ==== Proofs of the family 01: the host's claims on rings ====
section
/-! The host's claims on the periods of rings (R7, R9, R11, R12, R16), and where a claim is looked up (R1, R9). -/

namespace Sys2Proof.Machine

variable {s : State}

/-! ## The grant's mark does not touch a claim -/

@[simp] theorem granted_entry (s : State) (i : Fin 32) : s.granted.entry i = s.entry i := rfl

theorem granted_request (s : State) (id : RecordId) : s.granted.request id = (s.request id).granted := by
  have words : s.granted.recordWrites id = s.recordWrites id := by cases id <;> rfl
  have records : s.granted.mc.records = s.mc.records := rfl
  have phase : s.granted.phase = s.phase := rfl
  unfold State.request
  simp only [words, records, phase]
  split
  · rfl
  · cases replacePending id (s.recordWrites id) s.mc.records <;> rfl

theorem granted_loseEvent (s : State) (e : Event) : s.granted.loseEvent e = (s.loseEvent e).granted := by
  unfold State.loseEvent
  exact granted_request { s with ru := { s.ru with
    lost := satInc s.ru.lost,
    lostFaults := if e.kind.cls = .fault then satInc s.ru.lostFaults else s.ru.lostFaults } } .report

theorem granted_passEvent (s : State) (e : Event) : s.granted.passEvent e = (s.passEvent e).granted := by
  have phase : s.granted.phase = s.phase := rfl
  have ru : s.granted.ru = s.ru := rfl
  unfold State.passEvent
  rw [phase, ru]
  split
  · rfl
  · split
    · exact granted_loseEvent s e
    · rfl

theorem granted_setPeriod (s : State) (i : Fin 32) (part : RingPart) (p : Nat) (x : PeriodRec) :
    s.granted.setPeriod i part p x = (s.setPeriod i part p x).granted := by
  unfold State.setPeriod
  rw [granted_entry]
  cases s.entry i <;> rfl

/-- R12, R16: a period's claim reported. -/
theorem granted_reported (s : State) (k : EventKind) (i : Fin 32) (part : RingPart) (p : Nat) (x : PeriodRec) (w : Word) :
    (s.granted.setPeriod i part p x).periodEvent k i p w = ((s.setPeriod i part p x).periodEvent k i p w).granted := by
  rw [granted_setPeriod]; exact granted_passEvent _ _

theorem granted_fillNotice (s : State) (i : Fin 32) (p : Nat) :
    s.granted.fillNotice i p = (s.fillNotice i p).granted := by
  have stream : s.granted.stream i = s.stream i := rfl
  unfold State.fillNotice
  rw [stream]
  dsimp only
  split <;> rfl

theorem granted_lateWrite (s : State) (f : Found) (p : Nat) (rec : PeriodRec) (a : Nat) :
    s.granted.lateWrite f p rec a = (s.lateWrite f p rec a).granted := by
  unfold State.lateWrite
  dsimp only
  split
  · rfl
  · exact granted_reported (s.setStream _ _) _ _ _ _ _ _

theorem granted_hostWriteClaim (s : State) (f : Found) (a : Nat) (b : Bool) :
    s.granted.hostWriteClaim f a b = ((s.hostWriteClaim f a b).1.granted, (s.hostWriteClaim f a b).2) := by
  unfold State.hostWriteClaim
  dsimp only
  split
  · rfl
  · split
    · split
      · rw [granted_setPeriod]
        split
        · rw [granted_fillNotice]
        · rfl
      · rfl
    · rw [granted_lateWrite]
    · rfl

theorem granted_hostReadClaim (s : State) (f : Found) (a : Nat) :
    s.granted.hostReadClaim f a = (s.hostReadClaim f a).granted := by
  unfold State.hostReadClaim
  dsimp only
  split
  · rfl
  · split
    · exact granted_setPeriod _ _ _ _ _
    · split
      · rfl
      · exact granted_reported (s.setStream _ _) _ _ _ _ _ _
    · rfl

/-! ## What a claim leaves -/

theorem setPeriod_of_none {i : Fin 32} (h : s.entry i = none) (part : RingPart) (p : Nat) (x : PeriodRec) :
    s.setPeriod i part p x = s := by
  unfold State.setPeriod; rw [h]

/-- R7: releasing a retiring ring that holds nothing unfinished. -/
theorem release_eq (e : RingEntry) : e.release = { e with retiring := e.retiring.filter (·.holdsUnfinished) } := by
  have same (r : Ring) : r.periods.any (·.state.unfinished) = r.holdsUnfinished := by
    refine List.any_congr rfl fun q => ?_
    cases q.state <;> rfl
  obtain ⟨dir, notify, late, current, pending, retiring⟩ := e
  unfold RingEntry.release
  cases retiring with
  | none => rfl
  | some r =>
    simp only [same, Option.filter_some]
    split <;> rfl

theorem setPeriod_of_entry {i : Fin 32} {e : RingEntry} (h : s.entry i = some e) (part : RingPart) (p : Nat)
    (x : PeriodRec) : s.setPeriod i part p x = s.setEntry i (some (e.claimed part p x)) := by
  unfold State.setPeriod
  rw [h]
  refine congrArg (fun f => s.setEntry i (some f)) ?_
  rw [release_eq]
  cases part <;> rfl

/-- A period's change touches the directory alone. -/
theorem setPeriod_frame (s : State) (i : Fin 32) (part : RingPart) (p : Nat) (x : PeriodRec) :
    s.setPeriod i part p x = { s with rw := (s.setPeriod i part p x).rw } := by
  cases h : s.entry i with
  | none => rw [setPeriod_of_none h]
  | some e => rw [setPeriod_of_entry h]; rfl

/-- R11: the fill notice marks a starved stream at that period. -/
theorem fillNotice_of_awaits {i : Fin 32} {p : Nat} (h : (s.stream i).awaitsFill = true ∧ (s.stream i).period = p) :
    s.fillNotice i p = s.setStream i { s.stream i with resumeMark := true } := if_pos h

theorem fillNotice_of_not {i : Fin 32} {p : Nat} (h : ¬ ((s.stream i).awaitsFill = true ∧ (s.stream i).period = p)) :
    s.fillNotice i p = s := if_neg h

theorem awaitsFill_iff (x : Stream) :
    x.awaitsFill = true ↔ x.state = .starved ∨ (x.state = .primed ∧ x.starved ≠ none) := by
  simp [Stream.awaitsFill, Option.isSome_iff_ne_none]

theorem fillNotice_mem (s : State) (i : Fin 32) (p : Nat) : (s.fillNotice i p).mem = s.mem := by
  unfold State.fillNotice; dsimp only; split <;> rfl

theorem fillNotice_mc (s : State) (i : Fin 32) (p : Nat) : (s.fillNotice i p).mc = s.mc := by
  unfold State.fillNotice; dsimp only; split <;> rfl

/-! ## A granted claim (R9, R171) -/

theorem lastWord_length (x : PassTransaction) : x.lastWord = x.start + 4 * (x.length - 1) := rfl

/-- R9, R11: a write below the control area whose claim lets it land. -/
theorem exec_ringWrite_lands {w : HostWrite} {f : Found} {u : State} (hr : s.portReady) (hw : w.waits = false)
    (hs : w.transaction.wellShaped = true) (he : w.transaction.enablesNothing = false)
    (hb : w.transaction.lastWord < s.base) (hf : s.findRing w.transaction.start = some f) (hd : f.entry.dir = .play)
    (hc : s.hostWriteClaim f w.transaction.start
      (touchesWord w.words w.transaction.start (f.ring.lastWord (f.ring.periodOf w.transaction.start))) = (u, .lands))
    (hm : u.mc.size = s.mc.size) : exec (.playbackRingWrite w) s = .next { u with
      mem := u.mem.writeEnabledWords w.transaction.start w.words, mc := { u.mc with lastOfThree := .pass },
      pp := { u.pp with writes := u.pp.writes + 1, answer := some ⟨.okay, []⟩ } } := by
  have hlen : w.transaction.length = w.words.length := rfl
  have hl := lastWord_length w.transaction
  have hub : u.base = s.base := base_of_size hm
  have hu : s.ungranted w.transaction = none :=
    ungranted_write hs he (by have := base_le_bytes s; omega) (partOwnedAt_below (by omega))
  have judged : s.granted.judgeWrite w.transaction w.words = (u.granted, .lands) := by
    rw [judgeWrite_of_play (s := s.granted) hf hd, granted_hostWriteClaim, hc]
  have run : exec (.playbackRingWrite w) s = exec (.passTransaction w.transaction false) s := by rw [← hw]; rfl
  rw [run, exec_passTransaction_granted hr hu, performPass_write rfl, performPassWrite_lands judged,
    watchWords_unwatched _ _ _ (fun k hk _ hbk => ?_), answer_okay_write rfl]
  · rfl
  · have : s.base ≤ w.transaction.start + 4 * k := hub ▸ hbk
    omega

/-- R12: a write below the control area that its claim drops. -/
theorem exec_ringWrite_dropped {w : HostWrite} {f : Found} {u : State} (hr : s.portReady) (hw : w.waits = false)
    (hs : w.transaction.wellShaped = true) (he : w.transaction.enablesNothing = false)
    (hb : w.transaction.lastWord < s.base) (hf : s.findRing w.transaction.start = some f) (hd : f.entry.dir = .play)
    (hc : s.hostWriteClaim f w.transaction.start
      (touchesWord w.words w.transaction.start (f.ring.lastWord (f.ring.periodOf w.transaction.start))) = (u, .dropped)) :
    exec (.playbackRingWrite w) s = .next { u with
      mc := { u.mc with lastOfThree := .pass },
      pp := { u.pp with refused := satInc u.pp.refused, answer := some ⟨.refused, []⟩ } } := by
  have hl := lastWord_length w.transaction
  have hu : s.ungranted w.transaction = none :=
    ungranted_write hs he (by have := base_le_bytes s; omega) (partOwnedAt_below (by omega))
  have judged : s.granted.judgeWrite w.transaction w.words = (u.granted, .dropped) := by
    rw [judgeWrite_of_play (s := s.granted) hf hd, granted_hostWriteClaim, hc]
  have run : exec (.playbackRingWrite w) s = exec (.passTransaction w.transaction false) s := by rw [← hw]; rfl
  rw [run, exec_passTransaction_granted hr hu, performPass_write rfl, performPassWrite_dropped judged]
  rfl

/-- R9, R16: a read of a capture ring that covers the last word of its period claims the period. -/
theorem exec_ringRead_claims {r : HostRead} {f : Found} (hr : s.portReady) (hw : r.waits = false)
    (hs : r.transaction.wellShaped = true) (hb : r.transaction.start < s.mc.size.bytes)
    (hf : s.findRing r.transaction.start = some f) (hd : f.entry.dir = .capture)
    (h1 : r.transaction.start ≤ f.ring.lastWord (f.ring.periodOf r.transaction.start))
    (h2 : f.ring.lastWord (f.ring.periodOf r.transaction.start) ≤ r.transaction.lastWord) :
    let u := s.hostReadClaim f r.transaction.start
    exec (.captureRingRead r) s = .next { u with
      mc := { u.mc with lastOfThree := .pass },
      pp := { u.pp with reads := u.pp.reads + 1,
                        answer := some ⟨.okay, s.mem.readWords r.transaction.start r.length⟩ } } := by
  have run : exec (.captureRingRead r) s = exec (.passTransaction r.transaction false) s := by rw [← hw]; rfl
  have found : s.granted.findRing r.transaction.start = some f := hf
  dsimp only
  rw [run, exec_passTransaction_granted hr (ungranted_read rfl hs hb), performPass_read rfl, State.performRead, found]
  dsimp only
  rw [if_pos ⟨hd, h1, h2⟩, granted_hostReadClaim, answer_okay_read rfl]
  rfl

/-! ## The claims by the period's state (R11, R12, R16) -/

theorem hostWriteClaim_of_empty {f : Found} {a : Nat} {rec : PeriodRec} (b : Bool)
    (hp : f.ring.period (f.ring.periodOf a) = some rec) (h : rec.state = .empty) :
    s.hostWriteClaim f a b = (if b then
        let t := s.setPeriod f.stream f.part (f.ring.periodOf a) { rec with state := .filled }
        if f.part = .current then t.fillNotice f.stream (f.ring.periodOf a) else t
      else s, .lands) := by
  unfold State.hostWriteClaim
  simp only [hp, h]
  split <;> rfl

theorem hostWriteClaim_of_filled {f : Found} {a : Nat} {rec : PeriodRec} (b : Bool)
    (hp : f.ring.period (f.ring.periodOf a) = some rec) (h : rec.state = .filled) :
    s.hostWriteClaim f a b = (s, .lands) := by
  unfold State.hostWriteClaim; simp only [hp, h]

theorem hostWriteClaim_of_playing {f : Found} {a : Nat} {rec : PeriodRec} (b : Bool)
    (hp : f.ring.period (f.ring.periodOf a) = some rec) (h : rec.state = .playing) :
    s.hostWriteClaim f a b =
      (s.lateWrite f (f.ring.periodOf a) rec a, if f.entry.late = .block then .dropped else .lands) := by
  unfold State.hostWriteClaim; simp only [hp, h]

/-- The stream with one late write more (R12). -/
def Stream.countLate (x : Stream) : Stream :=
  { x with counters := { x.counters with lateWrites := satInc x.counters.lateWrites } }

/-- The stream with one early read more (R16). -/
def Stream.countEarly (x : Stream) : Stream :=
  { x with counters := { x.counters with earlyReads := satInc x.counters.earlyReads } }

/-- R12, R16: a claim that comes too soon or too late counts at the stream, and is reported once a period. -/
def State.countedClaim (s : State) (k : EventKind) (x : Stream) (f : Found) (p : Nat) (rec : PeriodRec) (a : Nat) : State :=
  if rec.reported then s.setStream f.stream x
  else ((s.setStream f.stream x).setPeriod f.stream f.part p { rec with reported := true }).periodEvent k f.stream p (nat32 a)

theorem lateWrite_eq (f : Found) (p : Nat) (rec : PeriodRec) (a : Nat) :
    s.lateWrite f p rec a = s.countedClaim .lateWrite (s.stream f.stream).countLate f p rec a := rfl

theorem hostReadClaim_of_ready {f : Found} {a : Nat} {rec : PeriodRec}
    (hp : f.ring.period (f.ring.periodOf a) = some rec) (h : rec.state = .ready) :
    s.hostReadClaim f a = s.setPeriod f.stream f.part (f.ring.periodOf a) { rec with state := .free } := by
  unfold State.hostReadClaim; simp only [hp, h]

theorem hostReadClaim_of_free {f : Found} {a : Nat} {rec : PeriodRec}
    (hp : f.ring.period (f.ring.periodOf a) = some rec) (h : rec.state = .free) : s.hostReadClaim f a = s := by
  unfold State.hostReadClaim; simp only [hp, h]

theorem hostReadClaim_of_filling {f : Found} {a : Nat} {rec : PeriodRec}
    (hp : f.ring.period (f.ring.periodOf a) = some rec) (h : rec.state = .filling) :
    s.hostReadClaim f a = s.countedClaim .earlyRead (s.stream f.stream).countEarly f (f.ring.periodOf a) rec a := by
  obtain ⟨st, reported⟩ := rec
  cases h
  unfold State.hostReadClaim; simp only [hp]; rfl

theorem streamStamp_of_geom {t : State} {i : Fin 32} (hg : (t.stream i).geom = (s.stream i).geom)
    (hc : t.cb = s.cb) : t.streamStamp i = s.streamStamp i := by
  unfold State.streamStamp State.stampOf State.domain
  rw [hg, hc]

/-- What a counted claim leaves: the stream counted, the report, and nothing else. -/
structure CountedClaim (s t : State) (k : EventKind) (x : Stream) (f : Found) (p : Nat) (rec : PeriodRec) (a : Nat) :
    Prop where
  stream : t.stream f.stream = x
  others : ∀ i, i ≠ f.stream → t.stream i = s.stream i
  quiet : rec.reported = true → t.rw = s.rw ∧ t.ru = s.ru ∧ t.mc.records = s.mc.records
  report : rec.reported = false →
    let v := (s.setStream f.stream x).setPeriod f.stream f.part p { rec with reported := true }
    let e := Event.plain k f.stream.val (s.streamStamp f.stream) (fields [(0, p)]) (nat32 a)
    t.rw = v.rw ∧ t.ru = (v.passEvent e).ru ∧ t.mc.records = (v.passEvent e).mc.records
  mem : t.mem = s.mem
  pp : t.pp = s.pp
  rest : t.cb = s.cb ∧ t.li = s.li ∧ t.si = s.si ∧ t.mu = s.mu ∧ t.cu = s.cu ∧ t.mclk = s.mclk
  size : t.mc.size = s.mc.size

theorem countedClaim_leaves (k : EventKind) {x : Stream} {f : Found} (hg : x.geom = (s.stream f.stream).geom) (p : Nat)
    (rec : PeriodRec) (a : Nat) : CountedClaim s (s.countedClaim k x f p rec a) k x f p rec a := by
  have others (i : Fin 32) (hi : i ≠ f.stream) : (s.setStream f.stream x).stream i = s.stream i :=
    State.stream_setStream_of_ne s x (Ne.symm hi)
  unfold State.countedClaim
  split
  · next h =>
    exact ⟨by simp, others, fun _ => ⟨rfl, rfl, rfl⟩, fun hn => by simp [h] at hn, rfl, rfl,
      ⟨rfl, rfl, rfl, rfl, rfl, rfl⟩, rfl⟩
  · next h =>
    generalize hv : (s.setStream f.stream x).setPeriod f.stream f.part p { rec with reported := true } = v
    have frame : v = { s.setStream f.stream x with rw := v.rw } := by rw [← hv]; exact setPeriod_frame _ _ _ _ _
    have stream (i : Fin 32) : v.stream i = (s.setStream f.stream x).stream i := by rw [frame]; rfl
    have stamp : v.streamStamp f.stream = s.streamStamp f.stream :=
      streamStamp_of_geom (by rw [stream]; simpa using hg) (by rw [frame]; rfl)
    refine ⟨by simp [stream], fun i hi => by simp [stream, others i hi], fun hn => by simp [h] at hn, fun _ => ?_,
      by rw [State.periodEvent_mem, frame]; rfl, by rw [State.periodEvent_pp, frame]; rfl,
      ⟨by rw [State.periodEvent_cb, frame]; rfl, by rw [State.periodEvent_li, frame]; rfl,
        by rw [State.periodEvent_si, frame]; rfl, by rw [State.periodEvent_mu, frame]; rfl,
        by rw [State.periodEvent_cu, frame]; rfl, by rw [State.periodEvent_mclk, frame]; rfl⟩,
      by rw [State.periodEvent_mc_size, frame]; rfl⟩
    dsimp only
    rw [hv, State.periodEvent_rw, State.periodEvent, stamp]
    exact ⟨rfl, rfl, rfl⟩

/-! ## Looking a ring up (R1, R9) -/

theorem touchesWord_iff (ws : List WriteWord) (a addr : Nat) :
    touchesWord ws a addr = true ↔ ∃ (k : Nat) (h : k < ws.length), ws[k].enables ≠ 0 ∧ a + 4 * k = addr := by
  induction ws generalizing a with
  | nil => simp [touchesWord]
  | cons w ws ih =>
    simp only [touchesWord, Bool.or_eq_true, Bool.and_eq_true, beq_iff_eq, bne_iff_ne, ih]
    constructor
    · rintro (⟨ha, he⟩ | ⟨k, hk, he, ha⟩)
      · exact ⟨0, by simp, he, by omega⟩
      · exact ⟨k + 1, by simpa using hk, he, by omega⟩
    · rintro ⟨k, hk, he, ha⟩
      cases k with
      | zero => exact .inl ⟨by omega, he⟩
      | succ k => exact .inr ⟨k, by simpa using hk, he, by omega⟩

theorem contains_iff (r : Ring) (a : Nat) :
    r.contains a = true ↔ r.base ≤ a ∧ a < r.base + r.frames * r.channels * 4 * r.periods.length := by
  rw [Ring.contains, Bool.and_eq_true, decide_eq_true_iff, decide_eq_true_iff]
  rfl

/-- R9: the part of an entry that an address lies in holds the address, and where none does no ring holds it. -/
theorem partOf_some {e : RingEntry} {a : Nat} {part : RingPart} (h : e.partOf a = some part) :
    ∃ r, e.ring part = some r ∧ r.contains a = true := by
  unfold RingEntry.partOf at h
  split at h
  · next hc => cases h; exact ⟨_, rfl, hc⟩
  · split at h
    · next hc =>
      cases h
      obtain ⟨r, hr, hc⟩ := (Option.any_eq_true _ _).1 hc
      exact ⟨r, hr, hc⟩
    · split at h
      · next hc =>
        cases h
        obtain ⟨r, hr, hc⟩ := (Option.any_eq_true _ _).1 hc
        exact ⟨r, hr, hc⟩
      · cases h

theorem partOf_none {e : RingEntry} {a : Nat} : e.partOf a = none ↔ ∀ r ∈ e.rings, ¬ r.contains a = true := by
  have holds {o : Option Ring} : o.any (·.contains a) = true ↔ ∃ r, o = some r ∧ r.contains a = true :=
    Option.any_eq_true _ _
  have first {c : Prop} [Decidable c] {p : RingPart} {o : Option RingPart} :
      (if c then some p else o) = none ↔ ¬ c ∧ o = none := by split <;> simp [*]
  simp only [RingEntry.partOf, mem_rings, first, holds, and_true]
  constructor
  · rintro ⟨h1, h2, h3⟩ r (rfl | hr | hr)
    exacts [h1, fun h => h2 ⟨r, hr, h⟩, fun h => h3 ⟨r, hr, h⟩]
  · exact fun h => ⟨h _ (.inl rfl), fun ⟨r, hr, hc⟩ => h r (.inr (.inl hr)) hc, fun ⟨r, hr, hc⟩ => h r (.inr (.inr hr)) hc⟩

/-- R9: what an entry answers for an address. -/
def foundAt (a : Nat) (i : Fin 32) (e : RingEntry) : Option Found :=
  match e.partOf a with
  | none => none
  | some part => (e.ring part).map (fun r => ⟨i, part, r, e⟩)

theorem foundAt_none {a : Nat} {i : Fin 32} {e : RingEntry} : foundAt a i e = none ↔ e.partOf a = none := by
  unfold foundAt
  cases h : e.partOf a with
  | none => simp
  | some part =>
    obtain ⟨r, hr, -⟩ := partOf_some h
    simp [hr]

theorem findRing_eq (s : State) (a : Nat) :
    s.findRing a = (indices 32).findSome? (fun i => (s.entry i).bind (foundAt a i)) := by
  unfold State.findRing
  congr 1
  funext i
  cases s.entry i <;> rfl

theorem findRing_none (s : State) (a : Nat) :
    s.findRing a = none ↔ ∀ i e, s.entry i = some e → ∀ r ∈ e.rings, ¬ r.contains a = true := by
  rw [findRing_eq, List.findSome?_eq_none_iff]
  constructor
  · intro h i e he
    have hi := h i (List.mem_finRange i)
    rw [he] at hi
    exact partOf_none.1 (foundAt_none.1 hi)
  · intro h i _
    cases he : s.entry i with
    | none => rfl
    | some e => exact foundAt_none.2 (partOf_none.2 (h i e he))

theorem findRing_some {a : Nat} {f : Found} (h : s.findRing a = some f) :
    s.entry f.stream = some f.entry ∧ f.ring.contains a = true ∧ f.entry.ring f.part = some f.ring := by
  rw [findRing_eq] at h
  obtain ⟨i, -, hi⟩ := List.exists_of_findSome?_eq_some h
  obtain ⟨e, he, hf⟩ := Option.bind_eq_some_iff.1 hi
  unfold foundAt at hf
  split at hf
  · cases hf
  · next part hp =>
    obtain ⟨r, hr, hc⟩ := partOf_some hp
    rw [hr] at hf
    cases hf
    exact ⟨he, hc, hr⟩

end Sys2Proof.Machine

namespace Sys2Proof.Proofs

open Sys2Proof.Machine

/-- R9, R11: a host write into an EMPTY or a FILLED period. -/
theorem ringWrite_of_ready (w : HostWrite) (s : State) (f : Found) (rec : PeriodRec) (hr : s.portReady)
    (hw : w.waits = false) (hs : w.transaction.wellShaped = true) (he : w.transaction.enablesNothing = false)
    (hb : w.transaction.lastWord < s.base) (hf : s.findRing w.transaction.start = some f) (hd : f.entry.dir = .play)
    (hp : f.ring.period (f.ring.periodOf w.transaction.start) = some rec) (hst : rec.state = .empty ∨ rec.state = .filled) :
    let touched := rec.state = .empty ∧ touchesWord w.words w.transaction.start (f.ring.lastWord (f.ring.periodOf w.transaction.start)) = true
    let u := if touched then
        let v := s.setPeriod f.stream f.part (f.ring.periodOf w.transaction.start) { rec with state := .filled }
        if f.part = .current then v.fillNotice f.stream (f.ring.periodOf w.transaction.start) else v
      else s
    exec (.playbackRingWrite w) s = .next { u with
      mem := s.mem.writeEnabledWords w.transaction.start w.words, mc := { s.mc with lastOfThree := .pass },
      pp := { s.pp with writes := s.pp.writes + 1, answer := some ⟨.okay, []⟩ } } := by
  intro touched u
  have claim : s.hostWriteClaim f w.transaction.start
      (touchesWord w.words w.transaction.start (f.ring.lastWord (f.ring.periodOf w.transaction.start))) = (u, .lands) := by
    rcases hst with h | h
    · rw [hostWriteClaim_of_empty _ hp h]
      simp only [u, touched, h, true_and]
    · rw [hostWriteClaim_of_filled _ hp h]
      simp only [u, touched, h, reduceCtorEq, false_and, if_false]
  have frame : u.mem = s.mem ∧ u.mc = s.mc ∧ u.pp = s.pp := by
    have period := setPeriod_frame s f.stream f.part (f.ring.periodOf w.transaction.start) { rec with state := .filled }
    have pp := (engine_hostWriteClaim (.refl s) f w.transaction.start
      (touchesWord w.words w.transaction.start (f.ring.lastWord (f.ring.periodOf w.transaction.start)))).pp
    rw [claim] at pp
    refine ⟨?_, ?_, pp⟩ <;> dsimp only [u] <;> split
    · split
      · rw [fillNotice_mem, period]
      · rw [period]
    · rfl
    · split
      · rw [fillNotice_mc, period]
      · rw [period]
    · rfl
  obtain ⟨hmem, hmc, hpp⟩ := frame
  rw [exec_ringWrite_lands hr hw hs he hb hf hd claim (by rw [hmc]), hmem, hmc, hpp]

/-- R12: a host write into a PLAYING period is late. -/
theorem ringWrite_of_playing (w : HostWrite) (s : State) (f : Found) (rec : PeriodRec) (hr : s.portReady)
    (hw : w.waits = false) (hs : w.transaction.wellShaped = true) (he : w.transaction.enablesNothing = false)
    (hb : w.transaction.lastWord < s.base) (hf : s.findRing w.transaction.start = some f) (hd : f.entry.dir = .play)
    (hp : f.ring.period (f.ring.periodOf w.transaction.start) = some rec) (hst : rec.state = .playing) :
    ∃ t, exec (.playbackRingWrite w) s = .next t ∧
      CountedClaim s { t with mem := s.mem, pp := s.pp } .lateWrite (s.stream f.stream).countLate f
        (f.ring.periodOf w.transaction.start) rec w.transaction.start ∧
      (f.entry.late = .block → t.mem = s.mem ∧ t.pp.refused = satInc s.pp.refused ∧ t.pp.answer = some ⟨.refused, []⟩) ∧
      (f.entry.late = .land → t.mem = s.mem.writeEnabledWords w.transaction.start w.words ∧
        t.pp.writes = s.pp.writes + 1 ∧ t.pp.answer = some ⟨.okay, []⟩) := by
  have claim := hostWriteClaim_of_playing (s := s)
    (touchesWord w.words w.transaction.start (f.ring.lastWord (f.ring.periodOf w.transaction.start))) hp hst
  rw [lateWrite_eq] at claim
  have leaves := countedClaim_leaves (s := s) .lateWrite (x := (s.stream f.stream).countLate) (f := f) rfl
    (f.ring.periodOf w.transaction.start) rec w.transaction.start
  generalize s.countedClaim .lateWrite (s.stream f.stream).countLate f (f.ring.periodOf w.transaction.start) rec
    w.transaction.start = u at claim leaves
  have marked (v : State) (hv : v = { u with mem := v.mem, pp := v.pp, mc := { u.mc with lastOfThree := .pass } }) :
      CountedClaim s { v with mem := s.mem, pp := s.pp } .lateWrite (s.stream f.stream).countLate f
        (f.ring.periodOf w.transaction.start) rec w.transaction.start := by
    rw [hv]
    exact ⟨leaves.stream, leaves.others, leaves.quiet, leaves.report, rfl, rfl, leaves.rest, leaves.size⟩
  cases hl : f.entry.late with
  | block =>
    refine ⟨_, exec_ringWrite_dropped hr hw hs he hb hf hd (by rw [claim, if_pos hl]), marked _ rfl,
      fun _ => ⟨leaves.mem, ?_, rfl⟩, fun h => nomatch h⟩
    rw [leaves.pp]
  | land =>
    refine ⟨_, exec_ringWrite_lands hr hw hs he hb hf hd (by rw [claim, if_neg (by simp [hl])]) leaves.size, marked _ rfl,
      (fun h => nomatch h), fun _ => ⟨by rw [leaves.mem], by rw [leaves.pp], rfl⟩⟩

/-- Settles O19: by the state of the period that the address lies in. -/
theorem hostClaimsFollowThePeriod : Obligations.HostClaimsFollowThePeriod := by
  refine ⟨ringWrite_of_ready, ?_, ?_, ?_, ?_, ?_, ?_⟩
  · intro w s f rec hr hw hs he hb hf hd hp hst
    obtain ⟨t, run, leaves, block, land⟩ := ringWrite_of_playing w s f rec hr hw hs he hb hf hd hp hst
    obtain ⟨cb, li, si, mu, cu, mclk⟩ := leaves.rest
    exact ⟨t, run, leaves.stream, block, land, leaves.quiet, leaves.report, cb, li, si, mu, cu, mclk, leaves.others⟩
  · intro r s f rec hr hw hs hb hf hd p hp h1 h2
    have run := exec_ringRead_claims hr hw hs hb hf hd h1 h2
    refine ⟨fun hst => ?_, fun hst => ?_, fun hst => ?_⟩
    · rw [run, hostReadClaim_of_ready hp hst, setPeriod_frame]
    · rw [run, hostReadClaim_of_free hp hst]
    · rw [hostReadClaim_of_filling hp hst] at run
      have leaves := countedClaim_leaves (s := s) .earlyRead (x := (s.stream f.stream).countEarly) (f := f) rfl p rec
        r.transaction.start
      obtain ⟨cb, li, si, mu, cu, mclk⟩ := leaves.rest
      exact ⟨_, run, leaves.stream, leaves.mem, by dsimp only; rw [leaves.pp], leaves.quiet, leaves.report, cb, li, si, mu,
        cu, mclk, leaves.others⟩
  · intro s i p x awaits
    have iff : awaits ↔ ((s.stream i).awaitsFill = true ∧ (s.stream i).period = p) := by rw [awaitsFill_iff]
    exact ⟨fun h => fillNotice_of_awaits (iff.1 h), fun h => fillNotice_of_not (mt iff.2 h)⟩
  · intro s a covers
    refine ⟨by simp only [findRing_none, contains_iff, covers], fun f hf => ?_⟩
    obtain ⟨entry, holds, ring⟩ := findRing_some hf
    refine ⟨entry, (contains_iff _ _).1 holds, ?_⟩
    cases hpart : f.part <;> rw [hpart] at ring
    · exact (Option.some.inj ring).symm
    · exact ring
    · exact ring
  · exact fun r a p addr ws => ⟨rfl, rfl, rfl, touchesWord_iff ws a addr⟩
  · exact fun s i part p x => ⟨fun h => setPeriod_of_none h _ _ _, fun e h => setPeriod_of_entry h _ _ _⟩

end Sys2Proof.Proofs
end

-- ==== Proofs of the family 01: HRSTn ====
section
/-! HRSTn asserted and released (R144, R167, R180 to R182). -/

namespace Sys2Proof.Machine

/-! ## A port's record after a host reset (R144) -/

theorem lamp_motor_ne (i f : Fin 16) : (motorItem i).val ≠ (lampItem f).val := by simp only [motorItem, lampItem]; omega
theorem ladder_motor_ne (i f : Fin 16) : (motorItem i).val ≠ (ladderItem f).val := by
  simp only [motorItem, ladderItem]; omega

/-- What freeing the motors of `l` leaves: FREE motors, with RELEASE pending on an UP port for those that were not. -/
structure FreedMotors (l : List (Fin 16)) (x y : Port) : Prop where
  rest : y = { x with motors := y.motors, dirty := y.dirty }
  motors : ∀ f : Fin 16, y.motors[f] = if f ∈ l ∧ x.motors[f].state ≠ .free then ⟨.free, none⟩ else x.motors[f]
  dirty : ∀ f : Fin 16, y.dirty[motorItem f] =
    if f ∈ l ∧ x.up = true ∧ x.motors[f].state ≠ .free then .release else x.dirty[motorItem f]
  lamps : ∀ f : Fin 16, y.dirty[lampItem f] = x.dirty[lampItem f]
  ladders : ∀ f : Fin 16, y.dirty[ladderItem f] = x.dirty[ladderItem f]

theorem freedMotors_one (x : Port) (i : Fin 16) : FreedMotors [i] x (x.motorFree i) := by
  by_cases h : x.motors[i].state = .free
  · have e : x.motorFree i = x := if_pos h
    have none (f : Fin 16) (hf : f ∈ [i]) : x.motors[f].state = .free := List.mem_singleton.1 hf ▸ h
    rw [e]
    exact ⟨rfl, fun f => (if_neg fun ⟨hf, hs⟩ => hs (none f hf)).symm,
      fun f => (if_neg fun ⟨hf, _, hs⟩ => hs (none f hf)).symm, fun _ => rfl, fun _ => rfl⟩
  · have e : x.motorFree i = ({ x with motors := x.motors.set i ⟨.free, none⟩ } : Port).mark (motorItem i) .release :=
      if_neg h
    have motors (f : Fin 16) : (x.motors.set i ⟨.free, none⟩)[f] =
        if f ∈ [i] ∧ x.motors[f].state ≠ .free then (⟨.free, none⟩ : Motor) else x.motors[f] := by
      by_cases hf : i = f
      · subst hf; simpa using fun hs => absurd hs h
      · have : i.val ≠ f.val := fun hv => hf (Fin.ext hv)
        simp [Ne.symm hf, this]
    rw [e]
    unfold Port.mark
    split
    · next hu =>
      refine ⟨rfl, motors, fun f => ?_, fun f => ?_, fun f => ?_⟩
      · by_cases hf : i = f
        · subst hf; simp_all
        · have : (motorItem i).val ≠ (motorItem f).val := fun hv => hf (motorItem_inj (Fin.ext hv))
          simp [this, Ne.symm hf]
      · simp [lamp_motor_ne]
      · simp [ladder_motor_ne]
    · next hu => exact ⟨rfl, motors, fun f => by simp_all, fun _ => rfl, fun _ => rfl⟩

theorem freedMotors_trans {l m : List (Fin 16)} {x y z : Port} (a : FreedMotors l x y) (b : FreedMotors m y z) :
    FreedMotors (l ++ m) x z := by
  have up : y.up = x.up := by rw [a.rest]
  refine ⟨by rw [b.rest, a.rest], fun f => ?_, fun f => ?_, fun f => by rw [b.lamps, a.lamps],
    fun f => by rw [b.ladders, a.ladders]⟩
  · rw [b.motors, a.motors]
    simp only [List.mem_append]
    generalize x.motors[f] = motor
    by_cases hl : f ∈ l <;> by_cases hs : motor.state = .free <;> simp [hl, hs]
  · rw [b.dirty, a.dirty, a.motors, up]
    simp only [List.mem_append]
    generalize x.motors[f] = motor
    by_cases hl : f ∈ l <;> by_cases hs : motor.state = .free <;> simp [hl, hs]

theorem freedMotors_foldl : ∀ (l : List (Fin 16)) (x : Port), FreedMotors l x (l.foldl (fun (y : Port) i => y.motorFree i) x)
  | [], x => ⟨rfl, fun f => by simp, fun f => by simp, fun _ => rfl, fun _ => rfl⟩
  | i :: l, x => freedMotors_trans (freedMotors_one x i) (freedMotors_foldl l _)

/-- What setting the window states of the faders of `l` leaves. -/
structure SetWindows (l : List (Fin 16)) (x y : Port) : Prop where
  rest : y = { x with faders := y.faders }
  faders : ∀ f : Fin 16, y.faders[f] =
    if f ∈ l then { x.faders[f] with window := windowOf x.mirrors.windows[f] x.faders[f].position } else x.faders[f]

theorem setWindows_foldl : ∀ (l : List (Fin 16)) (x : Port), SetWindows l x (l.foldl Port.setWindowState x)
  | [], x => ⟨rfl, fun f => by simp⟩
  | i :: l, x => by
    have ih := setWindows_foldl l (x.setWindowState i)
    refine ⟨by rw [List.foldl_cons, ih.rest]; rfl, fun f => ?_⟩
    have one : (x.setWindowState i).faders[f] =
        if f = i then { x.faders[f] with window := windowOf x.mirrors.windows[f] x.faders[f].position } else x.faders[f] := by
      by_cases hf : i = f
      · subst hf; simp [Port.setWindowState]
      · have : i.val ≠ f.val := fun hv => hf (Fin.ext hv)
        simp [Port.setWindowState, this, Ne.symm hf]
    have mirrors : (x.setWindowState i).mirrors = x.mirrors := rfl
    rw [List.foldl_cons, ih.faders, one, mirrors]
    by_cases hl : f ∈ l <;> by_cases hf : f = i <;> simp [hl, hf]

/-- R144: a mirror of zero holds the position 0 alone. -/
theorem windowOf_zero (f : Fin 16) (p : BitVec 10) :
    windowOf Mirrors.zero.windows[f] p = if p = 0 then .inside else .outside := by
  have least : (0 : BitVec 10) ≤ p := by simp [BitVec.le_def]
  have most : p ≤ 0 ↔ p = 0 := by simp [BitVec.le_def, BitVec.toNat_eq]
  simp only [windowOf, Mirrors.zero, Fin.getElem_fin, Vector.getElem_replicate, least, most, true_and]
  rfl

/-- R144 steps 1 and 2. -/
theorem hostReset_surface (x : Port) : surfaceResetOf x x.hostReset := by
  have freed := freedMotors_foldl (indices 16) x
  have all (f : Fin 16) : f ∈ indices 16 := List.mem_finRange f
  unfold Port.hostReset
  dsimp only
  generalize (indices 16).foldl (fun (y : Port) i => y.motorFree i) x = y at freed ⊢
  have set := setWindows_foldl (indices 16) { y with mirrors := Mirrors.zero, diverged := Vector.replicate 16 false, ladders := Vector.replicate 16 0 }
  generalize (indices 16).foldl Port.setWindowState _ = z at set ⊢
  have faders : y.faders = x.faders := by rw [freed.rest]
  have motors : z.motors = y.motors := by rw [set.rest]
  have dirty : z.dirty = y.dirty := by rw [set.rest]
  refine ⟨?_, fun f => ⟨?_, ?_, ?_, ?_, ?_⟩⟩
  · rw [set.rest, freed.rest]
  · rw [motors, freed.motors]
    generalize x.motors[f] = motor
    by_cases h : motor.state = .free <;> simp [all, h]
  · rw [set.faders, if_pos (all f)]
    simp only [faders, windowOf_zero]
  · rw [dirty, freed.dirty]
    simp [all]
  · rw [dirty, freed.lamps]
  · rw [dirty, freed.ladders]

/-! ## The blocks (R180) -/

variable {s : State}

theorem resetSurfaces_port (s : State) (p : Fin 2) : s.resetSurfaces.port p = (s.port p).hostReset.draw := by
  have two : s.resetSurfaces = (s.setPort 0 (s.port 0).hostReset.draw).setPort 1 (s.port 1).hostReset.draw := by
    rw [← State.port_setPort_of_ne s (s.port 0).hostReset.draw (show (0 : Fin 2) ≠ 1 by decide)]
    rfl
  rw [two]
  match p with
  | 0 => rw [State.port_setPort_of_ne _ _ (by decide), State.port_setPort_self]
  | 1 => rw [State.port_setPort_self]

/-- R144: the surfaces' reset changes the ports alone. -/
theorem resetSurfaces_frame (s : State) : s.resetSurfaces = { s with si := s.resetSurfaces.si } := rfl

theorem resetLanes_lane (s : State) (l : Fin 8) : s.resetLanes.lane l = (s.lane l).emptyQueue := by
  simp [State.resetLanes, State.lane]

theorem resetStreams_lane (s : State) (l : Fin 8) : s.resetStreams.lane l = { s.lane l with
    outbound := Vector.replicate 4 OutPlace.empty, inbound := [], lateOut := true, lateIn := true } := by
  simp [State.resetStreams, State.lane]

theorem resetMeters_window (s : State) (l : Fin 8) : s.resetMeters.window l = { s.window l with events := [] } := by
  simp [State.resetMeters, State.window]

theorem resetMeters_watch (s : State) (l : Fin 8) (i : Fin 64) : s.resetMeters.watch l i = SlotWatch.powerOn := by
  simp [State.resetMeters, State.watch]

/-- What the blocks' reset starts from: the directory, the Cue Unit, the Report Unit and the port cleared. -/
def State.clearedBlocks (s : State) : State := { s with
  phase := .hostReset, rw := Vector.replicate 32 none, cu := CueUnit.powerOn, ru := ReportUnit.hostReset,
  pp := { PassPort.powerOn with answer := s.pp.answer },
  mc := { s.mc with scrubNext := none, records := abandon s.mc.records } }

theorem resetBlocks_eq (s : State) :
    s.resetBlocks = s.clearedBlocks.resetStreams.resetLanes.resetSurfaces.resetMeters := rfl

/-- R180, R182: the reset of the blocks leaves what the rules say of each. -/
theorem resetBlocks_hostResetOf (h : s.hrstn = true) : hostResetOf s s.resetBlocks := by
  let v := s.clearedBlocks.resetStreams.resetLanes
  have lane (l : Fin 8) : v.lane l = ({ s.lane l with
      outbound := Vector.replicate 4 OutPlace.empty, inbound := [], lateOut := true, lateIn := true } : Lane).emptyQueue := by
    rw [resetLanes_lane, resetStreams_lane]; rfl
  refine ⟨rfl, h, rfl, rfl, rfl, rfl, resetBlocks_entry s, fun i => ?_, fun dir l => ?_, rfl, lane, rfl, fun p => ?_,
    resetMeters_window v.resetSurfaces, resetMeters_watch v.resetSurfaces, rfl, rfl⟩
  · show StreamEngine.powerOn.streams[i] = _
    simp [StreamEngine.powerOn]
  · cases dir
    · show StreamEngine.powerOn.playMaps[l] = _
      simp [StreamEngine.powerOn]
    · show StreamEngine.powerOn.captureMaps[l] = _
      simp [StreamEngine.powerOn]
  · exact ⟨_, hostReset_surface (s.port p), resetSurfaces_port v p⟩

/-! ## HRSTN_ASSERT (R180 step 1, R182) -/

theorem exec_hrstnAssert_opened (h : s.phase = .opened) :
    exec .hrstnAssert s = .next ({ s with hrstn := true } : State).finishInHand.resetBlocks := by
  simp only [exec, execHrstnAssert, h]

theorem exec_hrstnAssert_resetting (h : s.phase = .hostReset ∨ s.phase = .hostScrub ∨ s.phase = .hostRecords) :
    exec .hrstnAssert s = .next ({ s with hrstn := true } : State).resetBlocks := by
  rcases h with h | h | h <;> simp only [exec, execHrstnAssert, h]

theorem exec_hrstnAssert_starting (h : s.phase = .bringUp ∨ s.phase = .scrub ∨ s.phase = .records) :
    exec .hrstnAssert s = .next { s with hrstn := true } := by
  rcases h with h | h | h <;> simp only [exec, execHrstnAssert, h]

theorem finishInHand_of_none (h : s.pp.inHand = none) : s.finishInHand = s := by
  unfold State.finishInHand; dsimp only; rw [grantInTurn_of_none h, h]

/-- R180 step 1: the transaction in hand goes through the arbitration points up to its grant, or is granted at the last. -/
theorem finishInHand_point (s : State) : ∃ n ≤ Config.grantPoints,
    (∀ k < n, (State.arbitrate^[k] s).pp.inHand ≠ none) ∧
    (((State.arbitrate^[n] s).pp.inHand = none ∧ s.finishInHand = State.arbitrate^[n] s) ∨
      (n = Config.grantPoints ∧ ∃ x, (State.arbitrate^[n] s).pp.inHand = some x ∧
        s.finishInHand = (State.arbitrate^[n] s).grantPass x)) := by
  obtain ⟨n, hn, e, before, after⟩ := grantInTurn_point Config.grantPoints s
  refine ⟨n, hn, before, ?_⟩
  unfold State.finishInHand
  rw [e]
  cases hx : (State.arbitrate^[n] s).pp.inHand with
  | none => exact .inl ⟨rfl, by dsimp only; rw [hx]⟩
  | some x =>
    refine .inr ⟨?_, x, rfl, by dsimp only; rw [hx]⟩
    by_contra hne
    rw [after (by omega)] at hx
    cases hx

theorem finishInHand_of_next {x : PassTransaction} (h : s.passIsNext) (hx : s.pp.inHand = some x) :
    s.finishInHand = s.grantPass x := by
  have turn : s.grantInTurn Config.grantPoints = s.grantPass x := by
    rw [Config.grantPoints, grantInTurn_succ (by simp [hx]), arbitrate_of_passIsNext h hx,
      grantInTurn_of_none (grantPass_inHand _ _)]
  unfold State.finishInHand
  dsimp only
  rw [turn, grantPass_inHand]

theorem point_hrstn (n : Nat) (s : State) : (State.arbitrate^[n] s).hrstn = s.hrstn := by
  induction n generalizing s with
  | zero => rfl
  | succ n ih => exact (ih s.arbitrate).trans (arbiter_arbitrate s).hrstn

end Sys2Proof.Machine

namespace Sys2Proof.Proofs

open Sys2Proof.Machine

/-- Settles O14: the blocks reset behind the grant of what was in hand. -/
theorem hrstnResetsTheBlocks : Obligations.HrstnResetsTheBlocks := by
  refine ⟨⟨fun s h => ?_, fun s ho hx => ?_, fun s x ho hx hr hu hl => ?_, fun s => exec_hrstnAssert_starting⟩,
    fun s h => ?_, fun s h => ?_⟩
  · have reset : hostResetOf s ({ s with hrstn := true } : State).resetBlocks :=
      resetBlocks_hostResetOf (s := { s with hrstn := true }) rfl
    rcases h with ⟨ho, hn⟩ | h
    · refine ⟨_, exec_hrstnAssert_opened ho, ?_⟩
      rw [finishInHand_of_none (s := { s with hrstn := true }) hn]
      exact reset
    · exact ⟨_, exec_hrstnAssert_resetting h, reset⟩
  · obtain ⟨n, hn, before, granted⟩ := finishInHand_point { s with hrstn := true }
    have pin : (State.arbitrate^[n] { s with hrstn := true }).hrstn = true := point_hrstn n _
    refine ⟨n, hn, before, _, exec_hrstnAssert_opened ho, ?_⟩
    rcases granted with ⟨free, e⟩ | ⟨last, x, hand, e⟩ <;> rw [e]
    · exact .inl ⟨free, resetBlocks_hostResetOf pin⟩
    · exact .inr ⟨last, x, hand, resetBlocks_hostResetOf ((arbiter_grantPass _ x).hrstn.trans pin)⟩
  · refine ⟨_, exec_hrstnAssert_opened ho, ?_⟩
    rw [finishInHand_of_next (s := { s with hrstn := true }) ⟨hr, hu, hl⟩ hx]
    exact resetBlocks_hostResetOf (arbiter_grantPass _ x).hrstn
  · simp only [exec, execHrstnRelease, h, if_true]
  · simp only [exec, execHrstnRelease, h, if_false]

end Sys2Proof.Proofs
end

-- ==== Proofs of the family 01: the acceptance of a START_STREAM ====
section
/-! The stage entry of a stream, the geometry taken from it, and the acceptance of a START_STREAM (R3, R4, R20, R23 to R25,
R103, R186). -/

namespace Sys2Proof.Machine

/-! ## The codes of a stage entry (R185) -/

/-- A field of two codes reads as what its code names. -/
theorem twoCodes_iff {α : Type} {b : Byte} {x y z : α} :
    (if b = 1 then some x else if b = 2 then some y else none) = some z ↔ (z = x ∧ b = 1) ∨ (z = y ∧ b = 2) := by
  split
  · next h => simp [h, eq_comm]
  · next h1 =>
    split
    · next h => simp [h, eq_comm]
    · next h2 => exact ⟨(fun h => nomatch h), fun h => h.elim (fun h => absurd h.2 h1) (fun h => absurd h.2 h2)⟩

theorem directionOfCode_iff {b : Byte} {d : Direction} :
    Direction.ofCode b = some d ↔ (d = .play ∧ b = 1) ∨ (d = .capture ∧ b = 2) := twoCodes_iff

theorem playPolicyOfCode_iff {b : Byte} {p : StreamPolicy} :
    StreamPolicy.ofCode .play b = some p ↔ (p = .keepTime ∧ b = 1) ∨ (p = .keepData ∧ b = 2) := twoCodes_iff

theorem capturePolicyOfCode_iff {b : Byte} {p : StreamPolicy} :
    StreamPolicy.ofCode .capture b = some p ↔ (p = .dropNew ∧ b = 1) ∨ (p = .reclaim ∧ b = 2) := twoCodes_iff

theorem lateOfCode_iff {b : Byte} {p : LatePolicy} :
    LatePolicy.ofCode b = some p ↔ (p = .land ∧ b = 1) ∨ (p = .block ∧ b = 2) := twoCodes_iff

/-! ## The geometry of a valid stage (R20) -/

theorem shapeInRange_iff (g : StreamStage) : g.shapeInRange = true ↔ 16 ≤ g.frames.toNat ∧ g.frames.toNat ≤ 4096 ∧
    g.frames.toNat % 16 = 0 ∧ 2 ≤ g.count.toNat ∧ g.count.toNat ≤ 16 := by
  simp only [StreamStage.shapeInRange, Bool.and_eq_true, decide_eq_true_eq, beq_iff_eq, and_assoc]

theorem ringFits_iff (cb base channels frames count : Nat) : ringFits cb base channels frames count = true ↔
    base % 64 = 0 ∧ base + frames * channels * 4 * count ≤ cb := by
  simp only [ringFits, Bool.and_eq_true, decide_eq_true_eq, beq_iff_eq]

/-- R20: the ranges of a stage read on a lane of capacity `cap`. -/
def StreamStage.inRanges (g : StreamStage) (cb cap : Nat) : Prop :=
  1 ≤ g.channels.toNat ∧ g.channels.toNat ≤ 64 ∧ g.firstSlot.toNat + g.channels.toNat ≤ cap ∧ g.shapeInRange = true ∧
    ringFits cb g.base.toNat g.channels.toNat g.frames.toNat g.count.toNat = true

/-- R20: the geometry that a stage gives, its direction and policies read. -/
def StreamStage.taken (g : StreamStage) (l : Fin 8) (d : Fin 4) (dir : Direction) (policy : StreamPolicy)
    (late : Option LatePolicy) : Geometry :=
  { dir := dir, lane := l, domain := d, firstSlot := g.firstSlot.toNat, channels := g.channels.toNat,
    base := g.base.toNat, frames := g.frames.toNat, count := g.count.toNat, policy := policy, late := late,
    notify := g.notify }

/-- R12, R20: the late-write policy a stage gives: a capture ring has none. -/
def StreamStage.lateFor (g : StreamStage) : Direction → Option LatePolicy
  | .play => LatePolicy.ofCode g.late
  | .capture => none

theorem geometry_iff {g : StreamStage} {cb cap : Nat} {l : Fin 8} {d : Fin 4} {y : Geometry} :
    g.geometry cb l d cap = some y ↔ ∃ dir policy, Direction.ofCode g.dir = some dir ∧
      StreamPolicy.ofCode dir g.policy = some policy ∧ ¬ (dir = .play ∧ LatePolicy.ofCode g.late = none) ∧
      g.inRanges cb cap ∧ y = g.taken l d dir policy (g.lateFor dir) := by
  constructor
  · intro h
    unfold StreamStage.geometry at h
    split at h
    · cases h
    · next dir hd =>
      split at h
      · cases h
      · next policy hp =>
        split at h
        · cases h
        · next hl =>
          split at h
          · next hr =>
            cases h
            exact ⟨dir, policy, hd, hp, hl, hr, by cases dir <;> rfl⟩
          · cases h
  · rintro ⟨dir, policy, hd, hp, hl, hr, rfl⟩
    unfold StreamStage.geometry
    simp only [hd, hp]
    rw [if_neg hl]
    exact (if_pos hr).trans (by cases dir <;> rfl)

/-- R20, R3: the geometry that a valid stage gives, field by field. -/
theorem geometry_fields_iff {g : StreamStage} {cb cap : Nat} {l : Fin 8} {d : Fin 4} {y : Geometry} :
    g.geometry cb l d cap = some y ↔
      ((y.dir = .play ∧ g.dir = 1 ∧ (y.policy = .keepTime ∧ g.policy = 1 ∨ y.policy = .keepData ∧ g.policy = 2) ∧
          (y.late = some .land ∧ g.late = 1 ∨ y.late = some .block ∧ g.late = 2)) ∨
        (y.dir = .capture ∧ g.dir = 2 ∧ (y.policy = .dropNew ∧ g.policy = 1 ∨ y.policy = .reclaim ∧ g.policy = 2) ∧
          y.late = none)) ∧ g.inRanges cb cap ∧ y = g.taken l d y.dir y.policy y.late := by
  rw [geometry_iff]
  constructor
  · rintro ⟨dir, policy, hd, hp, hl, hr, rfl⟩
    refine ⟨?_, hr, rfl⟩
    rcases directionOfCode_iff.1 hd with ⟨rfl, code⟩ | ⟨rfl, code⟩
    · obtain ⟨late, hlate⟩ := Option.ne_none_iff_exists'.1 fun h => hl ⟨rfl, h⟩
      refine .inl ⟨rfl, code, playPolicyOfCode_iff.1 hp, ?_⟩
      show (LatePolicy.ofCode g.late = _ ∧ _) ∨ (LatePolicy.ofCode g.late = _ ∧ _)
      rw [hlate, Option.some_inj, Option.some_inj]
      exact lateOfCode_iff.1 hlate
    · exact .inr ⟨rfl, code, capturePolicyOfCode_iff.1 hp, rfl⟩
  · rintro ⟨⟨hdir, hd, hp, hl⟩ | ⟨hdir, hd, hp, hl⟩, hr, hy⟩
    · have late : LatePolicy.ofCode g.late = y.late := by
        rcases hl with ⟨hl, hc⟩ | ⟨hl, hc⟩ <;> rw [hl]
        · exact lateOfCode_iff.2 (.inl ⟨rfl, hc⟩)
        · exact lateOfCode_iff.2 (.inr ⟨rfl, hc⟩)
      refine ⟨.play, y.policy, directionOfCode_iff.2 (.inl ⟨rfl, hd⟩), playPolicyOfCode_iff.2 hp, ?_, hr, ?_⟩
      · rintro ⟨-, hn⟩
        rw [late] at hn
        rcases hl with ⟨hl, -⟩ | ⟨hl, -⟩ <;> rw [hn] at hl <;> cases hl
      · rw [StreamStage.lateFor, late, ← hdir]; exact hy
    · refine ⟨.capture, y.policy, directionOfCode_iff.2 (.inr ⟨rfl, hd⟩), capturePolicyOfCode_iff.2 hp,
        (fun h => nomatch h.1), hr, ?_⟩
      rw [StreamStage.lateFor, ← hl, ← hdir]; exact hy

/-! ## Acceptance (R24) -/

variable {s : State}

theorem changing_iff (x : Domain) : x.changing = true ↔
    (∃ c, x.candidate = some c ∧ (c.family ≠ x.family ∨ c.mult ≠ x.mult)) ∨
      ∃ r, x.rateChange = some r ∧ r.mult ≠ x.mult := by
  simp only [Domain.changing, Bool.or_eq_true, Option.any_eq_true, bne_iff_ne]

theorem holdsSlot_iff (g : Geometry) (j : Nat) : g.holdsSlot j = true ↔ g.firstSlot ≤ j ∧ j < g.firstSlot + g.channels := by
  simp only [Geometry.holdsSlot, Bool.and_eq_true, decide_eq_true_eq]

theorem slotsTaken_iff (s : State) (g : Geometry) : s.slotsTaken g = true ↔
    ∃ j : Fin 64, g.firstSlot ≤ j.val ∧ j.val < g.firstSlot + g.channels ∧ (s.slotMap g.dir g.lane)[j] ≠ none := by
  simp only [State.slotsTaken, List.any_eq_true, indices, List.mem_finRange, true_and, Bool.and_eq_true, holdsSlot_iff,
    Option.isSome_iff_ne_none, and_assoc]

theorem overlapsRing_iff (s : State) (base size : Nat) : s.overlapsRing base size = true ↔
    ∃ k e, s.entry k = some e ∧ ∃ r ∈ e.rings, rangesOverlap base size r.base r.bytes = true := by
  simp only [State.overlapsRing, List.any_eq_true, indices, List.mem_finRange, true_and]
  refine exists_congr fun k => ?_
  cases s.entry k <;> simp

@[simp] theorem slotMap_setSlotMap_self (s : State) (dir : Direction) (l : Fin 8) (m : SlotMap) :
    (s.setSlotMap dir l m).slotMap dir l = m := by
  cases dir <;> simp [State.setSlotMap, State.slotMap]

/-- R4, R23, R25: what acceptance leaves before its live record is asked for. -/
def State.accepted (s : State) (i : Fin 32) (g : Geometry) (start : Word) : State :=
  ((s.setEntry i (some {
    dir := g.dir, notify := g.notify, late := g.late.getD .land,
    current := Ring.fresh g.dir g.base g.channels g.frames g.count, pendingRing := none, retiring := none })).enterSlots
      i g).setStream i { Stream.powerOn with state := .primed, geom := some g, start := some ⟨start, true⟩, next := start }

section
variable {i : Fin 32} {stage : StreamStage} {l : Fin 8} {d : Fin 4} {start : Word}

theorem acceptStart_wrongState (h : (s.stream i).state ≠ .idle) :
    s.acceptStart i stage l d start = .error .wrongState := if_pos h

theorem acceptStart_badStage (h : (s.stream i).state = .idle) (hg : stage.geometry s.base l d (s.capacity l) = none) :
    s.acceptStart i stage l d start = .error .badStage := by
  unfold State.acceptStart
  rw [if_neg (not_not.2 h), hg]

/-- The checks behind the stage's, in order (R24). -/
theorem acceptStart_checks {g : Geometry} (h : (s.stream i).state = .idle)
    (hg : stage.geometry s.base l d (s.capacity l) = some g) :
    s.acceptStart i stage l d start =
      if (s.lane l).state ≠ .up then .error .laneNotUp
      else if (s.domain d).changing then .error .busy
      else if s.slotsTaken g then .error .slotConflict
      else if s.overlapsRing g.base (g.frames * g.channels * 4 * g.count) then .error .ringOverlap
      else .ok ((s.accepted i g start).request (.live i)) := by
  unfold State.acceptStart
  rw [if_neg (not_not.2 h), hg]
  simp only [State.enterRing, fresh_base, fresh_bytes]
  split
  · rfl
  · split
    · rfl
    · split
      · rfl
      · cases s.overlapsRing g.base (g.frames * g.channels * 4 * g.count) <;> rfl

end

theorem accepted_frame (s : State) (i : Fin 32) (g : Geometry) (start : Word) :
    (s.accepted i g start).mem = s.mem ∧ (s.accepted i g start).cb = s.cb ∧ (s.accepted i g start).li = s.li ∧
      (s.accepted i g start).ru = s.ru ∧ (s.accepted i g start).mc = s.mc ∧ (s.accepted i g start).cu = s.cu := by
  simp [State.accepted, State.enterSlots]

theorem accepted_others (s : State) {i k : Fin 32} (hk : k ≠ i) (g : Geometry) (start : Word) :
    (s.accepted i g start).entry k = s.entry k ∧ (s.accepted i g start).stream k = s.stream k := by
  unfold State.accepted State.enterSlots
  rw [State.setStream_entry, State.setSlotMap_entry, State.entry_setEntry_of_ne _ _ hk.symm,
    State.stream_setStream_of_ne _ _ hk.symm, State.setSlotMap_stream, State.setEntry_stream]
  exact ⟨rfl, rfl⟩

theorem accepted_slots (s : State) (i : Fin 32) (g : Geometry) (start : Word) (j : Fin 64) :
    ((s.accepted i g start).slotMap g.dir g.lane)[j] =
      if g.firstSlot ≤ j.val ∧ j.val < g.firstSlot + g.channels then some i else (s.slotMap g.dir g.lane)[j] := by
  have map : (s.accepted i g start).slotMap g.dir g.lane =
      Vector.ofFn (fun j => if g.holdsSlot j.val then some i else (s.slotMap g.dir g.lane)[j]) := by
    show State.slotMap (State.setSlotMap _ g.dir g.lane _) g.dir g.lane = _
    rw [slotMap_setSlotMap_self]
    rfl
  rw [map, Fin.getElem_fin, Vector.getElem_ofFn]
  exact if_congr (holdsSlot_iff g j.val) rfl rfl

end Sys2Proof.Machine

namespace Sys2Proof.Proofs

open Sys2Proof.Machine

/-- Settles O32: the stage read, its geometry, and the checks in order. -/
theorem startAcceptanceChecksInOrder : Obligations.StartAcceptanceChecksInOrder := by
  refine ⟨fun s i l => ⟨?_, fun h => ?_, fun d h => ?_⟩, fun g cb cap l d y => ?_, fun s i stage l d start =>
    ⟨acceptStart_wrongState, acceptStart_badStage, fun g hi hg => ?_⟩⟩
  · simp only [State.streamStage, Word.byte, Nat.mul_zero, Nat.mul_one, Nat.add_zero, Nat.reduceMul]
  · unfold State.capacity; rw [h]
  · unfold State.capacity; rw [h]
    show slotCapacity (s.domain d).mult = _
    cases (s.domain d).mult <;> rfl
  · rw [geometry_fields_iff]
    refine and_congr_right fun _ => ?_
    obtain ⟨dir, lane, domain, first, channels, base, frames, count, policy, late, notify⟩ := y
    simp only [StreamStage.inRanges, shapeInRange_iff, ringFits_iff, StreamStage.taken, Geometry.mk.injEq, true_and]
    constructor
    · rintro ⟨⟨h1, h2, h3, ⟨h4, h5, h6, h7, h8⟩, h9, h10⟩, rfl, rfl, rfl, rfl, rfl, rfl, rfl, rfl⟩
      exact ⟨rfl, rfl, rfl, rfl, rfl, rfl, rfl, rfl, h1, h2, h3, h4, h5, h6, h7, h8, h9, h10⟩
    · rintro ⟨rfl, rfl, rfl, rfl, rfl, rfl, rfl, rfl, h1, h2, h3, h4, h5, h6, h7, h8, h9, h10⟩
      exact ⟨⟨h1, h2, h3, ⟨h4, h5, h6, h7, h8⟩, h9, h10⟩, rfl, rfl, rfl, rfl, rfl, rfl, rfl, rfl⟩
  · have lane : g.lane = l := by
      obtain ⟨dir, policy, -, -, -, -, rfl⟩ := geometry_iff.1 hg
      rfl
    subst lane
    simp only [acceptStart_checks hi hg, ← changing_iff, ← slotsTaken_iff, ← overlapsRing_iff]
    refine ⟨fun up => by simp [up], fun up c => by simp [up, c], fun up c t => by simp [up, c, t],
      fun up c t o => by simp [up, c, t, o], fun up c t o => ?_⟩
    refine ⟨s.accepted i g start, by simp [up, c, t, o], ?_, fun k hk => accepted_others s hk g start, ?_,
      accepted_slots s i g start, accepted_frame s i g start⟩
    · simp [State.accepted, State.enterSlots]
    · simp [State.accepted]

end Sys2Proof.Proofs
end

-- ==== Proofs of the family 01: streams that leave and streams that halt ====
section
/-! A stream that becomes IDLE, and what a lane's FAULT makes of its streams (R8, R42 to R44). -/

namespace Sys2Proof.Machine

variable {s : State}

/-! ## Silence in the staged frames (R42, R43) -/

/-- A staged frame with the slots of `g` at zero and stream `i` no longer noted. -/
def OutPlace.silenced (pl : OutPlace) (g : Geometry) (i : Fin 32) : OutPlace :=
  { slots := Vector.ofFn (fun j => if g.holdsSlot j.val then 0 else pl.slots[j]),
    carries := pl.carries.filter (fun c => c.stream != i) }

theorem silenced_slots (pl : OutPlace) (g : Geometry) (i : Fin 32) (j : Fin 64) : (pl.silenced g i).slots[j] =
    if g.firstSlot ≤ j.val ∧ j.val < g.firstSlot + g.channels then 0 else pl.slots[j] := by
  rw [OutPlace.silenced, Fin.getElem_fin, Vector.getElem_ofFn]
  exact if_congr (holdsSlot_iff g j.val) rfl rfl

section
variable {i : Fin 32} {g : Geometry}

theorem silenced_place (v : Vector OutPlace 4) (k : Fin 4) : (v.map (·.silenced g i))[k] = v[k].silenced g i := by
  simp

theorem silence_of_capture (hg : (s.stream i).geom = some g) (hd : g.dir = .capture) : s.silence i = s := by
  unfold State.silence; rw [hg]; exact if_pos hd

theorem silence_of_play (hg : (s.stream i).geom = some g) (hd : g.dir = .play) :
    s.silence i = s.setLane g.lane { s.lane g.lane with
      outbound := (s.lane g.lane).outbound.map (·.silenced g i) } := by
  unfold State.silence; rw [hg]; exact if_neg (by simp [hd])

/-- Only the lanes change. -/
theorem silence_frame (s : State) (i : Fin 32) : s.silence i = { s with li := (s.silence i).li } := by
  unfold State.silence
  split
  · rfl
  · split <;> rfl

theorem silence_slots (hg : (s.stream i).geom = some g) (l : Fin 8) (k : Fin 4) (j : Fin 64) :
    ((s.silence i).lane l).outbound[k].slots[j] =
      if g.dir = .play ∧ l = g.lane ∧ g.firstSlot ≤ j.val ∧ j.val < g.firstSlot + g.channels then 0
        else (s.lane l).outbound[k].slots[j] := by
  cases hd : g.dir with
  | capture => rw [silence_of_capture hg hd, if_neg (by simp)]
  | play =>
    rw [silence_of_play hg hd]
    by_cases hl : l = g.lane
    · subst hl
      rw [State.lane_setLane_self, silenced_place, silenced_slots]
      simp only [true_and]
    · rw [State.lane_setLane_of_ne _ _ (Ne.symm hl), if_neg (by simp [hl])]

theorem silence_carries (hg : (s.stream i).geom = some g) (hd : g.dir = .play) (k : Fin 4) :
    ((s.silence i).lane g.lane).outbound[k].carries =
      (s.lane g.lane).outbound[k].carries.filter (fun c => c.stream != i) := by
  rw [silence_of_play hg hd, State.lane_setLane_self, silenced_place]
  rfl

theorem silence_lane_of_ne (hg : (s.stream i).geom = some g) {l : Fin 8} (hl : l ≠ g.lane) :
    (s.silence i).lane l = s.lane l := by
  cases hd : g.dir with
  | capture => rw [silence_of_capture hg hd]
  | play => rw [silence_of_play hg hd, State.lane_setLane_of_ne _ _ (Ne.symm hl)]

theorem silence_inbound (hg : (s.stream i).geom = some g) (l : Fin 8) :
    ((s.silence i).lane l).inbound = (s.lane l).inbound ∧ ((s.silence i).lane l).state = (s.lane l).state := by
  by_cases hl : l = g.lane
  · subst hl
    cases hd : g.dir with
    | capture => rw [silence_of_capture hg hd]; exact ⟨rfl, rfl⟩
    | play => rw [silence_of_play hg hd, State.lane_setLane_self]; exact ⟨rfl, rfl⟩
  · rw [silence_lane_of_ne hg hl]; exact ⟨rfl, rfl⟩

/-! ## Leaving the slot map (R42) -/

theorem slotMap_setSlotMap (s : State) (dir k : Direction) (l m : Fin 8) (x : SlotMap) :
    (s.setSlotMap dir l x).slotMap k m = if k = dir ∧ m = l then x else s.slotMap k m := by
  by_cases hm : m = l
  · subst hm
    cases dir <;> cases k <;> simp [State.setSlotMap, State.slotMap]
  · have hv : l.val ≠ m.val := fun e => hm (Fin.ext e).symm
    cases dir <;> cases k <;> simp [State.setSlotMap, State.slotMap, hm, hv]

theorem clearSlots_of_geom (hg : (s.stream i).geom = some g) : s.clearSlots i =
    s.setSlotMap g.dir g.lane ((s.slotMap g.dir g.lane).map (fun x => if x = some i then none else x)) := by
  unfold State.clearSlots; rw [hg]

theorem clearSlots_slots (hg : (s.stream i).geom = some g) (dir : Direction) (l : Fin 8) (j : Fin 64) :
    ((s.clearSlots i).slotMap dir l)[j] =
      if dir = g.dir ∧ l = g.lane ∧ (s.slotMap dir l)[j] = some i then none else (s.slotMap dir l)[j] := by
  rw [clearSlots_of_geom hg, slotMap_setSlotMap]
  by_cases h : dir = g.dir ∧ l = g.lane
  · obtain ⟨rfl, rfl⟩ := h
    simp
  · rw [if_neg h, if_neg (fun hn => h ⟨hn.1, hn.2.1⟩)]

end

/-! ## Becoming IDLE (R42) -/

/-- R42: what becoming IDLE leaves before it is reported. -/
def State.left (s : State) (i : Fin 32) : State :=
  (((s.silence i).clearSlots i).removeEntry i).setStream i (s.stream i).idled

theorem becomeIdle_eq (s : State) (i : Fin 32) (how : StopHow) : s.becomeIdle i how =
    ((s.left i).request (.live i)).passEvent (s.ofStream .streamStopped i (fields [(0, how.code)])
      (match (s.stream i).lastFrame with | none => 0 | some n => n)
      ((s.stream i).swapDropped || (s.stream i).swap.isSome) (s.stream i).lastFrame.isSome) := by
  cases hl : (s.stream i).lastFrame <;> simp only [State.becomeIdle, hl] <;> rfl

theorem left_engineOnly (s : State) (i : Fin 32) : EngineOnly s (s.left i) := by
  unfold State.left
  exact engine_setStream (engine_removeEntry (engine_clearSlots (engine_silence (.refl s) i) i) i) i _

/-- Leaving changes the engine, the directory and the lanes alone. -/
theorem left_frame (s : State) (i : Fin 32) :
    (s.left i).mem = s.mem ∧ (s.left i).ru = s.ru ∧ (s.left i).mc = s.mc ∧ (s.left i).li = (s.silence i).li := by
  have clear (u : State) : (u.clearSlots i).mem = u.mem ∧ (u.clearSlots i).ru = u.ru ∧ (u.clearSlots i).mc = u.mc ∧
      (u.clearSlots i).li = u.li := by
    unfold State.clearSlots
    split <;> simp
  obtain ⟨mem, ru, mc, li⟩ := clear (s.silence i)
  unfold State.left State.removeEntry
  simp only [State.setStream_mem, State.setStream_ru, State.setStream_mc, State.setStream_li, State.setEntry_mem,
    State.setEntry_ru, State.setEntry_mc, State.setEntry_li, mem, ru, mc, li, and_true]
  rw [silence_frame]
  exact ⟨rfl, rfl, rfl⟩

section
variable {i j : Fin 32}

theorem left_stream_self (s : State) (i : Fin 32) : (s.left i).stream i =
    { Stream.powerOn with counters := (s.stream i).counters, resumeMark := (s.stream i).resumeMark } := by
  rw [State.left, State.stream_setStream_self]; rfl

theorem left_stream_of_ne (hj : j ≠ i) : (s.left i).stream j = s.stream j := by
  have clear (u : State) : (u.clearSlots i).stream j = u.stream j := by
    unfold State.clearSlots; split <;> simp
  rw [State.left, State.stream_setStream_of_ne _ _ hj.symm, State.removeEntry, State.setEntry_stream, clear, silence_frame]
  rfl

theorem left_entry_self (s : State) (i : Fin 32) : (s.left i).entry i = none := by
  rw [State.left, State.setStream_entry, State.removeEntry, State.entry_setEntry_self]

theorem left_entry_of_ne (hj : j ≠ i) : (s.left i).entry j = s.entry j := by
  have clear (u : State) : (u.clearSlots i).entry j = u.entry j := by
    unfold State.clearSlots; split <;> simp
  rw [State.left, State.setStream_entry, State.removeEntry, State.entry_setEntry_of_ne _ _ hj.symm, clear, silence_frame]
  rfl

theorem left_slots {g : Geometry} (hg : (s.stream i).geom = some g) (dir : Direction) (l : Fin 8) (n : Fin 64) :
    ((s.left i).slotMap dir l)[n] =
      if dir = g.dir ∧ l = g.lane ∧ (s.slotMap dir l)[n] = some i then none else (s.slotMap dir l)[n] := by
  have hg' : ((s.silence i).stream i).geom = some g := by rw [silence_frame]; exact hg
  have map : (s.silence i).slotMap dir l = s.slotMap dir l := by rw [silence_frame]; rfl
  have clear := clearSlots_slots hg' dir l n
  rw [map] at clear
  exact clear

theorem left_outbound {g : Geometry} (hg : (s.stream i).geom = some g) (l : Fin 8) (k : Fin 4) (n : Fin 64) :
    ((s.left i).lane l).outbound[k].slots[n] =
      if g.dir = .play ∧ l = g.lane ∧ g.firstSlot ≤ n.val ∧ n.val < g.firstSlot + g.channels then 0
        else (s.lane l).outbound[k].slots[n] := by
  have lane : (s.left i).lane l = (s.silence i).lane l := by unfold State.lane; rw [(left_frame s i).2.2.2]
  rw [lane]
  exact silence_slots hg l k n

end

/-! ## A lane's FAULT (R43) -/

/-- R43: what halting leaves before it is reported. -/
def State.halted (s : State) (i : Fin 32) : State :=
  (s.silence i).setStream i { s.stream i with state := .halted, words := 0 }

theorem active_iff (x : StreamState) : x.active = true ↔ x ≠ .idle ∧ x ≠ .halted := by
  cases x <;> simp [StreamState.active]

theorem haltStream_of_inactive {i : Fin 32} (h : (s.stream i).state = .idle ∨ (s.stream i).state = .halted) :
    s.haltStream i = s := by
  have inactive : ¬ (s.stream i).state.active = true := fun ha => by
    obtain ⟨h1, h2⟩ := (active_iff _).1 ha
    exact h.elim h1 h2
  unfold State.haltStream
  dsimp only
  split
  · rfl
  · exact if_neg inactive

theorem halted_stamp {i : Fin 32} : (s.halted i).streamStamp i = s.streamStamp i := by
  refine streamStamp_of_geom ?_ ?_
  · rw [State.halted, State.stream_setStream_self]
  · rw [State.halted, State.setStream_cb, silence_frame]

theorem haltStream_of_active {i : Fin 32} {g : Geometry} (hg : (s.stream i).geom = some g)
    (h : (s.stream i).state.active = true) : s.haltStream i = ((s.halted i).request (.live i)).passEvent
      (s.ofStream .streamHalted i (fields [(0, (s.stream i).state.code)]) (nat32 g.lane.val) false false) := by
  have event : (s.halted i).streamEvent .streamHalted i (fields [(0, (s.stream i).state.code)]) (nat32 g.lane.val) =
      s.ofStream .streamHalted i (fields [(0, (s.stream i).state.code)]) (nat32 g.lane.val) false false := by
    rw [State.streamEvent, halted_stamp]; rfl
  unfold State.haltStream
  dsimp only
  rw [hg]
  dsimp only
  rw [if_pos h, ← event, ← hg]
  rfl

theorem streamsOn_eq (s : State) (l : Fin 8) (dir : Direction) : s.streamsOn l dir =
    (List.finRange 32).filter (fun i => (s.stream i).geom.any (fun g => g.lane == l && g.dir == dir)) := by
  unfold State.streamsOn
  congr 1
  funext i
  cases (s.stream i).geom <;> rfl

end Sys2Proof.Machine

namespace Sys2Proof.Proofs

open Sys2Proof.Machine

/-- R43: what halting an active stream leaves. -/
theorem haltStream_leaves (s : State) (i : Fin 32) (g : Geometry) (hg : (s.stream i).geom = some g)
    (h1 : (s.stream i).state ≠ .idle) (h2 : (s.stream i).state ≠ .halted) :
      ∃ u : State, s.haltStream i = (u.request (.live i)).passEvent (s.ofStream .streamHalted i
          (fields [(0, (s.stream i).state.code)]) (nat32 g.lane.val) false false) ∧
        u.stream i = { s.stream i with state := .halted, words := 0 } ∧ (∀ j, j ≠ i → u.stream j = s.stream j) ∧
        u.rw = s.rw ∧ u.mem = s.mem ∧ (∀ dir l, u.slotMap dir l = s.slotMap dir l) ∧
        (g.dir = .play → ∀ (k : Fin 4) (j : Fin 64), (u.lane g.lane).outbound[k].slots[j] =
          if g.firstSlot ≤ j.val ∧ j.val < g.firstSlot + g.channels then 0 else (s.lane g.lane).outbound[k].slots[j]) ∧
        (∀ l, (u.lane l).inbound = (s.lane l).inbound ∧ (u.lane l).state = (s.lane l).state) ∧
        EngineOnly s u ∧ u.ru = s.ru ∧ u.mc = s.mc ∧ (g.dir = .capture → u.li = s.li) ∧
        (∀ l, l ≠ g.lane → u.lane l = s.lane l) ∧
        (g.dir = .play → ∀ k : Fin 4, (u.lane g.lane).outbound[k].carries =
          (s.lane g.lane).outbound[k].carries.filter (fun c => c.stream != i)) := by
  have frame := silence_frame s i
  refine ⟨s.halted i, haltStream_of_active hg ((active_iff _).2 ⟨h1, h2⟩), State.stream_setStream_self _ _ _,
    fun j hj => ?_, ?_, ?_, fun dir l => ?_, fun hd k j => ?_, silence_inbound hg,
    engine_setStream (engine_silence (.refl s) i) i _, ?_, ?_, fun hd => ?_, fun l hl => silence_lane_of_ne hg hl,
    fun hd k => silence_carries hg hd k⟩
  · rw [State.halted, State.stream_setStream_of_ne _ _ hj.symm, frame]; rfl
  · rw [State.halted, State.setStream_rw, frame]
  · rw [State.halted, State.setStream_mem, frame]
  · rw [State.halted, frame]; rfl
  · have slots := silence_slots hg g.lane k j
    simp only [hd, true_and] at slots
    exact slots
  · rw [State.halted, State.setStream_ru, frame]
  · rw [State.halted, State.setStream_mc, frame]
  · rw [State.halted, State.setStream_li, silence_of_capture hg hd]

/-- Settles O35: what leaving and halting write, piece by piece. -/
theorem streamsLeaveAsRuled : Obligations.StreamsLeaveAsRuled := by
  refine ⟨fun s i how g hg => ?_, fun s i g hg => ⟨haltStream_of_inactive, haltStream_leaves s i g hg⟩, fun s l => ?_⟩
  · obtain ⟨mem, ru, mc, -⟩ := left_frame s i
    exact ⟨s.left i, becomeIdle_eq s i how, left_stream_self s i, fun j => left_stream_of_ne, left_entry_self s i,
      fun j => left_entry_of_ne, left_slots hg, left_outbound hg, left_engineOnly s i, mem, ru, mc⟩
  · rw [State.haltLane, streamsOn_eq, streamsOn_eq]

end Sys2Proof.Proofs
end

-- ==== Proofs of the family 01: positions and swaps ====
section
/-! The position of a stream (R28), SWAP_RING (R5, R37) and the wrap that makes the swap (R6, R7, R38). -/

namespace Sys2Proof.Machine

variable {s : State} {i : Fin 32} {g : Geometry}

/-! ## The application of a cue (R59) -/

/-- What an owner's answer leaves once the cue is out of the list. -/
def State.afterOutcome (s : State) (k : Cue) : Outcome → State
  | .done t => s.afterCue t k none
  | .refused t r => s.afterCue t k (some r)

theorem applyCue_of_check {k : Cue} (h : s.applicationCheck k = true) : s.applyCue k = s.afterOutcome k (s.handOver k) := by
  unfold State.applyCue
  rw [if_pos h]
  cases s.handOver k <;> rfl

theorem applyIfReached_of_due {k : Cue} (h : s.dueNow k.body) : s.applyIfReached k = s.applyCue k :=
  if_pos (decide_eq_true h)

theorem streamOf_eq {b : Byte} (h : b.toNat = i.val) : streamOf b = some i := by
  unfold streamOf
  rw [dif_pos (h ▸ i.isLt)]
  exact congrArg some (Fin.ext h)

theorem laneOf_eq_some_iff {b : Byte} {l : Fin 8} : laneOf b = some l ↔ b.toNat = l.val := by
  unfold laneOf
  split
  · simp only [Option.some.injEq, Fin.ext_iff]
  · next h => exact ⟨(fun e => nomatch e), fun e => absurd (e ▸ l.isLt) h⟩

theorem exec_swapRing {c : CueBody} (hp : s.phase ≠ .held) (hd : s.dueNow c) (hi : c.target.toNat = i.val)
    (ok : s.applicationCheck ⟨.swapRing, c⟩ = true) :
    exec (.swapRing c) s = .next (s.afterOutcome ⟨.swapRing, c⟩ (s.applySwap i)) := by
  have owner : s.handOver ⟨.swapRing, c⟩ = s.applySwap i := by
    show onTarget s (streamOf c.target) s.applySwap = _
    rw [streamOf_eq hi]; rfl
  show powered s (fun s => s.applyIfReached ⟨.swapRing, c⟩) = _
  rw [powered, if_neg hp, applyIfReached_of_due hd, applyCue_of_check ok, owner]

/-! ## The placing of a pending ring (R5) -/

section
variable {e : RingEntry} {base frames count : Nat}

theorem placePending_busy (he : s.entry i = some e) (h : e.pendingRing ≠ none ∨ e.retiring ≠ none) :
    s.placePending i base frames count = .error .busy := by
  unfold State.placePending
  rw [he]
  simp only [Option.isSome_iff_ne_none, if_pos h]

theorem placePending_free (he : s.entry i = some e) (hp : e.pendingRing = none) (hr : e.retiring = none) :
    s.placePending i base frames count =
      if ringFits s.base base e.current.channels frames count = false then .error .badStage
      else if s.overlapsRing base (frames * e.current.channels * 4 * count) then .error .ringOverlap
      else .ok (s.setEntry i (some { e with pendingRing := some (Ring.fresh e.dir base e.current.channels frames count) })) := by
  have size : (Ring.fresh e.dir base e.current.channels frames count).bytes = frames * e.current.channels * 4 * count := by
    simp only [Ring.fresh, Ring.bytes, Ring.periodBytes, List.length_replicate]
  unfold State.placePending
  rw [he]
  simp only [hp, hr, size, Option.isSome_none, Bool.false_eq_true, or_self, if_false]
  rfl

end

/-! ## SWAP_RING, case by case (R37) -/

/-- R37: a stage entry that describes the stream as it is, with a shape in range. -/
def StreamStage.sameStream (y : StreamStage) (g : Geometry) : Prop :=
  (g.dir = .play ∧ y.dir = 1 ∨ g.dir = .capture ∧ y.dir = 2) ∧ y.lane.toNat = g.lane.val ∧
    y.firstSlot.toNat = g.firstSlot ∧ y.channels.toNat = g.channels ∧ 16 ≤ y.frames.toNat ∧ y.frames.toNat ≤ 4096 ∧
    y.frames.toNat % 16 = 0 ∧ 2 ≤ y.count.toNat ∧ y.count.toNat ≤ 16

theorem not_sameStream_iff (y : StreamStage) (g : Geometry) : (Direction.ofCode y.dir ≠ some g.dir ∨
    laneOf y.lane ≠ some g.lane ∨ y.firstSlot.toNat ≠ g.firstSlot ∨ y.channels.toNat ≠ g.channels ∨
    y.shapeInRange = false) ↔ ¬ y.sameStream g := by
  simp only [ne_eq, directionOfCode_iff, laneOf_eq_some_iff, ← Bool.not_eq_true, shapeInRange_iff, ← not_and_or]
  rfl

/-- R37: the states of a stream that SWAP_RING refuses. -/
def Stream.refusesSwap (x : Stream) : Prop :=
  x.state = .idle ∨ x.state = .primed ∨ x.state = .halted ∨ x.stop ≠ none

theorem applySwap_of_none (h : (s.recordRead.stream i).geom = none) : s.applySwap i = .refused s.recordRead .wrongState := by
  unfold State.applySwap
  simp only [h]

/-- The checks of SWAP_RING on a stream with a geometry. -/
theorem applySwap_checks (hg : (s.recordRead.stream i).geom = some g) :
    let u := s.recordRead
    let x := u.stream i
    let y := u.streamStage i
    (x.refusesSwap → s.applySwap i = .refused u .wrongState) ∧
    (¬ x.refusesSwap → x.swap ≠ none → s.applySwap i = .refused u .busy) ∧
    (¬ x.refusesSwap → x.swap = none → ¬ y.sameStream g → s.applySwap i = .refused u .badStage) ∧
    (¬ x.refusesSwap → x.swap = none → y.sameStream g → s.applySwap i =
      match u.placePending i y.base.toNat y.frames.toNat y.count.toNat with
      | .error r => .refused u r
      | .ok t => .done ((t.setStream i { x with swap := some ⟨y.base.toNat, y.frames.toNat, y.count.toNat⟩ }).request
          (.live i))) := by
  dsimp only
  unfold State.applySwap
  simp only [hg, Option.isSome_iff_ne_none]
  exact ⟨fun h => if_pos h, fun h hs => (if_neg h).trans (if_pos hs),
    fun h hs hy => (if_neg h).trans ((if_neg (not_not.2 hs)).trans (if_pos ((not_sameStream_iff ..).2 hy))),
    fun h hs hy => (if_neg h).trans ((if_neg (not_not.2 hs)).trans (if_neg (mt (not_sameStream_iff ..).1 (not_not.2 hy))))⟩

/-! ## Positions (R28, R38) -/

theorem advance_within (hg : (s.stream i).geom = some g) (h : (s.stream i).frame + 1 < g.frames) :
    s.advance i = s.setStream i { s.stream i with frame := (s.stream i).frame + 1 } := by
  unfold State.advance
  simp only [hg, if_pos h]

theorem advance_of_period (hg : (s.stream i).geom = some g) (h : g.frames ≤ (s.stream i).frame + 1)
    (hc : (s.stream i).period + 1 < g.count) :
    s.advance i = s.setStream i { s.stream i with period := (s.stream i).period + 1, frame := 0 } := by
  unfold State.advance
  simp only [hg, if_neg (Nat.not_lt.2 h), if_pos hc]

theorem advance_of_last (hg : (s.stream i).geom = some g) (h : g.frames ≤ (s.stream i).frame + 1)
    (hc : g.count ≤ (s.stream i).period + 1) : s.advance i = s.wrapStream i := by
  unfold State.advance
  simp only [hg, if_neg (Nat.not_lt.2 h), if_neg (Nat.not_lt.2 hc)]

theorem wrapStream_of_none (hs : (s.stream i).swap = none) :
    s.wrapStream i = s.setStream i { s.stream i with period := 0, frame := 0 } := by
  unfold State.wrapStream
  simp only [hs]

theorem wrapRing_of_pending {e : RingEntry} {r : Ring} (he : s.entry i = some e) (hr : e.pendingRing = some r) :
    s.wrapRing i = s.setEntry i (some { e with
      current := r, pendingRing := none, retiring := (some e.current).filter (·.holdsUnfinished) }) := by
  unfold State.wrapRing
  simp only [he, hr, release_eq]

theorem streamStamp_of_some (hg : (s.stream i).geom = some g) : s.streamStamp i = s.stampOf g.domain := by
  unfold State.streamStamp
  rw [hg]

/-- R38: the wrap with a pending swap. -/
theorem wrapStream_of_swap {w : SwapRecord} {e : RingEntry} {r : Ring} (hg : (s.stream i).geom = some g)
    (hs : (s.stream i).swap = some w) (he : s.entry i = some e) (hr : e.pendingRing = some r) :
    s.wrapStream i = ((((s.setEntry i (some { e with
      current := r, pendingRing := none, retiring := (some e.current).filter (·.holdsUnfinished) })).setStream i
        { s.stream i with
          period := 0, frame := 0, swap := none,
          geom := some { g with base := w.base, frames := w.frames, count := w.count } }).request (.live i)).passEvent
            (s.ofStream .swapDone i (nat32 g.base) (nat32 w.base) false false)) := by
  unfold State.wrapStream
  simp only [hs, hg, wrapRing_of_pending he hr]
  rw [State.reportStream, State.streamEvent, streamStamp_of_some (by rw [State.stream_setStream_self]), State.ofStream,
    streamStamp_of_some hg]
  rfl

theorem holdsUnfinished_iff (r : Ring) : r.holdsUnfinished = true ↔
    ∃ q ∈ r.periods, q.state = .playing ∨ q.state = .ready ∨ q.state = .filling := by
  simp only [Ring.holdsUnfinished, List.any_eq_true, Bool.or_eq_true, beq_iff_eq, or_assoc]

end Sys2Proof.Machine

namespace Sys2Proof.Proofs
open Sys2Proof.Machine Sys2Proof.Config

/-- Settles O36: a swap is placed by the checks of R37 in their order, and made where the position wraps. -/
theorem swapsAreMadeAtTheWrap : Obligations.SwapsAreMadeAtTheWrap := by
  refine ⟨fun s c i hp hd hi ok => ?_, fun s i g hg => ⟨advance_within hg, advance_of_period hg,
    fun h hc hs => (advance_of_last hg h hc).trans (wrapStream_of_none hs), fun w e r h hc hs he hr =>
      ⟨_, fun hu => ?_, fun hu => ?_, (advance_of_last hg h hc).trans (wrapStream_of_swap hg hs he hr)⟩⟩⟩
  · have answer {t : Outcome} (h : s.applySwap i = t) :
        exec (.swapRing c) s = .next (s.afterOutcome ⟨.swapRing, c⟩ t) := h ▸ exec_swapRing hp hd hi ok
    refine ⟨fun h => answer (applySwap_of_none h), fun g e hg he => ?_⟩
    obtain ⟨away, busy, other, place⟩ := applySwap_checks hg
    refine ⟨fun h => answer (away h), fun h hs => answer (busy h hs), fun h hs hy => answer (other h hs hy),
      fun h hs hy hb => answer (t := .refused _ _) ?_, fun h hs hy hp hr hf => answer (t := .refused _ _) ?_,
      fun h hs hy hp hr hf ho => answer (t := .refused _ _) ?_, fun h hs hy hp hr hf ho => answer (t := .done _) ?_⟩
    · rw [place h hs hy, placePending_busy he hb]
    · rw [place h hs hy, placePending_free he hp hr, if_pos (Bool.eq_false_iff.2 (mt (ringFits_iff ..).1 ?_))]
      exact hf
    · rw [place h hs hy, placePending_free he hp hr, if_neg (Bool.not_eq_false _ ▸ (ringFits_iff ..).2 hf),
        if_pos ((overlapsRing_iff ..).2 ho)]
    · rw [place h hs hy, placePending_free he hp hr, if_neg (Bool.not_eq_false _ ▸ (ringFits_iff ..).2 hf),
        if_neg (mt (overlapsRing_iff ..).1 ho)]
  · rw [Option.filter_some_pos ((holdsUnfinished_iff _).2 hu)]
  · rw [Option.filter_some_neg (Bool.eq_false_iff.2 (mt (holdsUnfinished_iff _).1 hu))]

end Sys2Proof.Proofs
end

-- ==== Proofs of the family 01: fetches ====
section
/-! STREAM_FETCH: the frame in the fetch window (R27), the begin claim (R13), and the frame placed in staging (R28). -/

namespace Sys2Proof.Machine

variable {s : State} {i : Fin 32} {g : Geometry}

/-! ## The words of a frame (R1, R28, R168) -/

theorem readWords_length (m : Memory) : ∀ (n a : Nat), (m.readWords a n).length = n
  | 0, _ => rfl
  | n + 1, a => congrArg (· + 1) (readWords_length m n (a + 4))

theorem readWords_get (m : Memory) : ∀ (n a k : Nat), k < n → (m.readWords a n)[k]? = some (m.readWord (a + 4 * k))
  | 0, _, _, h => absurd h (Nat.not_lt_zero _)
  | n + 1, a, 0, _ => rfl
  | n + 1, a, k + 1, h => by
    show (m.readWords (a + 4) n)[k]? = _
    rw [readWords_get m n (a + 4) k (Nat.lt_of_succ_lt_succ h)]
    exact congrArg (fun b => some (m.readWord b)) (by omega)

theorem placeWords_get : ∀ (ws : List Word) (v : Vector Word 64) (first : Nat) (j : Fin 64),
    (placeWords v first ws)[j] = if first ≤ j.val then (ws[j.val - first]?).getD v[j] else v[j]
  | [], v, first, j => by simp only [placeWords, List.getElem?_nil, Option.getD_none, ite_self]
  | w :: ws, v, first, j => by
    rw [placeWords, placeWords_get ws]
    have old (h : j.val ≠ first) : (if h : first < 64 then v.set first w else v)[j] = v[j] := by
      split
      · exact Vector.getElem_set_ne (xs := v) _ _ h.symm
      · rfl
    rcases Nat.lt_trichotomy j.val first with h | h | h
    · rw [if_neg (by omega), if_neg (by omega), old (by omega)]
    · subst h
      rw [if_neg (by omega), if_pos (Nat.le_refl _), Nat.sub_self, dif_pos j.isLt]
      exact Vector.getElem_set_self _
    · obtain ⟨d, hd⟩ := Nat.exists_eq_add_of_lt h
      rw [if_pos (by omega), if_pos (by omega), old (by omega), show j.val - first = (j.val - (first + 1)) + 1 by omega,
        List.getElem?_cons_succ]

/-- R1: the words of a frame lie one after the other. -/
theorem address_eq (x : Stream) (g : Geometry) (k : Nat) : x.address g k = x.address g 0 + 4 * k := by
  simp only [Stream.address]
  omega

/-! ## The frame placed (R28) -/

/-- What a whole fetch leaves in the place of the frame: the words in the stream's slots, and what the frame carries. -/
def State.fetchedPlace (s : State) (i : Fin 32) (g : Geometry) : OutPlace :=
  let x := s.stream i
  let place := (s.lane g.lane).outbound[placeOf x.next]
  { slots := placeWords place.slots g.firstSlot (s.mem.readWords (x.address g 0) g.channels),
    carries := place.carries ++ [⟨i, g.base, x.period, x.frame, g.frames⟩] }

theorem fetchedPlace_slots (j : Fin 64) : (s.fetchedPlace i g).slots[j] =
    if g.firstSlot ≤ j.val ∧ j.val < g.firstSlot + g.channels then
      s.mem.readWord ((s.stream i).address g (j.val - g.firstSlot))
    else (s.lane g.lane).outbound[placeOf (s.stream i).next].slots[j] := by
  rw [State.fetchedPlace, placeWords_get]
  by_cases hj : g.firstSlot ≤ j.val
  · rw [if_pos hj]
    by_cases hc : j.val - g.firstSlot < g.channels
    · rw [readWords_get _ _ _ _ hc, if_pos ⟨hj, by omega⟩, address_eq (k := j.val - g.firstSlot)]
      rfl
    · rw [List.getElem?_eq_none (by rw [readWords_length]; omega), if_neg (by omega)]
      rfl
  · rw [if_neg hj, if_neg (fun h => hj h.1)]

/-- The staging of the stream's lane with the frame placed. -/
def State.staged (s : State) (i : Fin 32) (g : Geometry) : State :=
  let y := s.lane g.lane
  s.setLane g.lane { y with outbound := y.outbound.set (placeOf (s.stream i).next) (s.fetchedPlace i g) }

/-- R24, R45: the start stamp, set by the first frame fetched. -/
def State.stamped (s : State) (i : Fin 32) : State :=
  let x := s.stream i
  if x.stamp = none then (s.setStream i { x with stamp := some x.next }).request (.live i) else s

/-- What a whole fetch leaves. -/
def State.framePlaced (s : State) (i : Fin 32) (g : Geometry) : State :=
  let t := ((s.staged i g).stamped i).advance i
  t.setStream i { t.stream i with next := (s.stream i).next + 1, words := 0 }

theorem wrapStream_next : ((s.wrapStream i).stream i).next = (s.stream i).next := by
  unfold State.wrapStream
  dsimp only
  split <;> simp

theorem advance_next : ((s.advance i).stream i).next = (s.stream i).next := by
  unfold State.advance
  dsimp only
  split
  · rfl
  · split
    · rw [State.stream_setStream_self]
    · split
      · rw [State.stream_setStream_self]
      · exact wrapStream_next

/-- The engine goes on to the next lane frame once the position has passed this one. -/
theorem advance_step : (s.advance i).mapStream i Stream.step =
    (s.advance i).setStream i { (s.advance i).stream i with next := (s.stream i).next + 1, words := 0 } := by
  rw [← advance_next (s := s)]
  rfl

theorem stamped_stream : (s.stamped i).stream i =
    { s.stream i with stamp := some (match (s.stream i).stamp with | none => (s.stream i).next | some n => n) } := by
  unfold State.stamped
  dsimp only
  split
  · next h => rw [State.request_stream, State.stream_setStream_self, h]
  · next h =>
    obtain ⟨n, hn⟩ := Option.ne_none_iff_exists'.1 h
    rw [hn]
    dsimp only
    rw [← hn]

theorem stamped_next : ((s.stamped i).stream i).next = (s.stream i).next := by rw [stamped_stream]

theorem place_set_self (v : Vector OutPlace 4) (k : Fin 4) (x : OutPlace) : (v.set k x k.isLt)[k] = x :=
  Vector.getElem_set_self _

/-- R28: a fetch that moves the whole frame. -/
theorem fetchWords_whole (hg : (s.stream i).geom = some g) (hw : (s.stream i).words = 0) :
    s.fetchWords i g.channels = s.framePlaced i g := by
  have frame : s.fetchWords i g.channels = (((s.staged i g).stamped i).advance i).mapStream i Stream.step := by
    unfold State.fetchWords
    simp only [hg, hw, Nat.zero_add, Nat.add_zero, Nat.lt_irrefl, if_false]
    unfold State.fetchEnd State.mapLane
    simp only [State.setLane_stream, hg, true_and, Option.isNone_iff_eq_none, State.lane_setLane_self,
      State.setLane_setLane, Vector.set_set, place_set_self]
    rw [← hg]
    rfl
  rw [frame, advance_step, stamped_next]
  rfl


theorem stamped_stream_of_ne {j : Fin 32} (hj : j ≠ i) : (s.stamped i).stream j = s.stream j := by
  unfold State.stamped
  dsimp only
  split
  · rw [State.request_stream, State.stream_setStream_of_ne _ _ hj.symm]
  · rfl

theorem stamped_lane (l : Fin 8) : (s.stamped i).lane l = s.lane l := by
  unfold State.stamped
  dsimp only
  split
  · rw [State.request_lane]; rfl
  · rfl

theorem stamped_entry (j : Fin 32) : (s.stamped i).entry j = s.entry j := by
  unfold State.stamped
  dsimp only
  split
  · rw [State.request_entry]; rfl
  · rfl

theorem stamped_mc : (s.stamped i).mc = { s.mc with records := (s.stamped i).mc.records } := by
  unfold State.stamped
  dsimp only
  split
  · exact (request_only _ _).mc
  · rfl

/-- A frame placed before the last of its period moves the position within it. -/
theorem framePlaced_within (hg : (s.stream i).geom = some g) (hf : (s.stream i).frame + 1 < g.frames) :
    s.framePlaced i g = ((s.staged i g).stamped i).setStream i { (s.stamped i).stream i with
      frame := (s.stream i).frame + 1, next := (s.stream i).next + 1, words := 0 } := by
  have staged : (s.staged i g).stream i = s.stream i := rfl
  have within : ((s.staged i g).stamped i).advance i = ((s.staged i g).stamped i).setStream i
      { ((s.staged i g).stamped i).stream i with frame := (s.stream i).frame + 1 } := by
    rw [advance_within (by rw [stamped_stream, staged]; exact hg) (by rw [stamped_stream, staged]; exact hf),
      stamped_stream, staged]
  rw [State.framePlaced, within, State.stream_setStream_self, State.setStream_setStream, stamped_stream, stamped_stream,
    staged]

/-- The frame placed after the work `v` of the begin claim, which leaves the stream, its lane and memory alone. -/
theorem framePlaced_of {v : State} (hs : v.stream i = s.stream i) (hl : v.lane g.lane = s.lane g.lane)
    (hm : v.mem = s.mem) :
    let x := s.stream i
    let y := s.lane g.lane
    let w := v.setLane g.lane { y with outbound := y.outbound.set (placeOf x.next) (s.fetchedPlace i g) }
    let u := if x.stamp = none then (w.setStream i { x with stamp := some x.next }).request (.live i) else w
    let t := u.advance i
    v.framePlaced i g = t.setStream i { t.stream i with next := x.next + 1, words := 0 } := by
  simp only [State.framePlaced, State.staged, State.stamped, State.fetchedPlace, State.setLane_stream, hs, hl, hm]

/-! ## The begin claim (R13) -/

section
variable {e : RingEntry} {rec : PeriodRec} {p : Nat}

theorem beginClaim_granted (he : s.entry i = some e) (hr : e.current.period p = some rec)
    (h : rec.state = .filled ∨ rec.state = .playing) : s.beginClaim i p =
      (if rec.state = .filled then s.setPeriod i .current p ⟨.playing, false⟩ else s, true) := by
  unfold State.beginClaim
  simp only [he, hr]
  rcases h with h | h <;> rw [h] <;> rfl

end

/-- The begin claim of a fetch at frame 0 of a period, granted; elsewhere in the period there is none. -/
def State.begun (s : State) (i : Fin 32) (rec : PeriodRec) : State :=
  let x := s.stream i
  if x.frame = 0 ∧ rec.state = .filled then s.setPeriod i .current x.period ⟨.playing, false⟩ else s

theorem begun_frame (s : State) (i : Fin 32) (rec : PeriodRec) :
    s.begun i rec = { s with rw := (s.begun i rec).rw } := by
  unfold State.begun
  dsimp only
  split
  · exact setPeriod_frame _ _ _ _ _
  · rfl

@[simp] theorem begun_stream (rec : PeriodRec) (j : Fin 32) : (s.begun i rec).stream j = s.stream j := by
  rw [begun_frame]; rfl

@[simp] theorem begun_lane (rec : PeriodRec) (l : Fin 8) : (s.begun i rec).lane l = s.lane l := by
  rw [begun_frame]; rfl

@[simp] theorem begun_mem (rec : PeriodRec) : (s.begun i rec).mem = s.mem := by rw [begun_frame]

@[simp] theorem begun_mc (rec : PeriodRec) : (s.begun i rec).mc = s.mc := by rw [begun_frame]

theorem setPeriod_entry_of_ne {j : Fin 32} (hj : j ≠ i) (part : RingPart) (p : Nat) (x : PeriodRec) :
    (s.setPeriod i part p x).entry j = s.entry j := by
  cases he : s.entry i with
  | none => rw [setPeriod_of_none he]
  | some e => rw [setPeriod_of_entry he, State.entry_setEntry_of_ne _ _ hj.symm]

theorem begun_entry_of_ne {j : Fin 32} (hj : j ≠ i) (rec : PeriodRec) : (s.begun i rec).entry j = s.entry j := by
  unfold State.begun
  dsimp only
  split
  · exact setPeriod_entry_of_ne hj _ _ _
  · rfl

/-- R7: a claim on the current ring, with no ring retiring. -/
theorem setPeriod_current {e : RingEntry} (he : s.entry i = some e) (hn : e.retiring = none) (p : Nat) (x : PeriodRec) :
    s.setPeriod i .current p x = s.setEntry i (some { e with
      current := { e.current with periods := e.current.periods.set p x } }) := by
  rw [setPeriod_of_entry he]
  obtain ⟨dir, notify, late, current, pending, retiring⟩ := e
  cases hn
  rfl

theorem fetchBegin_of_granted {e : RingEntry} {rec : PeriodRec} (hz : (s.stream i).starved = none)
    (he : s.entry i = some e) (hr : e.current.period (s.stream i).period = some rec)
    (h : (s.stream i).frame = 0 → rec.state = .filled ∨ rec.state = .playing) :
    s.fetchBegin i = (s.begun i rec, true) := by
  unfold State.fetchBegin State.begun
  simp only [hz]
  by_cases hf : (s.stream i).frame = 0
  · simp only [hf, beginClaim_granted he hr (h hf), not_true, ne_eq, if_false, if_true, true_and]
  · simp only [hf, ne_eq, not_false_eq_true, if_true, false_and, if_false]

/-! ## STREAM_FETCH (R27, R28, R176) -/

theorem serveStream_eq (hg : (s.stream i).geom = some g) (dir : FlowDir) : s.serveStream i dir = { s with
    mc := { s.mc with lastOfThree := .stream, laneTurn := g.lane, laneDir := s.mc.laneDir.set g.lane dir } } := by
  unfold State.serveStream
  rw [hg]
  rfl

@[simp] theorem serveStream_stream (dir : FlowDir) (j : Fin 32) : (s.serveStream i dir).stream j = s.stream j := by
  unfold State.serveStream; split <;> rfl

@[simp] theorem serveStream_entry (dir : FlowDir) (j : Fin 32) : (s.serveStream i dir).entry j = s.entry j := by
  unfold State.serveStream; split <;> rfl

@[simp] theorem serveStream_lane (dir : FlowDir) (l : Fin 8) : (s.serveStream i dir).lane l = s.lane l := by
  unfold State.serveStream; split <;> rfl

@[simp] theorem serveStream_mem (dir : FlowDir) : (s.serveStream i dir).mem = s.mem := by
  unfold State.serveStream; split <;> rfl

theorem fetchFrame_whole (hg : (s.stream i).geom = some g) (hr : s.fetchReady i = true) (hw : (s.stream i).words = 0) :
    s.fetchFrame i .whole = if (s.fetchBegin i).2 then
      (s.fetchBegin i).1.fetchWords i (g.channels - ((s.fetchBegin i).1.stream i).words) else (s.fetchBegin i).1 := by
  unfold State.fetchFrame
  simp only [hg, hr, hw, if_true]
  rfl

theorem exec_streamFetch (hp : s.phase ≠ .held) (hg : (s.stream i).geom = some g) (hn : s.fetchIsNext i g) :
    exec (.streamFetch i) s = .next ((s.serveStream i .outbound).fetchFrame i .whole) ∧
      (s.serveStream i .outbound).fetchReady i = true := by
  obtain ⟨-, may, order, -⟩ := hn
  have ready : s.fetchReady i = true := by rw [State.fetchReady, may, order]; rfl
  refine ⟨?_, ?_⟩
  · show powered s _ = _
    rw [powered, if_neg hp, if_pos ready]
  · rw [serveStream_eq hg]
    exact ready

/-- R28: STREAM_FETCH where the frame's begin claim, if it makes one, is granted. -/
theorem exec_streamFetch_granted {e : RingEntry} {rec : PeriodRec} (hp : s.phase ≠ .held)
    (hg : (s.stream i).geom = some g) (hn : s.fetchIsNext i g) (hz : (s.stream i).starved = none)
    (he : s.entry i = some e) (hr : e.current.period (s.stream i).period = some rec)
    (h : (s.stream i).frame = 0 → rec.state = .filled ∨ rec.state = .playing) :
    exec (.streamFetch i) s = .next (((s.serveStream i .outbound).begun i rec).framePlaced i g) := by
  obtain ⟨fetched, ready⟩ := exec_streamFetch hp hg hn
  obtain ⟨-, -, -, words⟩ := hn
  have claim : (s.serveStream i .outbound).fetchBegin i = ((s.serveStream i .outbound).begun i rec, true) :=
    fetchBegin_of_granted (by simpa) (by simpa) (by simpa) (by simpa)
  rw [fetched, fetchFrame_whole (by simpa) ready (by simpa), claim]
  dsimp only
  rw [if_pos rfl, begun_stream, serveStream_stream, words, Nat.sub_zero, fetchWords_whole (by simpa) (by simpa)]

/-! ## The fetch of a frame before the last of its period -/

section
variable {v : State} (hg : (v.stream i).geom = some g) (hf : (v.stream i).frame + 1 < g.frames)
include hg hf

theorem framePlaced_lane : (v.framePlaced i g).lane g.lane = { v.lane g.lane with
    outbound := (v.lane g.lane).outbound.set (placeOf (v.stream i).next) (v.fetchedPlace i g) } := by
  rw [framePlaced_within hg hf, State.setStream_lane, stamped_lane, State.staged, State.lane_setLane_self]

theorem framePlaced_stream : (v.framePlaced i g).stream i = { v.stream i with
    frame := (v.stream i).frame + 1, next := (v.stream i).next + 1, words := 0,
    stamp := some (match (v.stream i).stamp with | none => (v.stream i).next | some n => n) } := by
  rw [framePlaced_within hg hf, State.stream_setStream_self, stamped_stream]

theorem framePlaced_stream_of_ne {j : Fin 32} (hj : j ≠ i) : (v.framePlaced i g).stream j = v.stream j := by
  rw [framePlaced_within hg hf, State.stream_setStream_of_ne _ _ hj.symm, stamped_stream_of_ne hj]; rfl

theorem framePlaced_entry (j : Fin 32) : (v.framePlaced i g).entry j = v.entry j := by
  rw [framePlaced_within hg hf, State.setStream_entry, stamped_entry]; rfl

theorem framePlaced_mc : (v.framePlaced i g).mc = { v.mc with records := (v.framePlaced i g).mc.records } := by
  rw [framePlaced_within hg hf]
  exact stamped_mc

end

end Sys2Proof.Machine

namespace Sys2Proof.Proofs
open Sys2Proof.Machine Sys2Proof.Config

/-- Settles O38: the begin claim of the frame granted, its words placed in its slots, and the position moved on. -/
theorem fetchPlacesTheFrame : Obligations.FetchPlacesTheFrame := by
  refine ⟨fun s i g e rec hp hg hn hz he hr _ _ hf h => ⟨_, exec_streamFetch_granted hp hg hn hz he hr h, ?_⟩,
    fun s i g e rec hp hg hn hz he hr _ _ h => ⟨s.fetchedPlace i g, fun j => fetchedPlace_slots j, rfl, ?_⟩⟩
  · obtain ⟨-, -, -, words⟩ := hn
    have served := serveStream_eq hg .outbound
    generalize hv : (s.serveStream i .outbound).begun i rec = v
    have stream (j : Fin 32) : v.stream j = s.stream j := by rw [← hv]; simp
    have lane : v.lane g.lane = s.lane g.lane := by rw [← hv]; simp
    have mem : v.mem = s.mem := by rw [← hv]; simp
    have mc : v.mc = (s.serveStream i .outbound).mc := by rw [← hv]; simp
    have place : v.fetchedPlace i g = s.fetchedPlace i g := by
      simp only [State.fetchedPlace, stream, lane, mem]
    have hgv : (v.stream i).geom = some g := by rw [stream]; exact hg
    have hfv : (v.stream i).frame + 1 < g.frames := by rw [stream]; exact hf
    have out : ((v.framePlaced i g).lane g.lane).outbound =
        (s.lane g.lane).outbound.set (placeOf (s.stream i).next) (s.fetchedPlace i g) := by
      simp only [framePlaced_lane hgv hfv, stream, lane, place]
    refine ⟨fun j h1 h2 => ?_, fun j hj => ?_, fun m hm => ?_, ?_, ?_, ?_, ?_, ?_, fun j hj => ⟨?_, ?_⟩, fun h0 => ?_,
      fun h0 hs hret => ?_⟩
    · rw [out, place_set_self, fetchedPlace_slots, if_pos ⟨h1, h2⟩]
    · rw [out, place_set_self, fetchedPlace_slots, if_neg (by omega)]
    · rw [out]
      exact Vector.getElem_set_ne _ _ (fun h => hm (Fin.ext h.symm))
    · rw [out, place_set_self]; rfl
    · rw [framePlaced_stream hgv hfv, stream, ← words] <;> rfl
    · rw [framePlaced_mc hgv hfv, mc, served]
    · rw [framePlaced_mc hgv hfv, mc, served]
    · rw [framePlaced_mc hgv hfv, mc, served]
    · rw [framePlaced_stream_of_ne hgv hfv hj, stream]
    · rw [framePlaced_entry hgv hfv, ← hv, begun_entry_of_ne hj, serveStream_entry]
    · rw [framePlaced_entry hgv hfv, ← hv, State.begun, if_neg (by simp [h0]), serveStream_entry]
    · rw [framePlaced_entry hgv hfv, ← hv, State.begun, if_pos (by simp [h0, hs]), serveStream_stream,
        setPeriod_current (by simpa) hret, State.entry_setEntry_self]
  · rw [exec_streamFetch_granted hp hg hn hz he hr h, framePlaced_of (s := s) (by simp) (by simp) (by simp), State.begun,
      serveStream_stream]

/-! ## A starved frame at the wrap (R33, R38)

The zero frame of a KEEP_TIME stream passes its position on (R33). Where that frame is the last of the ring, the wrap makes
the pending swap (R38), which moves the rings of the stream's entry. -/

/-- The geometry of a playback stream whose ring is one period of one frame, below the shapes of R20. -/
def oneFrame : Geometry :=
  { dir := .play, lane := 0, domain := 0, firstSlot := 0, channels := 1, base := 0x1000, frames := 1, count := 1,
    policy := .keepTime, late := some .land, notify := false }

/-- Its entry: the only period EMPTY, and a swap pending. -/
def oneFrameEntry : RingEntry :=
  { dir := .play, notify := false, late := .land, current := Ring.fresh .play 0x1000 1 1 1,
    pendingRing := some (Ring.fresh .play 0x2000 1 16 2), retiring := none }

/-- The stream PRIMED at frame 0 of that period. -/
def oneFrameState : State :=
  let s : State := { State.powerOn 0 true [] with phase := .opened }
  (s.setStream 0 { Stream.powerOn with
    state := .primed, geom := some oneFrame, swap := some ⟨0x2000, 16, 2⟩ }).setEntry 0 (some oneFrameEntry)

/-- Where the current ring of stream 0 lies after a step. -/
def currentBase : Result → Option Nat
  | .next t => (t.entry 0).map (·.current.base)
  | _ => none

theorem oneFrameState_fetches : oneFrameState.phase ≠ .held ∧ (oneFrameState.stream 0).geom = some oneFrame ∧
    oneFrameState.fetchIsNext 0 oneFrame ∧ (oneFrameState.stream 0).starved = none ∧
    (oneFrameState.stream 0).frame = 0 ∧ oneFrameState.entry 0 = some oneFrameEntry ∧
    oneFrameEntry.current.period (oneFrameState.stream 0).period = some ⟨.empty, false⟩ ∧
    (oneFrameState.stream 0).state = .primed := by decide +kernel

theorem oneFrameState_swaps : currentBase (exec (.streamFetch 0) oneFrameState) = some 0x2000 := by decide +kernel

/-- Refutes O39: its first clause has the directory unchanged by the starved frame whatever the number of frames of the
period, but at the only frame of a ring of one frame the position wraps under KEEP_TIME and the pending swap is made. The
clause asks for more than one frame only where it gives the position afterwards. -/
theorem not_starvedStreamsSpendAndResume : ¬ Obligations.StarvedStreamsSpendAndResume := by
  intro holds
  obtain ⟨starves, -⟩ := holds
  obtain ⟨phase, geom, next, starved, frame, entry, period, primed⟩ := oneFrameState_fetches
  obtain ⟨u, run, -, -, -, -, kept⟩ := starves oneFrameState 0 oneFrame oneFrameEntry ⟨.empty, false⟩ phase geom next
    starved frame entry period rfl (.inr primed)
  have same : u.entry 0 = some oneFrameEntry := by rw [← entry]; exact congrArg (·[(0 : Fin 32)]) kept
  have base : currentBase (.next u) = some 0x1000 := by rw [currentBase, same]; rfl
  have swapped := oneFrameState_swaps
  rw [run, if_neg (by rw [primed]; exact (fun h => nomatch h)), base] at swapped
  exact absurd swapped (by decide)

end Sys2Proof.Proofs
end

-- ==== Proofs of the family 01: the draining of a lane ====
section
/-! What the draining of a lane's inbound staging spares: a stream that takes no frame of it, with its entry, and memory
(R30, R35, R115). -/

namespace Sys2Proof.Machine

/-- Stream `i`, its directory entry and memory are as they were. -/
structure Spares (i : Fin 32) (s t : State) : Prop where
  mem : t.mem = s.mem
  stream : t.stream i = s.stream i
  entry : t.entry i = s.entry i

section
variable {s0 s : State} {i j : Fin 32}

theorem Spares.refl (i : Fin 32) (s : State) : Spares i s s := ⟨rfl, rfl, rfl⟩

@[simp] theorem spares_request (h : Spares i s0 s) (id : RecordId) : Spares i s0 (s.request id) :=
  ⟨by simpa using h.mem, by simpa using h.stream, by simpa using h.entry⟩

@[simp] theorem spares_passEvent (h : Spares i s0 s) (e : Event) : Spares i s0 (s.passEvent e) :=
  ⟨by simpa using h.mem, by simpa using h.stream, by simpa using h.entry⟩

@[simp] theorem spares_reportStream (h : Spares i s0 s) (k : Fin 32) (e : Event) : Spares i s0 (s.reportStream k e) :=
  spares_passEvent (spares_request h _) e

@[simp] theorem spares_mapLane (h : Spares i s0 s) (l : Fin 8) (f : Lane → Lane) : Spares i s0 (s.mapLane l f) :=
  ⟨h.mem, h.stream, h.entry⟩

@[simp] theorem spares_setStream (h : Spares i s0 s) (hj : j ≠ i) (x : Stream) : Spares i s0 (s.setStream j x) :=
  ⟨h.mem, (State.stream_setStream_of_ne _ _ hj).trans h.stream, h.entry⟩

@[simp] theorem spares_mapStream (h : Spares i s0 s) (hj : j ≠ i) (f : Stream → Stream) : Spares i s0 (s.mapStream j f) :=
  spares_setStream h hj _

@[simp] theorem spares_setEntry (h : Spares i s0 s) (hj : j ≠ i) (e : Option RingEntry) : Spares i s0 (s.setEntry j e) :=
  ⟨h.mem, h.stream, (State.entry_setEntry_of_ne _ _ hj).trans h.entry⟩

@[simp] theorem spares_setPeriod (h : Spares i s0 s) (hj : j ≠ i) (part : RingPart) (p : Nat) (x : PeriodRec) :
    Spares i s0 (s.setPeriod j part p x) := by
  unfold State.setPeriod
  split
  · exact h
  · exact spares_setEntry h hj _

@[simp] theorem spares_wrapRing (h : Spares i s0 s) (hj : j ≠ i) : Spares i s0 (s.wrapRing j) := by
  unfold State.wrapRing
  split
  · exact h
  · split
    · exact h
    · exact spares_setEntry h hj _

@[simp] theorem spares_wrapStream (h : Spares i s0 s) (hj : j ≠ i) : Spares i s0 (s.wrapStream j) := by
  unfold State.wrapStream
  dsimp only
  split
  · exact spares_reportStream (spares_setStream (spares_wrapRing h hj) hj _) _ _
  · exact spares_setStream h hj _

@[simp] theorem spares_advance (h : Spares i s0 s) (hj : j ≠ i) : Spares i s0 (s.advance j) := by
  unfold State.advance
  dsimp only
  repeat' split
  all_goals simp (maxDischargeDepth := 20) [h, hj]

@[simp] theorem spares_becomeIdle (h : Spares i s0 s) (hj : j ≠ i) (how : StopHow) : Spares i s0 (s.becomeIdle j how) := by
  obtain ⟨mem, -⟩ := left_frame s j
  have left : Spares i s0 (s.left j) :=
    ⟨mem.trans h.mem, (left_stream_of_ne hj.symm).trans h.stream, (left_entry_of_ne hj.symm).trans h.entry⟩
  rw [becomeIdle_eq]
  exact spares_passEvent (spares_request left _) _

@[simp] theorem spares_frameDone (h : Spares i s0 s) (hj : j ≠ i) (n : Word) : Spares i s0 (s.frameDone j n) := by
  unfold State.frameDone
  dsimp only
  repeat' split
  all_goals simp (maxDischargeDepth := 20) [h, hj]

@[simp] theorem spares_dropFrame (h : Spares i s0 s) (hj : j ≠ i) (n : Word) : Spares i s0 (s.dropFrame j n) :=
  spares_frameDone (spares_mapStream h hj _) hj n

@[simp] theorem spares_firstStoreClaim (h : Spares i s0 s) (hj : j ≠ i) (p : Nat) (y : StreamPolicy) :
    Spares i s0 (s.firstStoreClaim j p y).1 := by
  unfold State.firstStoreClaim
  repeat' split
  all_goals simp (maxDischargeDepth := 20) [h, hj]

@[simp] theorem spares_storeBegin (h : Spares i s0 s) (hj : j ≠ i) (n : Word) : Spares i s0 (s.storeBegin j n).1 := by
  unfold State.storeBegin
  dsimp only
  repeat' split
  all_goals simp (maxDischargeDepth := 20) [h, hj]

theorem spares_foldl {α : Type} {f : State → α → State} (hf : ∀ s x, Spares i s0 s → Spares i s0 (f s x)) :
    ∀ (l : List α) {s : State}, Spares i s0 s → Spares i s0 (l.foldl f s)
  | [], _, h => h
  | x :: l, _, h => spares_foldl hf l (hf _ x h)

end

variable {s : State} {i : Fin 32}

/-- R35: an OVERFLOWING stream that is to take inbound frame `n`. -/
def Stream.takes (x : Stream) (n : Word) : Prop := x.state = .overflowing ∧ x.storesFrame n = true

theorem overflowTake_spares {s0 : State} {n : Word} (h : ¬ (s0.stream i).takes n) (hs : Spares i s0 s) (l : Fin 8) :
    Spares i s0 (s.overflowTake l n) := by
  refine spares_foldl (fun t j ht => ?_) _ hs
  split
  · next hj => exact spares_storeBegin ht (fun e => h (by rw [← ht.stream, ← e]; exact hj)) n
  · exact ht

theorem leaveInbound_spares {s0 : State} {f : InboundFrame} (h : ¬ (s0.stream i).takes f.number) (hs : Spares i s0 s)
    (l : Fin 8) : Spares i s0 (State.leaveInbound l s f) := by
  have taken := overflowTake_spares h hs l
  unfold State.leaveInbound
  dsimp only
  split
  · exact taken
  · exact spares_mapLane taken l _

/-- R30, R115: a stream that takes none of the staged frames is spared by the draining of a lane. -/
theorem drainInbound_spares {l : Fin 8} (h : ∀ f ∈ (s.lane l).inbound, ¬ (s.stream i).takes f.number) :
    Spares i s (s.drainInbound l) := by
  have drained : ∀ (fs : List InboundFrame) (t : State), (∀ f ∈ fs, ¬ (s.stream i).takes f.number) → Spares i s t →
      Spares i s (fs.foldl (State.leaveInbound l) t) := by
    intro fs
    induction fs with
    | nil => exact fun _ _ ht => ht
    | cons f fs ih =>
      exact fun t hf ht => ih _ (fun x hx => hf x (List.mem_cons_of_mem _ hx))
        (leaveInbound_spares (hf f List.mem_cons_self) ht l)
  exact drained _ s h (.refl i s)

end Sys2Proof.Machine
end

-- ==== Proofs of the family 01: stores ====
section
/-! STREAM_STORE: the first-store claim and what it makes of a stream (R15, R30, R35), the frame stored (R30, R31), the end of
the frame (R40, R41), and the claims that end a period (R13, R15, R18). -/

namespace Sys2Proof.Machine

variable {s : State} {i : Fin 32} {g : Geometry}

/-! ## The claims that end a period (R13, R15, R18) -/

section
variable {e : RingEntry} {rec : PeriodRec} {p : Nat}

/-- A period's end: its new record, and its event where notify is on. -/
def State.ended (s : State) (i : Fin 32) (e : RingEntry) (part : RingPart) (base p : Nat) (x : PeriodRec) (k : EventKind) :
    State :=
  let t := s.setPeriod i part p x
  if e.notify then t.passEvent (s.ofStream k i (fields [(0, p)]) (nat32 base) false false) else t

theorem setPeriod_streamStamp (part : RingPart) (x : PeriodRec) :
    (s.setPeriod i part p x).streamStamp i = s.streamStamp i := by
  rw [setPeriod_frame]; rfl

theorem lastStoreClaim_of_filling (he : s.entry i = some e) (hr : e.current.period p = some rec)
    (h : rec.state = .filling) : s.lastStoreClaim i p =
      s.ended i e .current e.current.base p { rec with state := .ready } .periodCaptured := by
  unfold State.lastStoreClaim State.ended
  simp only [he, hr, h, if_true, State.periodEvent, setPeriod_streamStamp]
  rfl

theorem lastStoreClaim_of_other (he : s.entry i = some e) (hr : e.current.period p = some rec)
    (h : rec.state ≠ .filling) : s.lastStoreClaim i p = s := by
  unfold State.lastStoreClaim
  simp only [he, hr, h, if_false]

theorem playedClaim_of_current (he : s.entry i = some e) (hr : e.current.period p = some rec)
    (h : rec.state = .playing) : s.playedClaim i e.current.base p =
      s.ended i e .current e.current.base p { rec with state := .empty } .periodPlayed := by
  unfold State.playedClaim State.ended
  simp only [he, if_true, RingEntry.ring, hr, h, State.periodEvent, setPeriod_streamStamp]
  rfl

theorem playedClaim_of_other (he : s.entry i = some e) (hr : e.current.period p = some rec)
    (h : rec.state ≠ .playing) : s.playedClaim i e.current.base p = s := by
  unfold State.playedClaim
  simp only [he, if_true, RingEntry.ring, hr, h, if_false]

theorem playedClaim_of_retiring {base : Nat} {r : Ring} (he : s.entry i = some e) (hb : base ≠ e.current.base)
    (hq : e.retiring = some r) (hrb : r.base = base) (hr : r.period p = some rec) (h : rec.state = .playing) :
    s.playedClaim i base p = s.ended i e .retiring base p { rec with state := .empty } .periodPlayed := by
  unfold State.playedClaim State.ended
  simp only [he, if_neg hb.symm, RingEntry.ring, hq, if_pos hrb, hr, h, if_true, State.periodEvent, setPeriod_streamStamp]
  rfl

theorem playedClaim_of_quiet {base : Nat} (he : s.entry i = some e) (hb : base ≠ e.current.base)
    (h : ∀ r, e.retiring = some r → r.base = base → ∀ q, r.period p = some q → q.state ≠ .playing) :
    s.playedClaim i base p = s := by
  unfold State.playedClaim
  simp only [he, if_neg hb.symm, RingEntry.ring]
  cases hq : e.retiring with
  | none => rfl
  | some r =>
    dsimp only
    split
    · next hrb =>
      cases hr : r.period p with
      | none => rfl
      | some q => exact if_neg (h r hq hrb q hr)
    · rfl

end

/-! ## The end of a frame (R35, R40, R41) -/

theorem dropFrame_eq (s : State) (i : Fin 32) (n : Word) : s.dropFrame i n = (s.setStream i { s.stream i with
    counters := { (s.stream i).counters with dropped := satInc (s.stream i).counters.dropped } }).frameDone i n := rfl

theorem frameDone_of_last {n : Word} {r : StopRecord} (hr : (s.stream i).stop = some r) (hn : r.last = n) :
    s.frameDone i n = s.becomeIdle i (match r.mode with | .now => .now | .periodEnd => .periodEnd) := by
  unfold State.frameDone
  dsimp only
  rw [hr]
  exact if_pos hn

theorem frameDone_goes_on {n : Word} (h : ∀ r, (s.stream i).stop = some r → r.last ≠ n) : s.frameDone i n =
    (s.advance i).setStream i { (s.advance i).stream i with next := (s.stream i).next + 1, words := 0 } := by
  rw [← advance_step]
  unfold State.frameDone
  dsimp only
  cases hr : (s.stream i).stop with
  | none => rfl
  | some r => exact if_neg (h r hr)

/-- A frame that ends no stop and is not the last of its period. -/
theorem frameDone_within {n : Word} (hg : (s.stream i).geom = some g) (hs : (s.stream i).stop = none)
    (hf : (s.stream i).frame + 1 < g.frames) : s.frameDone i n = s.setStream i { s.stream i with
      frame := (s.stream i).frame + 1, next := (s.stream i).next + 1, words := 0 } := by
  rw [frameDone_goes_on (fun r hr => by rw [hs] at hr; exact nomatch hr), advance_within hg hf, State.stream_setStream_self,
    State.setStream_setStream]

/-! ## Before the first word (R15, R30, R35, R36) -/

/-- The work of a store's claim, which leaves the stream's geometry and place and the clocks alone. -/
structure AtPlace (i : Fin 32) (s t : State) : Prop where
  geom : (t.stream i).geom = (s.stream i).geom
  period : (t.stream i).period = (s.stream i).period
  frame : (t.stream i).frame = (s.stream i).frame
  cb : t.cb = s.cb

theorem atPlace_setStream {t : State} (hc : t.cb = s.cb) {x : Stream} (hg : x.geom = (s.stream i).geom)
    (hp : x.period = (s.stream i).period) (hf : x.frame = (s.stream i).frame) : AtPlace i s (t.setStream i x) :=
  ⟨by rw [State.stream_setStream_self, hg], by rw [State.stream_setStream_self, hp],
    by rw [State.stream_setStream_self, hf], hc⟩

theorem overflowEvent_eq {t : State} {n : Word} (h : AtPlace i s t) (b : Bool) : t.overflowEvent i n b =
    s.ofStream .overflow i (fields [(0, (s.stream i).period)]) n b false := by
  rw [State.overflowEvent, State.streamEvent, streamStamp_of_geom h.geom h.cb, h.period]
  rfl

theorem resumedEvent_eq {t : State} {n : Word} (h : AtPlace i s t) : t.resumedEvent i n =
    s.ofStream .resumed i (fields [(0, (s.stream i).frame), (16, (s.stream i).period)]) n false false := by
  rw [State.resumedEvent, State.streamEvent, streamStamp_of_geom h.geom h.cb, h.period, h.frame]
  rfl

section
variable {e : RingEntry} {rec : PeriodRec} {p : Nat} {y : StreamPolicy}

theorem firstStoreClaim_granted (he : s.entry i = some e) (hr : e.current.period p = some rec)
    (h : rec.state = .free ∨ rec.state = .filling) : s.firstStoreClaim i p y =
      (if rec.state = .free then s.setPeriod i .current p ⟨.filling, false⟩ else s, .granted) := by
  unfold State.firstStoreClaim
  simp only [he, hr]
  rcases h with h | h <;> rw [h] <;> rfl

theorem firstStoreClaim_reclaimed (he : s.entry i = some e) (hr : e.current.period p = some rec) (h : rec.state = .ready)
    (hy : y = .reclaim) : s.firstStoreClaim i p y = (s.setPeriod i .current p ⟨.filling, false⟩, .reclaimed) := by
  unfold State.firstStoreClaim
  simp only [he, hr, h, hy, if_true]

theorem firstStoreClaim_refused (he : s.entry i = some e) (hr : e.current.period p = some rec) (h : rec.state = .ready)
    (hy : y = .dropNew) : s.firstStoreClaim i p y = (s, .refused) := by
  unfold State.firstStoreClaim
  simp only [he, hr, h, hy, reduceCtorEq, if_false]

theorem firstStoreClaim_frame (s : State) (i : Fin 32) (p : Nat) (y : StreamPolicy) : (s.firstStoreClaim i p y).1 =
    { s with rw := (s.firstStoreClaim i p y).1.rw } := by
  unfold State.firstStoreClaim
  split
  · rfl
  · split
    · rfl
    · split
      · exact setPeriod_frame _ _ _ _ _
      · rfl
      · split
        · exact setPeriod_frame _ _ _ _ _
        · rfl
      · rfl

end

/-- Stream `i` at inbound frame `n`. -/
def State.facing (s : State) (i : Fin 32) (n : Word) : State := s.setStream i { s.stream i with next := n }

/-- What the answer of the first-store claim makes of the stream. -/
def State.storeAnswered (s : State) (i : Fin 32) (n : Word) (r : State × StoreAnswer) : State × Bool :=
  let x := { s.stream i with next := n }
  match r.2 with
  | .granted =>
    if x.state = .overflowing then
      let t := r.1.setStream i { x with state := .running }
      (t.reportStream i (t.resumedEvent i n), true)
    else (r.1, true)
  | .reclaimed =>
    let t := r.1.setStream i { x with counters := { x.counters with lost := satInc x.counters.lost } }
    (t.passEvent (t.overflowEvent i n true), true)
  | .refused =>
    if x.state = .running then
      let t := r.1.setStream i { x with state := .overflowing }
      ((t.reportStream i (t.overflowEvent i n false)).dropFrame i n, false)
    else (r.1.dropFrame i n, false)

section
variable {n : Word} (hg : (s.stream i).geom = some g)
include hg

theorem storeBegin_eq : s.storeBegin i n =
    if (s.stream i).frame ≠ 0 then
      if (s.stream i).state = .overflowing then ((s.facing i n).dropFrame i n, false) else (s.facing i n, true)
    else s.storeAnswered i n ((s.facing i n).firstStoreClaim i (s.stream i).period g.policy) := by
  unfold State.storeBegin
  dsimp only
  split
  · next h => rw [hg] at h; exact nomatch h
  · next y h =>
    obtain rfl : y = g := Option.some.inj (h.symm.trans hg)
    rfl

theorem storeBegin_dropped (hf : (s.stream i).frame ≠ 0) (ho : (s.stream i).state = .overflowing) :
    s.storeBegin i n = ((s.facing i n).dropFrame i n, false) := by
  rw [storeBegin_eq hg, if_pos hf, if_pos ho]

theorem storeBegin_within (hf : (s.stream i).frame ≠ 0) (ho : (s.stream i).state ≠ .overflowing) :
    s.storeBegin i n = (s.facing i n, true) := by
  rw [storeBegin_eq hg, if_pos hf, if_neg ho]

theorem storeBegin_first (hf : (s.stream i).frame = 0) : s.storeBegin i n =
    s.storeAnswered i n ((s.facing i n).firstStoreClaim i (s.stream i).period g.policy) := by
  rw [storeBegin_eq hg, if_neg (not_not.2 hf)]

end

/-- The period before the stream taken for a store: a FREE one is FILLING. -/
def State.taken (s : State) (i : Fin 32) (n : Word) (rec : PeriodRec) : State :=
  if rec.state = .free then (s.facing i n).setPeriod i .current (s.stream i).period ⟨.filling, false⟩ else s.facing i n

theorem taken_frame (s : State) (i : Fin 32) (n : Word) (rec : PeriodRec) :
    s.taken i n rec = { s.facing i n with rw := (s.taken i n rec).rw } := by
  unfold State.taken
  split
  · exact setPeriod_frame _ _ _ _ _
  · rfl

section
variable {n : Word} {e : RingEntry} {rec : PeriodRec} (hg : (s.stream i).geom = some g) (he : s.entry i = some e)
  (hr : e.current.period (s.stream i).period = some rec) (hf : (s.stream i).frame = 0)
include hg he hr hf

theorem storeBegin_granted (h : rec.state = .free ∨ rec.state = .filling) (ho : (s.stream i).state ≠ .overflowing) :
    s.storeBegin i n = (s.taken i n rec, true) := by
  rw [storeBegin_first hg hf, firstStoreClaim_granted (s := s.facing i n) he hr h]
  exact if_neg ho

theorem storeBegin_resumes (h : rec.state = .free ∨ rec.state = .filling) (ho : (s.stream i).state = .overflowing) :
    s.storeBegin i n = ((((s.taken i n rec).setStream i { s.stream i with next := n, state := .running }).request
      (.live i)).passEvent (s.ofStream .resumed i
        (fields [(0, (s.stream i).frame), (16, (s.stream i).period)]) n false false), true) := by
  rw [storeBegin_first hg hf, firstStoreClaim_granted (s := s.facing i n) he hr h, ← resumedEvent_eq (atPlace_setStream
    (t := s.taken i n rec) (x := { s.stream i with next := n, state := .running }) (by rw [taken_frame]; rfl) rfl rfl rfl)]
  exact if_pos ho

theorem storeBegin_reclaims (h : rec.state = .ready) (hy : g.policy = .reclaim) : s.storeBegin i n =
    ((((s.facing i n).setPeriod i .current (s.stream i).period ⟨.filling, false⟩).setStream i { s.stream i with
      next := n, counters := { (s.stream i).counters with lost := satInc (s.stream i).counters.lost } }).passEvent
        (s.ofStream .overflow i (fields [(0, (s.stream i).period)]) n true false), true) := by
  rw [storeBegin_first hg hf, firstStoreClaim_reclaimed (s := s.facing i n) he hr h hy,
    ← overflowEvent_eq (atPlace_setStream (t := (s.facing i n).setPeriod i .current (s.stream i).period ⟨.filling, false⟩)
    (x := { s.stream i with
      next := n, counters := { (s.stream i).counters with lost := satInc (s.stream i).counters.lost } })
    (by rw [setPeriod_frame]; rfl) rfl rfl rfl)]
  rfl

theorem storeBegin_overflows (h : rec.state = .ready) (hy : g.policy = .dropNew) (ho : (s.stream i).state = .running) :
    s.storeBegin i n = (((((s.facing i n).setStream i { s.stream i with next := n, state := .overflowing }).request
      (.live i)).passEvent (s.ofStream .overflow i (fields [(0, (s.stream i).period)]) n false false)).dropFrame i n,
        false) := by
  rw [storeBegin_first hg hf, firstStoreClaim_refused (s := s.facing i n) he hr h hy,
    ← overflowEvent_eq (atPlace_setStream (s := s) (t := s.facing i n)
    (x := { s.stream i with next := n, state := .overflowing }) rfl rfl rfl rfl)]
  exact if_pos ho

theorem storeBegin_refused (h : rec.state = .ready) (hy : g.policy = .dropNew) (ho : (s.stream i).state ≠ .running) :
    s.storeBegin i n = ((s.facing i n).dropFrame i n, false) := by
  rw [storeBegin_first hg hf, firstStoreClaim_refused (s := s.facing i n) he hr h hy]
  exact if_neg ho

end

/-- A store that goes ahead has left the stream's place, its start stamp and its words as they were. -/
structure AheadAt (i : Fin 32) (s t : State) : Prop where
  geom : (t.stream i).geom = (s.stream i).geom
  period : (t.stream i).period = (s.stream i).period
  frame : (t.stream i).frame = (s.stream i).frame
  stamp : (t.stream i).stamp = (s.stream i).stamp
  words : (t.stream i).words = (s.stream i).words

theorem aheadAt_of_stream {t : State} {n : Word} {y : StreamState} {c : StreamCounters}
    (h : t.stream i = { s.stream i with next := n, state := y, counters := c }) : AheadAt i s t := by
  refine ⟨?_, ?_, ?_, ?_, ?_⟩ <;> rw [h]

theorem storeAnswered_ahead {n : Word} {r : State × StoreAnswer} (hr : r.1.stream i = { s.stream i with next := n })
    (h : (s.storeAnswered i n r).2 = true) : AheadAt i s (s.storeAnswered i n r).1 := by
  obtain ⟨u, a⟩ := r
  revert h
  unfold State.storeAnswered
  cases a with
  | granted =>
    dsimp only
    split
    · exact fun _ => aheadAt_of_stream (by rw [State.reportStream_stream, State.stream_setStream_self])
    · exact fun _ => aheadAt_of_stream hr
  | reclaimed => exact fun _ => aheadAt_of_stream (by rw [State.passEvent_stream, State.stream_setStream_self])
  | refused =>
    dsimp only
    split <;> exact (fun h => nomatch h)

theorem storeBegin_ahead {n : Word} (hg : (s.stream i).geom = some g) (h : (s.storeBegin i n).2 = true) :
    AheadAt i s (s.storeBegin i n).1 := by
  have facing : (s.facing i n).stream i = { s.stream i with next := n } := State.stream_setStream_self _ _ _
  by_cases hf : (s.stream i).frame = 0
  · rw [storeBegin_first hg hf] at h ⊢
    exact storeAnswered_ahead (by rw [firstStoreClaim_frame]; exact facing) h
  · by_cases ho : (s.stream i).state = .overflowing
    · rw [storeBegin_dropped hg hf ho] at h
      exact nomatch h
    · rw [storeBegin_within hg hf ho]
      exact aheadAt_of_stream facing

/-! ## The frame stored (R30, R31) -/

theorem words_length (k : InboundKind) (g : Geometry) : (k.words g).length = g.channels := by
  cases k <;> simp [InboundKind.words]

/-- Words in memory from an address on, and the stream with its counters, its start stamp and its last frame. -/
def State.putWords (s : State) (i : Fin 32) (a : Nat) (ws : List Word) (c : StreamCounters) (stamp last : Word) : State :=
  ({ s with mem := s.mem.writeWords a ws } : State).setStream i { s.stream i with
    counters := c, stamp := some stamp, lastFrame := some last }

/-- Inbound frame `f` in memory, counted, with its start stamp. -/
def State.framePut (s : State) (i : Fin 32) (g : Geometry) (f : InboundFrame) : State :=
  let x := s.stream i
  s.putWords i (x.address g 0) (f.kind.words g) (f.kind.count x.counters) (x.stamp.getD f.number) f.number

/-- The start stamp's live record, and the last-store claim of a period's last frame. -/
def State.frameStored (s : State) (i : Fin 32) (g : Geometry) (f : InboundFrame) : State :=
  let x := s.stream i
  let shown := if x.stamp = none then (s.framePut i g f).request (.live i) else s.framePut i g f
  if x.frame + 1 = g.frames then shown.lastStoreClaim i x.period else shown

/-- The words of a frame in memory. -/
def State.written (s : State) (i : Fin 32) (g : Geometry) (f : InboundFrame) : State :=
  { s with mem := s.mem.writeWords ((s.stream i).address g 0) (f.kind.words g) }

theorem storeEnd_written {f : InboundFrame} (hg : (s.stream i).geom = some g) :
    (s.written i g f).storeEnd i f = (s.frameStored i g f).frameDone i f.number := by
  unfold State.storeEnd
  dsimp only
  split
  · next h => exact nomatch hg.symm.trans h
  · next y h =>
    obtain rfl : y = g := Option.some.inj (h.symm.trans hg)
    simp only [Option.isNone_iff_eq_none]
    rfl

/-- R30: a store that moves the whole frame. -/
theorem storeWords_whole {f : InboundFrame} (hg : (s.stream i).geom = some g) (hw : (s.stream i).words = 0) :
    s.storeWords i f g.channels = (s.frameStored i g f).frameDone i f.number := by
  have whole : ((f.kind.words g).drop 0).take g.channels = f.kind.words g := by
    rw [List.drop_zero, List.take_of_length_le (Nat.le_of_eq (words_length _ _))]
  unfold State.storeWords
  dsimp only
  split
  · next h => rw [hg] at h; exact nomatch h
  · next y h =>
    obtain rfl : y = g := Option.some.inj (h.symm.trans hg)
    rw [hw, whole, Nat.zero_add, if_neg (Nat.lt_irrefl _)]
    exact storeEnd_written hg

theorem frameStored_ahead {f : InboundFrame} {t : State} (h : AheadAt i s t) : t.frameStored i g f =
    let x := s.stream i
    let put := t.putWords i (x.address g 0) (f.kind.words g) (f.kind.count (t.stream i).counters)
      (x.stamp.getD f.number) f.number
    let shown := if x.stamp = none then put.request (.live i) else put
    if x.frame + 1 = g.frames then shown.lastStoreClaim i x.period else shown := by
  have address : (t.stream i).address g 0 = (s.stream i).address g 0 := by
    simp only [Stream.address, h.period, h.frame]
  dsimp only
  rw [← address, ← h.stamp, ← h.frame, ← h.period]
  rfl

section
variable {f : InboundFrame} (hf : (s.stream i).frame + 1 < g.frames)
include hf

theorem frameStored_within : s.frameStored i g f =
    if (s.stream i).stamp = none then (s.framePut i g f).request (.live i) else s.framePut i g f := by
  rw [State.frameStored]
  exact if_neg (Nat.ne_of_lt hf)

theorem frameStored_mem : (s.frameStored i g f).mem = s.mem.writeWords ((s.stream i).address g 0) (f.kind.words g) := by
  rw [frameStored_within hf]
  split
  · rw [State.request_mem]; rfl
  · rfl

theorem frameStored_stream : (s.frameStored i g f).stream i = { s.stream i with
    counters := f.kind.count (s.stream i).counters, stamp := some ((s.stream i).stamp.getD f.number),
    lastFrame := some f.number } := by
  have put : (s.framePut i g f).stream i = { s.stream i with
    counters := f.kind.count (s.stream i).counters, stamp := some ((s.stream i).stamp.getD f.number),
    lastFrame := some f.number } := State.stream_setStream_self _ _ _
  rw [frameStored_within hf]
  split
  · rw [State.request_stream, put]
  · exact put

theorem frameStored_entry (j : Fin 32) : (s.frameStored i g f).entry j = s.entry j := by
  rw [frameStored_within hf]
  split
  · rw [State.request_entry]; rfl
  · rfl

end

/-! ## STREAM_STORE (R30, R115, R176) -/

theorem storeFrame_whole {f : InboundFrame} (hg : (s.stream i).geom = some g) (hn : s.storeIsNext i g f) :
    s.storeFrame i .whole = (if (s.storeBegin i f.number).2 then
      (s.storeBegin i f.number).1.storeWords i f (g.channels - ((s.storeBegin i f.number).1.stream i).words)
        else (s.storeBegin i f.number).1).drainInbound g.lane := by
  obtain ⟨dir, head, delays, words⟩ := hn
  obtain ⟨rest, staged⟩ := List.head?_eq_some_iff.1 head
  unfold State.storeFrame
  simp only [hg, staged, dir, delays, words, and_self, if_true]
  rfl

/-- STREAM_STORE of a whole frame: what comes before its first word, its words, its end, and the draining of the lane. -/
theorem exec_streamStore {f : InboundFrame} (hp : s.phase ≠ .held) (hg : (s.stream i).geom = some g)
    (hn : s.storeIsNext i g f) {t : State} {b : Bool} (hb : (s.serveStream i .inbound).storeBegin i f.number = (t, b)) :
    exec (.streamStore i) s =
      .next ((if b = true then (t.frameStored i g f).frameDone i f.number else t).drainInbound g.lane) := by
  have served : (s.serveStream i .inbound).storeIsNext i g f := by
    rw [serveStream_eq hg]; exact hn
  obtain ⟨dir, head, delays, words⟩ := hn
  obtain ⟨rest, staged⟩ := List.head?_eq_some_iff.1 head
  have ready : s.storeReady i = true := by
    unfold State.storeReady
    simp only [hg, staged, dir, delays, beq_self_eq_true, Bool.and_self]
  show powered s _ = _
  rw [powered, if_neg hp, if_pos ready, storeFrame_whole (by simpa) served, hb]
  cases b with
  | false => rfl
  | true =>
    have ahead : AheadAt i (s.serveStream i .inbound) ((s.serveStream i .inbound).storeBegin i f.number).1 :=
      storeBegin_ahead (by simpa) (by rw [hb])
    rw [hb] at ahead
    have geom : (t.stream i).geom = some g := ahead.geom.trans (by simpa)
    have still : (t.stream i).words = 0 := ahead.words.trans (by simpa)
    dsimp only
    rw [if_pos rfl, if_pos rfl, still, Nat.sub_zero, storeWords_whole geom still]

theorem reached_next (n : Word) : reached (n + 1) n = false := by
  unfold reached
  rw [decide_eq_false_iff_not]
  bv_omega

end Sys2Proof.Machine
end

-- ==== Proofs of the family 01: the store of a frame, case by case ====
section
/-! The store of a frame of a RUNNING stream that is not the last of its period, and its dropping (R15, R30, R31, R35). -/

namespace Sys2Proof.Machine

variable {s : State} {i : Fin 32} {g : Geometry} {f : InboundFrame}

/-- A stream that has stored or dropped inbound frame `n` within a period: `x` with its counters and place. -/
def Stream.passed (x : Stream) (n : Word) : Stream := { x with frame := x.frame + 1, next := n + 1 }

/-- The same where the frame's words are in memory, and the start stamp is `m`. -/
def Stream.stored (x : Stream) (n : Word) (c : StreamCounters) (m : Word) : Stream :=
  Stream.passed { x with counters := c, stamp := some m, lastFrame := some n } n

/-- The end of a frame within a period, and the draining of the lane by others. -/
theorem frameDone_drained {l : Fin 8} {n : Word} (hg : (s.stream i).geom = some g) (hs : (s.stream i).stop = none)
    (hw : (s.stream i).words = 0) (hn : (s.stream i).next = n) (hf : (s.stream i).frame + 1 < g.frames)
    (h : ∀ f ∈ (s.lane l).inbound, ¬ ((s.stream i).passed n).takes f.number) :
    ((s.frameDone i n).drainInbound l).mem = s.mem ∧
    ((s.frameDone i n).drainInbound l).stream i = (s.stream i).passed n ∧
    ((s.frameDone i n).drainInbound l).entry i = s.entry i := by
  have done : s.frameDone i n = s.setStream i ((s.stream i).passed n) := by
    rw [frameDone_within hg hs hf, ← hn, ← hw]; rfl
  have stream : (s.setStream i ((s.stream i).passed n)).stream i = (s.stream i).passed n :=
    State.stream_setStream_self _ _ _
  have spared : Spares i _ ((s.setStream i ((s.stream i).passed n)).drainInbound l) :=
    drainInbound_spares (by rw [stream]; exact h)
  rw [done]
  exact ⟨spared.mem, spared.stream.trans stream, spared.entry⟩

/-- R15, R30, R31: a store that goes ahead, of a RUNNING stream before the last frame of its period. -/
theorem exec_store_runs {t : State} {c : StreamCounters} (hp : s.phase ≠ .held) (hg : (s.stream i).geom = some g)
    (hn : s.storeIsNext i g f) (hs : (s.stream i).stop = none) (hr : (s.stream i).state = .running)
    (hf : (s.stream i).frame + 1 < g.frames) (hb : (s.serveStream i .inbound).storeBegin i f.number = (t, true))
    (ht : t.stream i = { s.stream i with next := f.number, counters := c }) (hm : t.mem = s.mem) :
    ∃ r, exec (.streamStore i) s = .next r ∧
      r.mem = s.mem.writeWords ((s.stream i).address g 0) (f.kind.words g) ∧
      r.stream i = (s.stream i).stored f.number (f.kind.count c) ((s.stream i).stamp.getD f.number) ∧
      r.entry i = t.entry i := by
  have frame : (t.stream i).frame + 1 < g.frames := by rw [ht]; exact hf
  have address : (t.stream i).address g 0 = (s.stream i).address g 0 := by rw [ht]; rfl
  have put := frameStored_stream (f := f) frame
  rw [ht] at put
  refine ⟨_, exec_streamStore hp hg hn hb, ?_⟩
  obtain ⟨-, -, -, words⟩ := hn
  obtain ⟨mem, stream, entry⟩ := frameDone_drained (s := t.frameStored i g f) (i := i) (g := g) (l := g.lane)
    (n := f.number) (by rw [put]; exact hg) (by rw [put]; exact hs) (by rw [put]; exact words) (by rw [put])
    (by rw [put]; exact hf) (fun _ _ takes => by rw [put] at takes; exact nomatch hr.symm.trans takes.1)
  rw [if_pos rfl]
  refine ⟨?_, ?_, entry.trans (frameStored_entry frame i)⟩
  · rw [mem, frameStored_mem frame, hm, address]
  · rw [stream, put]; rfl

/-- A stream that has passed a frame does not take it again. -/
theorem not_takes_passed (x : Stream) (n : Word) : ¬ (x.passed n).takes n := by
  rintro ⟨-, stores⟩
  rw [Stream.storesFrame, Stream.passed, reached_next, Bool.false_and] at stores
  exact nomatch stores

/-- A frame dropped within a period, alone in staging. -/
theorem dropFrame_drained {l : Fin 8} (hg : (s.stream i).geom = some g) (hs : (s.stream i).stop = none)
    (hw : (s.stream i).words = 0) (hn : (s.stream i).next = f.number) (hf : (s.stream i).frame + 1 < g.frames)
    (alone : (s.lane l).inbound = [f]) :
    ((s.dropFrame i f.number).drainInbound l).mem = s.mem ∧
    ((s.dropFrame i f.number).drainInbound l).stream i = Stream.passed { s.stream i with
      counters := { (s.stream i).counters with dropped := satInc (s.stream i).counters.dropped } } f.number ∧
    ((s.dropFrame i f.number).drainInbound l).entry i = s.entry i := by
  rw [dropFrame_eq]
  generalize hy : ({ s.stream i with
    counters := { (s.stream i).counters with dropped := satInc (s.stream i).counters.dropped } } : Stream) = y
  have counted : (s.setStream i y).stream i = y := State.stream_setStream_self _ _ _
  have drained := frameDone_drained (s := s.setStream i y) (i := i) (g := g) (l := l) (n := f.number)
    (by rw [counted, ← hy]; exact hg) (by rw [counted, ← hy]; exact hs) (by rw [counted, ← hy]; exact hw)
    (by rw [counted, ← hy]; exact hn) (by rw [counted, ← hy]; exact hf)
    (fun k hk => by
      rw [State.setStream_lane, alone, List.mem_singleton] at hk
      rw [hk]
      exact not_takes_passed _ _)
  rw [counted] at drained
  exact drained

/-- R35: the frame that makes a stream OVERFLOWING. -/
theorem exec_store_overflows {e : RingEntry} {rec : PeriodRec} (hp : s.phase ≠ .held) (hg : (s.stream i).geom = some g)
    (hn : s.storeIsNext i g f) (he : s.entry i = some e) (hr : e.current.period (s.stream i).period = some rec)
    (hs : (s.stream i).stop = none) (ho : (s.stream i).state = .running) (hf : (s.stream i).frame + 1 < g.frames)
    (h0 : (s.stream i).frame = 0) (hready : rec.state = .ready) (hy : g.policy = .dropNew)
    (alone : (s.lane g.lane).inbound = [f]) : ∃ r, exec (.streamStore i) s = .next r ∧ r.mem = s.mem ∧
      r.entry i = s.entry i ∧ r.stream i = Stream.passed { s.stream i with
        state := .overflowing,
        counters := { (s.stream i).counters with dropped := satInc (s.stream i).counters.dropped } } f.number := by
  have begun := storeBegin_overflows (s := s.serveStream i .inbound) (n := f.number) (by simpa) (by simpa) (by simpa)
    (by simpa) hready hy (by simpa)
  refine ⟨_, exec_streamStore hp hg hn begun, ?_⟩
  obtain ⟨-, -, -, words⟩ := hn
  rw [if_neg Bool.false_ne_true, serveStream_stream]
  generalize hq : (((((s.serveStream i .inbound).facing i f.number).setStream i { s.stream i with
    next := f.number, state := .overflowing }).request (.live i)).passEvent _) = q
  have stream : q.stream i = { s.stream i with next := f.number, state := .overflowing } := by
    rw [← hq, State.passEvent_stream, State.request_stream, State.stream_setStream_self]
  have lane : q.lane g.lane = s.lane g.lane := by
    rw [← hq, State.passEvent_lane, State.request_lane, State.setStream_lane, State.facing, State.setStream_lane,
      serveStream_lane]
  have mem : q.mem = s.mem := by
    rw [← hq, State.passEvent_mem, State.request_mem]; exact serveStream_mem _
  have entry : q.entry i = s.entry i := by
    rw [← hq, State.passEvent_entry, State.request_entry]; exact serveStream_entry _ _
  obtain ⟨mem', stream', entry'⟩ := dropFrame_drained (s := q) (i := i) (g := g) (f := f) (l := g.lane)
    (by rw [stream]; exact hg) (by rw [stream]; exact hs) (by rw [stream]; exact words) (by rw [stream])
    (by rw [stream]; exact hf) (by rw [lane]; exact alone)
  exact ⟨mem'.trans mem, entry'.trans entry, by rw [stream', stream]; rfl⟩

/-- R24: a start stamp once set stays; the first frame stored sets it. -/
theorem stamp_getD (n : Word) (o : Option Word) : (match o with | none => n | some m => m) = o.getD n := by
  cases o <;> rfl

end Sys2Proof.Machine

namespace Sys2Proof.Proofs
open Sys2Proof.Machine Sys2Proof.Config

/-- Settles O40: the stores of R30 and R35 by the state of the period and of the stream, the claims that end a period, and
the end of a frame. -/
theorem storeWritesTheFrame : Obligations.StoreWritesTheFrame := by
  refine ⟨?_, fun s i e p rec he hr hn => ?_, ?_, fun s i g n hg => ?_, fun s i e p rec he => ?_⟩
  · rintro s i g ⟨n, kind⟩ e rec hp hg hn hx hs he hr hret - ho hf
    intro x words raised stored filling
    have hwords : kind.words g = words := by cases kind <;> rfl
    have hstored (c : StreamCounters) : x.stored n (kind.count c) (x.stamp.getD n) = stored c :=
      congrArg₂ (x.stored n) (show kind.count c = raised c by cases kind <;> rfl) (stamp_getD n x.stamp).symm
    have hg' : ((s.serveStream i .inbound).stream i).geom = some g := by simpa
    have he' : (s.serveStream i .inbound).entry i = some e := by simpa
    have hr' : e.current.period ((s.serveStream i .inbound).stream i).period = some rec := by simpa
    have running : ((s.serveStream i .inbound).stream i).state ≠ .overflowing := by simp [ho]
    have facing : ((s.serveStream i .inbound).facing i n).stream i = { s.stream i with next := n } := by
      rw [State.facing, State.stream_setStream_self, serveStream_stream]
    refine ⟨fun h0 => ?_, fun h0 hfree => ?_, fun h0 hready hy => ?_, fun h0 hready hy alone => ?_⟩
    · obtain ⟨r, run, mem, stream, entry⟩ := exec_store_runs hp hg hn hs ho hf
        (storeBegin_within hg' (by simpa) running) facing (serveStream_mem _)
      exact ⟨r, run, hwords ▸ mem, stream.trans (hstored _), entry.trans he'⟩
    · have begun := storeBegin_granted (n := n) hg' he' hr' (by simpa) (.inl hfree) running
      rw [State.taken, if_pos hfree, setPeriod_current (s := (s.serveStream i .inbound).facing i n) he' hret] at begun
      obtain ⟨r, run, mem, stream, entry⟩ := exec_store_runs hp hg hn hs ho hf begun facing (serveStream_mem _)
      refine ⟨r, run, hwords ▸ mem, stream.trans (hstored _), ?_⟩
      rw [entry, State.entry_setEntry_self, serveStream_stream]
    · have begun := storeBegin_reclaims (n := n) hg' he' hr' (by simpa) hready hy
      rw [setPeriod_current (s := (s.serveStream i .inbound).facing i n) he' hret] at begun
      obtain ⟨r, run, mem, stream, entry⟩ := exec_store_runs hp hg hn hs ho hf begun
        (by rw [State.passEvent_stream, State.stream_setStream_self, serveStream_stream])
        (by rw [State.passEvent_mem]; exact serveStream_mem _)
      refine ⟨r, run, hwords ▸ mem, ?_, stream.trans (hstored _)⟩
      rw [entry, State.passEvent_entry, State.setStream_entry, State.entry_setEntry_self, serveStream_stream]
    · obtain ⟨r, run, mem, entry, stream⟩ := exec_store_overflows hp hg hn he hr hs ho hf h0 hready hy alone
      exact ⟨r, run, mem, entry.trans he, stream⟩
  · have moved (x : PeriodState) : s.setPeriod i .current p { rec with state := x } = s.setEntry i (some { e with
        current := { e.current with periods := e.current.periods.set p { rec with state := x } } }) :=
      setPeriod_current he hn p _
    refine ⟨fun h => ?_, lastStoreClaim_of_other he hr, fun h => ?_, playedClaim_of_other he hr⟩
    · rw [lastStoreClaim_of_filling he hr h, State.ended, moved]; rfl
    · rw [playedClaim_of_current he hr h, State.ended, moved]; rfl
  · rintro s i g ⟨n, kind⟩ hp hg hn -
    intro x last words raised b y put shown claimed
    refine (exec_streamStore hp hg hn (t := b.1) (b := b.2) rfl).trans
      (congrArg (fun t => (.next (State.drainInbound t g.lane) : Result)) ?_)
    by_cases ahead : b.2 = true
    · have hwords : kind.words g = words := by cases kind <;> rfl
      have hraised : kind.count y.counters = raised y.counters := by cases kind <;> rfl
      have hput : b.1.putWords i (x.address g 0) (kind.words g) (kind.count y.counters) (x.stamp.getD n) n = put := by
        rw [hwords, hraised, ← stamp_getD]; rfl
      have at_ := storeBegin_ahead (s := s.serveStream i .inbound) (by simpa) ahead
      rw [if_pos ahead, if_pos ahead]
      refine congrArg (fun t => State.frameDone t i n) ?_
      rw [frameStored_ahead at_, serveStream_stream]
      dsimp only
      rw [hput]
    · rw [if_neg ahead, if_neg ahead]
  · refine ⟨rfl, fun r => frameDone_of_last, frameDone_goes_on, storeBegin_dropped hg, storeBegin_within hg,
      fun e rec he hr hf => ⟨storeBegin_granted hg he hr hf, storeBegin_resumes hg he hr hf,
        storeBegin_reclaims hg he hr hf, storeBegin_overflows hg he hr hf, storeBegin_refused hg he hr hf⟩⟩
  · exact ⟨lastStoreClaim_of_filling he, playedClaim_of_current he, fun base hb =>
      ⟨fun r hq hrb hr => playedClaim_of_retiring he hb hq hrb hr, playedClaim_of_quiet he hb⟩⟩

end Sys2Proof.Proofs
end

-- ==== Proofs of the family 02: events and stamps ====
section
/-! The Report Unit's reservation of an event's slot, the loss of events, and the stamps (R142, R156 to R161, R197, R199). -/

namespace Sys2Proof.Machine

variable {s : State} {e : Event}

/-! ## Reserved, lost or discarded (R159, R160, R166) -/

theorem passEvent_of_discards (h : s.phase.discardsEvents = true) : s.passEvent e = s := if_pos h

theorem passEvent_of_room (h : s.phase.discardsEvents = false) (hr : s.ru.occupied < 1023) : s.passEvent e = s.reserve e := by
  rw [State.passEvent, if_neg (by simp [h])]
  exact if_neg (Nat.not_le.2 hr)

theorem passEvent_of_full (h : s.phase.discardsEvents = false) (hf : 1023 ≤ s.ru.occupied) : s.passEvent e = s.loseEvent e := by
  rw [State.passEvent, if_neg (by simp [h])]
  exact if_pos hf

theorem raiseEventsLost_of_none (h : s.ru.lost = 0) : s.raiseEventsLost = s := if_pos h

theorem raiseEventsLost_of_lost (h : s.ru.lost ≠ 0) : s.raiseEventsLost =
    (({ s with ru := { s.ru with lost := 0, lostFaults := 0 } } : State).passEvent
      (Event.plain .eventsLost 0 (none, 0) (s.ru.lost.setWidth 32) (s.ru.lostFaults.setWidth 32))).request .report :=
  if_neg h

theorem discardsEvents_iff (x : Phase) : x.discardsEvents = false ↔ x = .opened ∨ x = .hostRecords := by
  cases x <;> simp [Phase.discardsEvents]

/-- R197: the words of an event record. -/
theorem eventWords_eq (e : Event) : e.words = [
    fields [(0, e.kind.code), (8, e.kind.cls.code), (12, match e.stampDomain with | none => 7 | some d => d.val),
      (16, e.source), (30, flagBit (e.flagA = true)), (31, flagBit (e.flagB = true))],
    e.stampCount, e.d0, e.d1] := by
  obtain ⟨kind, source, stamp, count, d0, d1, a, b⟩ := e
  cases stamp <;> rfl

/-! ## Stamps (R44, R142, R156) -/

theorem stampOf_of_stopped {d : Fin 4} (h : (s.domain d).run = .stopped) : s.stampOf d = (none, (s.domain d).count) := by
  simp [State.stampOf, Domain.running, h]

theorem stampOf_of_running {d : Fin 4} (h : (s.domain d).run ≠ .stopped) : s.stampOf d = (some d, (s.domain d).count) := by
  simp [State.stampOf, Domain.running, h]

theorem streamStamp_of_none {i : Fin 32} (h : (s.stream i).geom = none) : s.streamStamp i = (none, 0) := by
  unfold State.streamStamp; rw [h]

theorem domainOfWord_eq_some_iff {w : Word} {d : Fin 4} : domainOfWord w = some d ↔ w.toNat = d.val := by
  unfold domainOfWord
  split
  · simp only [Option.some.injEq, Fin.ext_iff]
  · next h => exact ⟨(fun e => nomatch e), fun e => absurd (e ▸ d.isLt) h⟩

theorem surfaceStamp_of_domain {p : Fin 2} {d : Fin 4} (h : d.val = (s.port p).mirrors.stampDomain.toNat) :
    s.surfaceStamp p = s.stampOf d := by
  unfold State.surfaceStamp
  rw [domainOfWord_eq_some_iff.2 h.symm]

theorem surfaceStamp_of_none {p : Fin 2} (h : 4 ≤ (s.port p).mirrors.stampDomain.toNat) : s.surfaceStamp p = (none, 0) := by
  unfold State.surfaceStamp domainOfWord
  rw [dif_neg (Nat.not_lt.2 h)]

end Sys2Proof.Machine

namespace Sys2Proof.Proofs
open Sys2Proof.Machine

/-- Settles O21: an event is discarded, reserved or lost by the phase and the occupied slots, and stamped by its domain. -/
theorem eventsAreReservedOrLost : Obligations.EventsAreReservedOrLost := by
  exact ⟨fun s e => ⟨passEvent_of_discards, passEvent_of_room, passEvent_of_full⟩,
    fun s => ⟨raiseEventsLost_of_none, raiseEventsLost_of_lost⟩, fun s => rfl, discardsEvents_iff, eventWords_eq,
    fun s d i p => ⟨stampOf_of_stopped, stampOf_of_running, streamStamp_of_none, fun g => streamStamp_of_some,
      surfaceStamp_of_none, surfaceStamp_of_domain⟩⟩

end Sys2Proof.Proofs
end

-- ==== Proofs of the family 02: START_STREAM ====
section
/-! START_STREAM (R26, R44). -/

namespace Sys2Proof.Machine

variable {s : State} {i : Fin 32} {g : Geometry}

/-- R26: the mark of the start record cleared. -/
def Stream.unmarked (x : Stream) : Stream := { x with start := x.start.map (fun r => { r with mark := false }) }

/-- R26, R44: the stream started in state `st`, its record asked for and STREAM_STARTED passed. -/
def State.startedAs (s : State) (i : Fin 32) (g : Geometry) (st : StreamState) : State :=
  ((s.setStream i { (s.stream i).unmarked with state := st }).request (.live i)).passEvent
    (s.ofStream .streamStarted i (fields [(0, g.dir.code), (8, st.code)])
      (match (s.stream i).start with | none => 0 | some r => r.frame) false false)

/-- An event of a stream whose geometry and whose clocks stand as in `s`. -/
theorem streamEvent_eq {t : State} (hg : (t.stream i).geom = (s.stream i).geom) (hc : t.cb = s.cb) (k : EventKind)
    (d0 d1 : Word) : t.streamEvent k i d0 d1 = s.ofStream k i d0 d1 false false := by
  rw [State.streamEvent, streamStamp_of_geom hg hc]
  rfl

theorem startFrame_eq (x : Option StartRecord) :
    orZero (x.map (·.frame)) = match x with | none => 0 | some r => r.frame := by
  cases x <;> rfl

/-- R44: the report of a start. -/
theorem reportStarted_eq (g : Geometry) (st : StreamState) :
    let t := s.setStream i { (s.stream i).unmarked with state := st }
    t.reportStream i (t.streamEvent .streamStarted i (fields [(0, g.dir.code), (8, st.code)])
      (orZero ((s.stream i).start.map (·.frame)))) = s.startedAs i g st := by
  intro t
  have geom : (t.stream i).geom = (s.stream i).geom := by rw [State.stream_setStream_self]; rfl
  rw [streamEvent_eq geom rfl, startFrame_eq]
  rfl

theorem startedAs_starvedEvent (st : StreamState) (z : Starvation) : (s.startedAs i g st).starvedEvent i z =
    s.ofStream .starved i (fields [(0, z.period)]) z.frame false false := by
  refine streamEvent_eq ?_ ?_ _ _ _
  · rw [State.startedAs, State.passEvent_stream, State.request_stream, State.stream_setStream_self]
    rfl
  · rw [State.startedAs, State.passEvent_cb, State.request_cb, State.setStream_cb]

/-- R26: the state in which a PRIMED stream starts. -/
def Stream.startState (x : Stream) (g : Geometry) : StreamState :=
  match g.dir, x.starved with
  | .play, some _ => .starved
  | _, _ => .running

theorem startState_of_fed {x : Stream} (h : x.starved = none ∨ g.dir = .capture) : x.startState g = .running := by
  unfold Stream.startState
  rcases h with h | h <;> rw [h]
  cases g.dir <;> rfl

theorem startState_of_starved {x : Stream} {z : Starvation} (hd : g.dir = .play) (hz : x.starved = some z) :
    x.startState g = .starved := by
  unfold Stream.startState
  rw [hd, hz]

theorem applyStart_of_primed (hg : (s.stream i).geom = some g) (hs : (s.stream i).state = .primed) : s.applyStart i =
    match (s.stream i).startState g, (s.stream i).starved with
    | .starved, some z => .done ((s.startedAs i g ((s.stream i).startState g)).passEvent
        ((s.startedAs i g ((s.stream i).startState g)).starvedEvent i z))
    | _, _ => .done (s.startedAs i g ((s.stream i).startState g)) := by
  rw [← reportStarted_eq]
  unfold State.applyStart
  dsimp only
  split
  · next y _ hy =>
    obtain rfl : y = g := Option.some.inj (hy.symm.trans hg)
    rfl
  · next h => exact nomatch hs.symm.trans h
  · next _ h => exact absurd hg (h g hs)

theorem applyStart_of_fed (hg : (s.stream i).geom = some g) (hs : (s.stream i).state = .primed)
    (h : (s.stream i).starved = none ∨ g.dir = .capture) : s.applyStart i = .done (s.startedAs i g .running) := by
  rw [applyStart_of_primed hg hs, startState_of_fed h]

theorem applyStart_of_starved {z : Starvation} (hg : (s.stream i).geom = some g) (hs : (s.stream i).state = .primed)
    (hd : g.dir = .play) (hz : (s.stream i).starved = some z) : s.applyStart i =
      .done ((s.startedAs i g .starved).passEvent (s.ofStream .starved i (fields [(0, z.period)]) z.frame false false)) := by
  rw [applyStart_of_primed hg hs, startState_of_starved hd hz, hz]
  dsimp only
  rw [startedAs_starvedEvent]

theorem applyStart_of_halted (hs : (s.stream i).state = .halted) :
    s.applyStart i = .refused (s.setStream i (s.stream i).unmarked) .wrongState := by
  unfold State.applyStart
  dsimp only
  split
  · next h _ => exact nomatch hs.symm.trans h
  · rfl
  · next h _ => exact absurd hs h

theorem applyStart_of_other (hp : (s.stream i).state ≠ .primed) (hh : (s.stream i).state ≠ .halted) :
    s.applyStart i = .refused s .wrongState := by
  unfold State.applyStart
  dsimp only
  split
  · next h _ => exact absurd h hp
  · next h => exact absurd h hh
  · rfl

/-- START_STREAM on a stream: its owner's answer (R59, R63). -/
theorem exec_startStream {c : CueBody} (hp : s.phase ≠ .held) (hd : s.dueNow c) (hi : c.target.toNat = i.val) :
    exec (.startStream c) s = .next (s.afterOutcome ⟨.startStream, c⟩ (s.applyStart i)) := by
  have owner : s.handOver ⟨.startStream, c⟩ = s.applyStart i := by
    show onTarget s (streamOf c.target) s.applyStart = _
    rw [streamOf_eq hi]; rfl
  show powered s (fun s => s.applyIfReached ⟨.startStream, c⟩) = _
  rw [powered, if_neg hp, applyIfReached_of_due hd, applyCue_of_check rfl, owner]

end Sys2Proof.Machine

namespace Sys2Proof.Proofs
open Sys2Proof.Machine

/-- Settles O33: the owner's answer to START_STREAM by the stream's state. -/
theorem startStreamRunsThePrimedStream : Obligations.StartStreamRunsThePrimedStream := by
  intro s c i hp hd hi
  have run := exec_startStream hp hd hi
  refine ⟨fun g hg hs h => ?_, fun g z hg hs hpl hz => ?_, fun hs => ?_, fun hs hh => ?_⟩
  · rw [run, applyStart_of_fed hg hs h]; rfl
  · rw [run, applyStart_of_starved hg hs hpl hz]; rfl
  · rw [run, applyStart_of_halted hs]; rfl
  · rw [run, applyStart_of_other hs hh]; rfl

end Sys2Proof.Proofs
end

-- ==== Proofs of the family 02: the arbitration point ====
section
/-! The arbitration point, the lanes in turn, and the work of a lane (R27, R174 to R177, R179, R181). -/

namespace Sys2Proof.Machine

variable {s : State} {l : Fin 8} {i : Fin 32} {g : Geometry}

/-! ## One arbitration point (R176, R177) -/

theorem arbitrate_of_urgentRefresh (h : 4 ≤ s.mc.refreshPending) : s.arbitrate = s.grantRefresh := if_pos h

theorem arbitrate_of_shortLane {x : Fin 8 × FlowDir} (h : s.mc.refreshPending < 4) (hu : s.urgentStream = some x) :
    s.arbitrate = s.grantStream x := by
  rw [State.arbitrate, if_neg (Nat.not_le.2 h), hu]

theorem arbitrate_of_refresh (h : 1 ≤ s.mc.refreshPending) (h4 : s.mc.refreshPending < 4) (hu : s.urgentStream = none) :
    s.arbitrate = s.grantRefresh := by
  rw [State.arbitrate, if_neg (Nat.not_le.2 h4), hu]
  exact if_pos h

/-- R176: the first of three requesters, in turn, that has a request. -/
def State.firstOf (s : State) (a b c : Requester) : State := ((s.tryGrant a).or ((s.tryGrant b).or (s.tryGrant c))).getD s

theorem findSome?_three (s : State) (a b c : Requester) : ([a, b, c].findSome? s.tryGrant).getD s = s.firstOf a b c := by
  have next (x : Requester) (l : List Requester) :
      (x :: l).findSome? s.tryGrant = (s.tryGrant x).or (l.findSome? s.tryGrant) := by
    rw [List.findSome?_cons]
    cases s.tryGrant x <;> rfl
  rw [next, next, next, List.findSome?_nil, Option.or_none, State.firstOf]

theorem arbitrate_of_rotation (h : s.mc.refreshPending = 0) (hu : s.urgentStream = none) :
    s.arbitrate = ((rotation s.mc.lastOfThree).findSome? s.tryGrant).getD s := by
  rw [State.arbitrate, h, hu]
  rfl

theorem arbitrate_in_turn (h : s.mc.refreshPending = 0) (hu : s.urgentStream = none) :
    (s.mc.lastOfThree = .record → s.arbitrate = s.firstOf .pass .stream .record) ∧
    (s.mc.lastOfThree = .pass → s.arbitrate = s.firstOf .stream .record .pass) ∧
    (s.mc.lastOfThree = .stream → s.arbitrate = s.firstOf .record .pass .stream) := by
  refine ⟨fun hl => ?_, fun hl => ?_, fun hl => ?_⟩ <;> rw [arbitrate_of_rotation h hu, hl, ← findSome?_three] <;> rfl

/-! ## The port opened by a grant (R179, R181) -/

theorem opens_iff (x : Phase) : x.opens = true ↔ x = .records ∨ x = .hostRecords := by
  cases x <;> simp [Phase.opens]

/-- READY's write still stands in the Record order. -/
def State.awaitsReady (s : State) : Prop := ∃ x ∈ s.mc.records, x.work = .status .startWord

theorem not_awaitsReady_iff (s : State) : ¬ s.awaitsReady ↔ s.mc.records.any (·.work.isReady) = false := by
  simp only [State.awaitsReady, ← Bool.not_eq_true, List.any_eq_true, RecordWork.isReady, beq_iff_eq]

theorem openWhenReady_waits (h : ¬ s.phase.opens = true ∨ s.awaitsReady) : s.openWhenReady = s := by
  refine if_neg fun hn => ?_
  exact h.elim (fun h => h hn.1) (fun h => (not_awaitsReady_iff s).2 hn.2 h)

theorem openWhenReady_opens (h : s.phase.opens = true) (hr : ¬ s.awaitsReady) : s.openWhenReady = s.writeReady := by
  have gone := (not_awaitsReady_iff s).1 hr
  have none : s.completeThrough RecordWork.isReady = s :=
    completeThrough_of_none fun x hx => Bool.eq_false_iff.2 fun hw =>
      Bool.eq_false_iff.1 gone (List.any_eq_true.2 ⟨x, hx, hw⟩)
  rw [State.openWhenReady, if_pos ⟨h, gone⟩, State.writeReady, if_pos h, none]

theorem exec_memoryArbitration (h : s.phase ≠ .held) :
    exec .memoryArbitration s = .next s.arbitrate.openWhenReady := congrArg _ (if_neg h)

theorem exec_passPortOpen (h : s.phase ≠ .held) : exec .passPortOpen s = .next s.writeReady := congrArg _ (if_neg h)

/-! ## Which stream fetches next (R27, R41) -/

theorem stagedFrom_eq (s : State) (g : Geometry) : s.stagedFrom g = s.firstToLeave g.lane g.domain := by
  simp only [State.stagedFrom, State.firstToLeave, List.contains_iff_mem]

theorem fetches_iff (x : StreamState) : x.fetches = true ↔ x = .primed ∨ x = .running ∨ x = .starved := by
  cases x <;> simp [StreamState.fetches]

/-- R41: frame `n` is not beyond the last frame of the stream's stop. -/
def Stream.within (x : Stream) (n : Word) : Bool :=
  match x.stop with
  | none => true
  | some r => reached n r.last

theorem within_iff (x : Stream) (n : Word) :
    x.within n = true ↔ ∀ r, x.stop = some r → (r.last - n).toNat < 2147483648 := by
  unfold Stream.within
  cases x.stop <;> simp [reached]

theorem mayFetch_eq (hg : (s.stream i).geom = some g) : s.mayFetch i = (g.dir == .play && (s.stream i).state.fetches &&
    inWindow (s.stagedFrom g) (s.stream i).next && (s.stream i).within (s.stream i).next) := by
  unfold State.mayFetch
  simp only [hg]
  rfl

theorem mayFetch_iff (hg : (s.stream i).geom = some g) : s.mayFetch i = true ↔ g.dir = .play ∧
    ((s.stream i).state = .primed ∨ (s.stream i).state = .running ∨ (s.stream i).state = .starved) ∧
    ((s.stream i).next - s.firstToLeave g.lane g.domain).toNat < 4 ∧
    ∀ r, (s.stream i).stop = some r → (r.last - (s.stream i).next).toNat < 2147483648 := by
  rw [mayFetch_eq hg, ← within_iff, ← fetches_iff, ← stagedFrom_eq]
  simp only [Bool.and_eq_true, beq_iff_eq, inWindow, decide_eq_true_eq, and_assoc]

theorem mem_streamsOn_iff (dir : Direction) :
    i ∈ s.streamsOn l dir ↔ ∃ g, (s.stream i).geom = some g ∧ g.lane = l ∧ g.dir = dir := by
  rw [streamsOn_eq]
  simp only [List.mem_filter, List.mem_finRange, true_and, Option.any_eq_true, Bool.and_eq_true, beq_iff_eq]

theorem fetchInOrder_iff (hg : (s.stream i).geom = some g) : s.fetchInOrder i = true ↔
    ∀ j h, (s.stream j).geom = some h → h.lane = g.lane → h.dir = .play → s.mayFetch j = true →
      ((s.stream i).next - s.firstToLeave g.lane g.domain).toNat ≤
        ((s.stream j).next - s.firstToLeave g.lane g.domain).toNat := by
  unfold State.fetchInOrder
  simp only [hg, List.all_eq_true, mem_streamsOn_iff, Bool.or_eq_true, Bool.not_eq_true', decide_eq_true_eq, stagedFrom_eq]
  constructor
  · intro h j y hy hl hd hm
    exact (h j ⟨y, hy, hl, hd⟩).resolve_left (by simp [hm])
  · rintro h j ⟨y, hy, hl, hd⟩
    cases hm : s.mayFetch j
    · exact .inl rfl
    · exact .inr (h j y hy hl hd hm)

/-! ## The work of a lane (R176) -/

theorem laneWork_outbound_iff : s.laneWork l .outbound i ↔ i ∈ s.streamsOn l .play ∧ s.fetchReady i = true := by
  rw [mem_streamsOn_iff, State.fetchReady, Bool.and_eq_true]
  constructor
  · rintro ⟨g, hg, hl, hd, hm, ho⟩; exact ⟨⟨g, hg, hl, hd⟩, hm, ho⟩
  · rintro ⟨⟨g, hg, hl, hd⟩, hm, ho⟩; exact ⟨g, hg, hl, hd, hm, ho⟩

theorem laneWork_inbound_iff : s.laneWork l .inbound i ↔
    i ∈ s.streamsOn l .capture ∧ ∃ f, (s.lane l).inbound.head? = some f ∧ s.delays f.number i = true := by
  rw [mem_streamsOn_iff]
  constructor
  · rintro ⟨g, hg, hl, hd, hf⟩; exact ⟨⟨g, hg, hl, hd⟩, hf⟩
  · rintro ⟨⟨g, hg, hl, hd⟩, hf⟩; exact ⟨g, hg, hl, hd, hf⟩

/-- The stream whose transaction is the lane's next in a direction. -/
def State.nextOf (s : State) (l : Fin 8) : FlowDir → Option (Fin 32)
  | .outbound => s.nextFetch l
  | .inbound => s.nextStore l

/-- The lane's work in a direction is found among its streams in rising number. -/
def State.works (s : State) (l : Fin 8) (dir : FlowDir) (i : Fin 32) : Bool :=
  match dir with
  | .outbound => s.fetchReady i
  | .inbound => (s.lane l).inbound.head?.any (fun f => s.delays f.number i)

def FlowDir.streams : FlowDir → Direction
  | .outbound => .play
  | .inbound => .capture

theorem laneWork_iff (dir : FlowDir) : s.laneWork l dir i ↔ i ∈ s.streamsOn l dir.streams ∧ s.works l dir i = true := by
  cases dir
  · exact laneWork_outbound_iff
  · rw [laneWork_inbound_iff, State.works, Option.any_eq_true]; rfl

theorem nextOf_eq (s : State) (l : Fin 8) (dir : FlowDir) :
    s.nextOf l dir = (s.streamsOn l dir.streams).find? (s.works l dir) := by
  cases dir with
  | outbound => rfl
  | inbound =>
    show s.nextStore l = _
    unfold State.nextStore
    cases h : (s.lane l).inbound with
    | nil => exact (List.find?_eq_none.2 fun i _ => by simp [State.works, h]).symm
    | cons f fs => exact congrArg (List.find? · _) (funext fun i => by simp [State.works, h])

theorem hasWork_iff (s : State) (l : Fin 8) (dir : FlowDir) : s.hasWork l dir = true ↔ ∃ i, s.laneWork l dir i := by
  have next : s.hasWork l dir = (s.nextOf l dir).isSome := by cases dir <;> rfl
  simp only [next, nextOf_eq, List.find?_isSome, laneWork_iff]

/-- The first index of which a test holds. -/
theorem find?_finRange_iff {n : Nat} {p : Fin n → Bool} {k : Fin n} :
    (List.finRange n).find? p = some k ↔ p k = true ∧ ∀ j < k, ¬ p j = true := by
  simp only [List.find?_eq_some_iff_getElem, List.length_finRange, List.getElem_finRange, Bool.not_eq_true',
    Bool.not_eq_true]
  refine and_congr_right fun _ => ⟨?_, fun h => ⟨k.val, k.isLt, rfl, fun j hj => h _ hj⟩⟩
  rintro ⟨m, hm, rfl, h⟩ j hj
  exact h j.val hj

/-- R176: the lane's transaction is one of the lowest stream that has work. -/
theorem nextOf_of_lowest {dir : FlowDir} (h : s.laneWork l dir i) (hl : ∀ j < i, ¬ s.laneWork l dir j) :
    s.nextOf l dir = some i := by
  have test (j : Fin 32) : s.laneWork l dir j ↔
      ((s.stream j).geom.any (fun g => g.lane == l && g.dir == dir.streams) && s.works l dir j) = true := by
    rw [laneWork_iff, streamsOn_eq, List.mem_filter, Bool.and_eq_true]
    simp only [List.mem_finRange, true_and]
  rw [nextOf_eq, streamsOn_eq, List.find?_filter]
  exact find?_finRange_iff.2 ⟨by simpa using (test i).1 h, fun j hj hw => hl j hj ((test j).2 (by simpa using hw))⟩

theorem grantStream_of_work {dir : FlowDir} (h : s.laneWork l dir i) (hl : ∀ j < i, ¬ s.laneWork l dir j) :
    (dir = .outbound → s.grantStream (l, dir) = (s.serve (l, dir)).fetchFrame i .transaction) ∧
    (dir = .inbound → s.grantStream (l, dir) = (s.serve (l, dir)).storeFrame i .transaction) := by
  have next := nextOf_of_lowest h hl
  constructor <;> rintro rfl
  · have first : s.nextFetch l = some i := next
    simp only [State.grantStream, first]
  · have first : s.nextStore l = some i := next
    simp only [State.grantStream, first]

/-! ## The lanes in turn (R176) -/

theorem findLane_iff {p : Fin 8 → Bool} : s.lanesInTurn.find? p = some l ↔ s.firstInTurn (fun k => p k = true) l := by
  rw [State.lanesInTurn, List.find?_map, Option.map_eq_some_iff]
  simp only [indices, find?_finRange_iff, State.firstInTurn, Function.comp_apply]
  refine exists_congr fun k => ⟨?_, ?_⟩
  · rintro ⟨⟨hp, hn⟩, rfl⟩; exact ⟨rfl, hp, hn⟩
  · rintro ⟨rfl, hp, hn⟩; exact ⟨⟨hp, hn⟩, rfl⟩

theorem findLane_none {p : Fin 8 → Bool} : s.lanesInTurn.find? p = none ↔ ∀ k, ¬ p k = true := by
  rw [List.find?_eq_none]
  refine ⟨fun h k => h k ?_, fun h k _ => h k⟩
  refine List.mem_map.2 ⟨k - s.mc.laneTurn - 1, List.mem_finRange _, ?_⟩
  generalize s.mc.laneTurn = t
  revert t k
  decide

theorem firstInTurn_congr {p q : Fin 8 → Prop} (h : ∀ k, p k ↔ q k) : s.firstInTurn p l ↔ s.firstInTurn q l := by
  simp only [State.firstInTurn, h]

theorem shortOutbound_iff (s : State) (l : Fin 8) : s.shortOutbound l = true ↔ s.isShortOut l := by
  simp only [State.shortOutbound, List.any_eq_true, mem_streamsOn_iff, Bool.and_eq_true]
  refine exists_congr fun i => ?_
  constructor
  · rintro ⟨⟨g, hg, rfl, hd⟩, hf, hn⟩
    simp only [State.isFetching, Bool.and_eq_true, Bool.or_eq_true, beq_iff_eq] at hf
    simp only [hg, decide_eq_true_eq, stagedFrom_eq] at hn
    refine ⟨⟨hf.1, hf.2, g, hg, rfl, hd⟩, fun y hy => ?_⟩
    obtain rfl : g = y := Option.some.inj (hg.symm.trans hy)
    exact hn
  · rintro ⟨⟨hs, hm, g, hg, rfl, hd⟩, hn⟩
    refine ⟨⟨g, hg, rfl, hd⟩, ?_, ?_⟩
    · simp only [State.isFetching, Bool.and_eq_true, Bool.or_eq_true, beq_iff_eq]
      exact ⟨hs, hm⟩
    · simp only [hg, decide_eq_true_eq, stagedFrom_eq]
      exact hn g hg

theorem shortInbound_iff (s : State) (l : Fin 8) : s.shortInbound l = true ↔ s.isShortIn l := by
  rw [State.shortInbound, Bool.and_eq_true, decide_eq_true_eq, hasWork_iff, State.isShortIn]

theorem shortLane_iff (s : State) (l : Fin 8) : s.shortLane l = true ↔ s.isShortOut l ∨ s.isShortIn l := by
  rw [State.shortLane, Bool.or_eq_true, shortOutbound_iff, shortInbound_iff]

/-- A lane found in turn, with the direction that goes with it. -/
theorem laneAndDir_iff {o : Option (Fin 8)} {f : Fin 8 → FlowDir} {dir : FlowDir} :
    o.map (fun l => (l, f l)) = some (l, dir) ↔ o = some l ∧ f l = dir := by
  cases o with
  | none => simp
  | some k =>
    simp only [Option.map_some, Option.some.injEq, Prod.mk.injEq]
    exact and_congr_right fun e => by rw [e]

theorem shortDir_iff (s : State) (l : Fin 8) (dir : FlowDir) :
    s.shortDir l = dir ↔ (dir = .outbound ↔ s.isShortOut l) := by
  rw [← shortOutbound_iff, State.shortDir]
  cases s.shortOutbound l <;> cases dir <;> simp

theorem urgentStream_iff {dir : FlowDir} : s.urgentStream = some (l, dir) ↔
    s.firstInTurn (fun k => s.isShortOut k ∨ s.isShortIn k) l ∧ (dir = .outbound ↔ s.isShortOut l) := by
  rw [State.urgentStream, laneAndDir_iff, findLane_iff, shortDir_iff, firstInTurn_congr (shortLane_iff s)]

theorem urgentStream_none : s.urgentStream = none ↔ ∀ k, ¬ (s.isShortOut k ∨ s.isShortIn k) := by
  simp only [State.urgentStream, Option.map_eq_none_iff, findLane_none, shortLane_iff]

/-- R176 step 4: the direction of a lane that has work: the one that has it, not the one served last where both have. -/
theorem workDir_iff (h : s.hasWork l .outbound = true ∨ s.hasWork l .inbound = true) (dir : FlowDir) :
    s.workDir l = dir ↔ s.hasWork l dir = true ∧ ∀ o, o ≠ dir → s.hasWork l o = true → s.mc.laneDir[l] = o := by
  have both {p : FlowDir → Prop} : (∀ o, p o) ↔ p .outbound ∧ p .inbound :=
    ⟨fun h => ⟨h _, h _⟩, fun h o => by cases o; exacts [h.1, h.2]⟩
  rw [both, State.workDir]
  generalize s.mc.laneDir[l] = last
  split
  · next out inb =>
    have work : s.hasWork l dir = true := by cases dir; exacts [out, inb]
    simp only [out, inb, work, true_and, forall_const]
    cases dir <;> cases last <;> decide
  · next out inb => cases dir <;> simp [out, inb]
  · next out =>
    have inb := h.resolve_left (by simp [out])
    cases dir <;> simp [out, inb]

theorem streamWork_iff {dir : FlowDir} : s.streamWork = some (l, dir) ↔
    s.firstInTurn (fun k => (∃ i, s.laneWork k .outbound i) ∨ ∃ i, s.laneWork k .inbound i) l ∧
      (∃ i, s.laneWork l dir i) ∧ ∀ o, o ≠ dir → (∃ i, s.laneWork l o i) → s.mc.laneDir[l] = o := by
  simp only [State.streamWork, laneAndDir_iff, findLane_iff, Bool.or_eq_true, ← hasWork_iff]
  refine and_congr_right fun ⟨_, _, h, _⟩ => workDir_iff h dir

theorem streamWork_none : s.streamWork = none ↔ ∀ k e, ¬ ∃ i, s.laneWork k e i := by
  simp only [State.streamWork, Option.map_eq_none_iff, findLane_none, Bool.or_eq_true, ← hasWork_iff, not_or]
  refine forall_congr' fun k => ⟨fun h e => ?_, fun h => ⟨h _, h _⟩⟩
  cases e
  · exact h.1
  · exact h.2

/-! ## Refresh (R174, R177) -/

theorem cycles_eq (x : RefreshSel) : x.cycles = match x with | .us78 => 780 | .us39 => 390 := by cases x <;> rfl

theorem exec_refreshInterval {dt t0 : Nat} (h : s.phase ≠ .held) (ht : s.mc.refreshTimer = some t0) :
    exec (.refreshInterval dt) s = .next (if t0 + s.mc.refresh.cycles ≤ s.mclk + dt then { s with
      mclk := s.mclk + dt,
      mc := { s.mc with
        refreshTimer := some (t0 + s.mc.refresh.cycles), refreshPending := min 8 (s.mc.refreshPending + 1) } }
    else { s with mclk := s.mclk + dt }) := by
  have timer : (s.elapse dt).mc.refreshTimer = some t0 := ht
  refine congrArg _ ((if_neg h).trans ?_)
  simp only [timer]
  rfl

end Sys2Proof.Machine

namespace Sys2Proof.Proofs
open Sys2Proof.Machine

/-- Settles O41: the order of the arbitration point, the lanes in turn and their work, and the pending refreshes. -/
theorem arbitrationFollowsItsOrder : Obligations.ArbitrationFollowsItsOrder := by
  refine ⟨fun s hp => ?_, fun s l dir => ⟨urgentStream_iff, urgentStream_none, streamWork_iff, streamWork_none,
    fun i hw hl => grantStream_of_work hw hl⟩, fun s i g hg => ⟨mayFetch_iff hg, fetchInOrder_iff hg⟩,
    fun a rest => ⟨rfl, rfl⟩, fun s dt t0 hp ht => ?_⟩
  · have phase : s.arbitrate.phase = s.phase := (arbiter_arbitrate s).phase
    refine ⟨arbitrate_of_urgentRefresh, fun g => arbitrate_of_shortLane, arbitrate_of_refresh, arbitrate_in_turn,
      fun h => ?_, fun hc hr => ?_⟩
    · rw [exec_memoryArbitration hp, openWhenReady_waits (by rwa [phase, opens_iff])]
    · rw [exec_memoryArbitration hp, openWhenReady_opens (by rwa [phase, opens_iff]) hr, exec_passPortOpen (by rwa [phase])]
  · intro interval
    have cycles : s.mc.refresh.cycles = interval := cycles_eq _
    rw [exec_refreshInterval hp ht, cycles]
    exact ⟨fun h => by rw [if_pos h], fun h => by rw [if_neg (Nat.not_le.2 h)]⟩

end Sys2Proof.Proofs
end

-- ==== Proofs of the family 02: the work of one stream ====
section
/-! What the work of one stream leaves alone (R28, R30, R176). -/

namespace Sys2Proof.Machine

variable {s : State} {i : Fin 32} {g : Geometry}

/-! ## Memory through a store (R30, R35) -/

@[simp] theorem becomeIdle_mem (s : State) (i : Fin 32) (how : StopHow) : (s.becomeIdle i how).mem = s.mem := by
  rw [becomeIdle_eq, State.passEvent_mem, State.request_mem, (left_frame s i).1]

@[simp] theorem frameDone_mem (s : State) (i : Fin 32) (n : Word) : (s.frameDone i n).mem = s.mem := by
  unfold State.frameDone
  dsimp only
  split
  · split <;> simp
  · simp

@[simp] theorem dropFrame_mem (s : State) (i : Fin 32) (n : Word) : (s.dropFrame i n).mem = s.mem := by
  rw [dropFrame_eq, frameDone_mem, State.setStream_mem]

@[simp] theorem firstStoreClaim_mem (s : State) (i : Fin 32) (p : Nat) (y : StreamPolicy) :
    (s.firstStoreClaim i p y).1.mem = s.mem := by
  rw [firstStoreClaim_frame]

@[simp] theorem lastStoreClaim_mem (s : State) (i : Fin 32) (p : Nat) : (s.lastStoreClaim i p).mem = s.mem := by
  unfold State.lastStoreClaim
  repeat' split
  all_goals simp

@[simp] theorem storeBegin_mem (s : State) (i : Fin 32) (n : Word) : (s.storeBegin i n).1.mem = s.mem := by
  unfold State.storeBegin
  dsimp only
  repeat' split
  all_goals simp

@[simp] theorem storeEnd_mem (s : State) (i : Fin 32) (f : InboundFrame) : (s.storeEnd i f).mem = s.mem := by
  unfold State.storeEnd
  dsimp only
  repeat' split
  all_goals simp

theorem foldl_mem {α : Type} {f : State → α → State} (h : ∀ s x, (f s x).mem = s.mem) :
    ∀ (l : List α) (s : State), (l.foldl f s).mem = s.mem
  | [], _ => rfl
  | x :: l, s => (foldl_mem h l (f s x)).trans (h s x)

/-- R35: the OVERFLOWING streams store nothing of what they take. -/
@[simp] theorem overflowTake_mem (s : State) (l : Fin 8) (n : Word) : (s.overflowTake l n).mem = s.mem := by
  refine foldl_mem (fun u j => ?_) _ s
  split
  · exact storeBegin_mem u j n
  · rfl

@[simp] theorem leaveInbound_mem (l : Fin 8) (s : State) (f : InboundFrame) : (State.leaveInbound l s f).mem = s.mem := by
  unfold State.leaveInbound
  dsimp only
  split <;> simp

@[simp] theorem drainInbound_mem (s : State) (l : Fin 8) : (s.drainInbound l).mem = s.mem :=
  foldl_mem (leaveInbound_mem l) _ s

theorem storeWords_mem {f : InboundFrame} (hg : (s.stream i).geom = some g) (k : Nat) : (s.storeWords i f k).mem =
    s.mem.writeWords ((s.stream i).address g (s.stream i).words) (((f.kind.words g).drop (s.stream i).words).take k) := by
  unfold State.storeWords
  simp only [hg]
  split
  · rfl
  · rw [storeEnd_mem]

/-- R30: the words still to be stored of a frame lie within it. -/
theorem storeWords_rest_outside {f : InboundFrame} (hg : (s.stream i).geom = some g) (hm : s.mem.wf = true) {a : Nat}
    (ha : a < (s.stream i).address g 0 ∨ (s.stream i).address g 0 + 4 * g.channels ≤ a) :
    (s.storeWords i f (g.channels - (s.stream i).words)).mem.readByte a = s.mem.readByte a := by
  have rest : (((f.kind.words g).drop (s.stream i).words).take (g.channels - (s.stream i).words)).length ≤
      g.channels - (s.stream i).words := List.length_take_le _ _
  rw [storeWords_mem hg, Memory.readByte_writeWords_outside hm]
  rw [address_eq (k := (s.stream i).words)]
  omega

/-- R30: what comes before a frame's words leaves its place in the ring as it was. -/
theorem storeFrame_outside (hg : (s.stream i).geom = some g) (hm : s.mem.wf = true) {a : Nat}
    (ha : a < (s.stream i).address g 0 ∨ (s.stream i).address g 0 + 4 * g.channels ≤ a) :
    (s.storeFrame i .whole).mem.readByte a = s.mem.readByte a := by
  unfold State.storeFrame
  simp only [hg]
  split
  · rfl
  · next f fs _ =>
    split
    · rw [drainInbound_mem]
      by_cases hw : (s.stream i).words = 0
      · rw [if_pos hw]
        split
        · next hb =>
          have ahead := storeBegin_ahead hg hb
          have address : ((s.storeBegin i f.number).1.stream i).address g 0 = (s.stream i).address g 0 := by
            simp only [Stream.address, ahead.period, ahead.frame]
          refine (storeWords_rest_outside (ahead.geom.trans hg) (by simpa) (by rwa [address])).trans ?_
          rw [storeBegin_mem]
        · rw [storeBegin_mem]
      · rw [if_neg hw, if_pos rfl]
        exact storeWords_rest_outside hg hm ha
    · rfl

/-! ## STREAM_FETCH and STREAM_STORE (R28, R30) -/

theorem exec_streamFetch_ready (hp : s.phase ≠ .held) (hr : s.fetchReady i = true) :
    exec (.streamFetch i) s = .next ((s.serveStream i .outbound).fetchFrame i .whole) :=
  congrArg _ ((if_neg hp).trans (if_pos hr))

theorem exec_streamStore_ready (hp : s.phase ≠ .held) (hr : s.storeReady i = true) :
    exec (.streamStore i) s = .next ((s.serveStream i .inbound).storeFrame i .whole) :=
  congrArg _ ((if_neg hp).trans (if_pos hr))

theorem exec_streamFetch_idle (hr : s.fetchReady i = false) : exec (.streamFetch i) s = .next s :=
  congrArg _ ((if_congr Iff.rfl rfl (if_neg (by simp [hr]))).trans (ite_self s))

theorem exec_streamStore_idle (hr : s.storeReady i = false) : exec (.streamStore i) s = .next s :=
  congrArg _ ((if_congr Iff.rfl rfl (if_neg (by simp [hr]))).trans (ite_self s))

theorem fetchReady_of_none (h : (s.stream i).geom = none) : s.fetchReady i = false := by
  simp [State.fetchReady, State.mayFetch, h]

theorem storeReady_of_none (h : (s.stream i).geom = none) : s.storeReady i = false := by
  simp [State.storeReady, h]

end Sys2Proof.Machine

namespace Sys2Proof.Proofs
open Sys2Proof.Machine

/-- Settles O37: the frame of STREAM_FETCH and of STREAM_STORE, and the bytes that a store leaves. -/
theorem engineWorkKeepsTheRest : Obligations.EngineWorkKeepsTheRest := by
  refine ⟨fun s i hp => ⟨fun hr => ⟨_, exec_streamFetch_ready hp hr, engine_fetchFrame (.refl _) i .whole, ?_⟩,
    fun hr => ⟨_, exec_streamStore_ready hp hr, engine_storeFrame (.refl _) i .whole, fun g hg hm a ha => ?_⟩⟩,
    fun s i => ⟨exec_streamFetch_idle, exec_streamStore_idle, fun h => ⟨fetchReady_of_none h, storeReady_of_none h⟩⟩,
    fun s i g dir hg => serveStream_eq hg dir⟩
  · rw [State.fetchFrame_mem, serveStream_mem]
  · rw [storeFrame_outside (by simpa) (by simpa) (by simpa using ha), serveStream_mem]

end Sys2Proof.Proofs
end

-- ==== Proofs of the family 02: the acceptance of a record ====
section
/-! The acceptance of a taken record: the reading of a stage entry in its turn, the targets and the domains of the verbs, and
the order of the checks (R20, R51 to R54, R68, R175, R176). -/

namespace Sys2Proof.Machine

variable {s : State}

/-! ## The read of a stage entry in its turn (R20, R175, R176) -/

theorem readWaits_iff (s : State) : s.readWaits = true ↔ ∃ it ∈ s.mc.records, it.work = .stageRead := by
  simp only [State.readWaits, List.any_eq_true, beq_iff_eq]

/-- Waiting runs arbitration points up to the first after which the read has been granted, `n` at most. -/
theorem awaitRead_point : ∀ (n : Nat) (s : State), ∃ k ≤ n, (∀ j < k, (State.arbitrate^[j] s).readWaits = true) ∧
    (k < n → ¬ (State.arbitrate^[k] s).readWaits = true ∧ s.awaitRead n = State.arbitrate^[k] s) ∧
    (k = n → s.awaitRead n = (State.arbitrate^[k] s).completeThrough (· == .stageRead))
  | 0, s => ⟨0, le_rfl, fun j hj => absurd hj (Nat.not_lt_zero j), fun h => absurd h (Nat.lt_irrefl 0), fun _ => rfl⟩
  | n + 1, s => by
    by_cases h : s.readWaits = true
    · obtain ⟨k, hk, before, early, late⟩ := awaitRead_point n s.arbitrate
      have next : s.awaitRead (n + 1) = s.arbitrate.awaitRead n := if_pos h
      refine ⟨k + 1, by omega, fun j hj => ?_, fun hlt => ?_, fun he => ?_⟩
      · cases j with
        | zero => exact h
        | succ j => exact before j (by omega)
      · rw [next]; exact early (by omega)
      · rw [next]; exact late (by omega)
    · exact ⟨0, by omega, fun j hj => absurd hj (Nat.not_lt_zero j), fun _ => ⟨h, if_neg h⟩, fun he => by omega⟩

/-! ## Targets and arguments (R52) -/

section
variable {b : Byte} {w : Word}

theorem streamOf_isSome : (streamOf b).isSome = true ↔ b.toNat < 32 := by
  unfold streamOf; split <;> simp [*]

theorem domainOf_isSome : (domainOf b).isSome = true ↔ b.toNat < 4 := by
  unfold domainOf; split <;> simp [*]

theorem laneOf_isSome : (laneOf b).isSome = true ↔ b.toNat < 8 := by
  unfold laneOf; split <;> simp [*]

theorem streamOf_eq_some_iff {i : Fin 32} : streamOf b = some i ↔ b.toNat = i.val := by
  refine ⟨fun h => ?_, streamOf_eq⟩
  unfold streamOf at h
  split at h
  · exact congrArg Fin.val (Option.some.inj h)
  · exact nomatch h

theorem domainOf_eq_some_iff {d : Fin 4} : domainOf b = some d ↔ b.toNat = d.val := by
  unfold domainOf
  split
  · simp only [Option.some.injEq, Fin.ext_iff]
  · next h => exact ⟨(fun e => nomatch e), fun e => absurd (e ▸ d.isLt) h⟩

theorem portOf_eq_some_iff {p : Fin 2} : portOf w = some p ↔ w.toNat = p.val := by
  unfold portOf
  split
  · simp only [Option.some.injEq, Fin.ext_iff]
  · next h => exact ⟨(fun e => nomatch e), fun e => absurd (e ▸ p.isLt) h⟩

theorem assignTarget_eq_some_some_iff {d : Fin 4} : assignTarget w = some (some d) ↔ w.toNat = d.val := by
  have none_is_not (h : w = 0xFFFFFFFF#32) : w.toNat ≠ d.val := by subst h; have := d.isLt; simp; omega
  unfold assignTarget
  split
  · next h => exact ⟨(fun e => nomatch e), fun e => absurd e (none_is_not h)⟩
  · rw [← domainOfWord_eq_some_iff]; cases domainOfWord w <;> simp

theorem assignTarget_eq_some_none_iff : assignTarget w = some none ↔ w = 0xFFFFFFFF#32 := by
  unfold assignTarget
  split
  · next h => exact ⟨fun _ => h, fun _ => rfl⟩
  · next h =>
    refine ⟨fun e => ?_, fun e => absurd e h⟩
    obtain ⟨d, -, no⟩ := Option.map_eq_some_iff.1 e
    exact nomatch no

theorem assignTarget_isSome : (assignTarget w).isSome = true ↔ w.toNat < 4 ∨ w = 0xFFFFFFFF#32 := by
  rw [← assignTarget_eq_some_none_iff]
  constructor
  · intro h
    match e : assignTarget w with
    | none => rw [e] at h; exact nomatch h
    | some none => exact .inr rfl
    | some (some d) => exact .inl ((assignTarget_eq_some_some_iff.1 e).trans_lt d.isLt)
  · rintro (h | h)
    · have named : assignTarget w = some (some ⟨w.toNat, h⟩) := assignTarget_eq_some_some_iff.2 rfl
      exact Option.isSome_of_mem named
    · exact Option.isSome_of_mem h

end

/-- R52: a motor cue names a port and a fader of it. -/
theorem motor_iff (s : State) (r : RawCue) : s.targetOk .motorFree r = true ↔
    ∃ p : Fin 2, r.arg0.toNat = p.val ∧
      r.arg1.toNat < if (s.port p).up = true then (s.port p).announced.faders else 16 := by
  simp only [← portOf_eq_some_iff]
  unfold State.targetOk
  cases portOf r.arg0 <;> simp

/-- R52: the ranges of targets and arguments. -/
theorem targetOk_iff (s : State) (r : RawCue) (v : Verb) : s.targetOk v r = true ↔
    let motor := ∃ p : Fin 2, r.arg0.toNat = p.val ∧
      r.arg1.toNat < if (s.port p).up = true then (s.port p).announced.faders else 16
    match v with
      | .startStream | .stopStream | .swapRing => r.target.toNat < 32
      | .switchReference | .setRate | .stopDomain | .setOutput => r.target.toNat < 4
      | .assignLane => r.target.toNat < 8 ∧ (r.arg0.toNat < 4 ∨ r.arg0 = 0xFFFFFFFF#32)
      | .laneCommand => r.target.toNat < 8
      | .motorTarget => motor ∧ r.arg2.toNat ≤ 1023
      | .motorFree => motor
      | .mark => True :=
  match v with
  | .startStream | .stopStream | .swapRing => streamOf_isSome
  | .switchReference | .setRate | .stopDomain | .setOutput => domainOf_isSome
  | .assignLane => Bool.and_eq_true_iff.trans (and_congr laneOf_isSome assignTarget_isSome)
  | .laneCommand => laneOf_isSome
  | .motorTarget => Bool.and_eq_true_iff.trans (and_congr (motor_iff s r) decide_eq_true_iff)
  | .motorFree => motor_iff s r
  | .mark => ⟨fun _ => trivial, fun _ => rfl⟩

/-! ## The domain of the target (R53) -/

section
variable {d : Fin 4} {r : RawCue}

/-- R53: a START_STREAM is of the domain of the lane that its stage entry names. -/
theorem domainOk_startStream : s.domainOk .startStream r d = true ↔ ∃ (i : Fin 32) (l : Fin 8),
    r.target.toNat = i.val ∧ (s.streamStage i).lane.toNat = l.val ∧ (s.lane l).domain = some d := by
  simp only [← streamOf_eq_some_iff, ← laneOf_eq_some_iff]
  unfold State.domainOk State.stageOf
  match streamOf r.target with
  | none => simp
  | some i => cases h : laneOf (s.streamStage i).lane <;> simp [h]

/-- R53: a cue of a stream at work is of the domain in its geometry. -/
theorem domainOk_stopStream : s.domainOk .stopStream r d = true ↔ ∃ (i : Fin 32) (g : Geometry),
    r.target.toNat = i.val ∧ (s.stream i).state ≠ .idle ∧ (s.stream i).geom = some g ∧ g.domain = d := by
  simp only [← streamOf_eq_some_iff]
  unfold State.domainOk
  match streamOf r.target with
  | none => simp
  | some i => cases h : (s.stream i).geom <;> simp [h]

theorem domainOk_laneCommand : s.domainOk .laneCommand r d = true ↔
    ∃ l : Fin 8, r.target.toNat = l.val ∧ (s.lane l).domain = some d := by
  simp only [← laneOf_eq_some_iff]
  unfold State.domainOk
  cases laneOf r.target <;> simp

/-- R53: ASSIGN_LANE's own check is `State.mayAssign`. -/
theorem assignMatches_iff (l : Fin 8) (w : Word) : s.assignMatches l d w = true ↔ s.mayAssign l d w := by
  unfold State.assignMatches State.mayAssign
  rw [← assignTarget_eq_some_some_iff, ← assignTarget_eq_some_none_iff]
  match (s.lane l).domain with
  | some e => simp
  | none =>
    match assignTarget w with
    | none => simp
    | some none => simp
    | some (some e) => simp

theorem domainOk_assignLane : s.domainOk .assignLane r d = true ↔
    ∃ l : Fin 8, r.target.toNat = l.val ∧ s.mayAssign l d r.arg0 := by
  simp only [← laneOf_eq_some_iff, ← assignMatches_iff]
  unfold State.domainOk
  cases laneOf r.target <;> simp

theorem domainOk_of_domain : (domainOf r.target == some d) = true ↔ r.target.toNat = d.val := by
  rw [beq_iff_eq, domainOf_eq_some_iff]

end

/-- R53: the domain check of each verb. -/
theorem domainOk_iff (s : State) (r : RawCue) (v : Verb) (d : Fin 4) : s.domainOk v r d = true ↔ match v with
    | .startStream => ∃ (i : Fin 32) (l : Fin 8), r.target.toNat = i.val ∧ (s.streamStage i).lane.toNat = l.val ∧
        (s.lane l).domain = some d
    | .stopStream | .swapRing => ∃ (i : Fin 32) (g : Geometry), r.target.toNat = i.val ∧ (s.stream i).state ≠ .idle ∧
        (s.stream i).geom = some g ∧ g.domain = d
    | .switchReference | .setRate | .stopDomain => r.target.toNat = d.val
    | .laneCommand => ∃ l : Fin 8, r.target.toNat = l.val ∧ (s.lane l).domain = some d
    | .assignLane => ∃ l : Fin 8, r.target.toNat = l.val ∧ s.mayAssign l d r.arg0
    | .setOutput | .motorTarget | .motorFree | .mark => True :=
  match v with
  | .startStream => domainOk_startStream
  | .stopStream | .swapRing => domainOk_stopStream
  | .switchReference | .setRate | .stopDomain => domainOk_of_domain
  | .laneCommand => domainOk_laneCommand
  | .assignLane => domainOk_assignLane
  | .setOutput | .motorTarget | .motorFree | .mark => ⟨fun _ => trivial, fun _ => rfl⟩

/-- R54: the Stream Engine's checks are those of `State.acceptStart` on the stage entry and the lane it names. -/
theorem engineAccepts_eq {r : RawCue} {i : Fin 32} {l : Fin 8} (d : Fin 4) (start : Word) (hi : r.target.toNat = i.val)
    (hl : (s.streamStage i).lane.toNat = l.val) : s.engineAccepts r d start = s.acceptStart i (s.streamStage i) l d start := by
  have read : s.stageOf r = some (i, s.streamStage i) := by unfold State.stageOf; rw [streamOf_eq hi]; rfl
  unfold State.engineAccepts
  rw [read]
  dsimp only
  rw [laneOf_eq_some_iff.2 hl]

/-! ## The order of the checks (R51) -/

/-- R185: the codes 1 to 12 are the verbs. -/
theorem ofCode_eq_none {b : Byte} (h : b = 0 ∨ 12 < b.toNat) : Verb.ofCode b = none := by
  have out : b.toNat = 0 ∨ 12 < b.toNat := h.imp_left (congrArg BitVec.toNat)
  unfold Verb.ofCode
  split
  case h_13 => rfl
  all_goals omega

section
variable {i : Byte} {r : RawCue} {v : Verb} {d : Fin 4}

theorem acceptRecord_badVerb (hv : Verb.ofCode r.verb = none) : s.acceptRecord i r = s.refuseRecord i r .badVerb := by
  unfold State.acceptRecord; rw [hv]

theorem acceptRecord_badTarget (hv : Verb.ofCode r.verb = some v) (ht : s.targetOk v r = false) :
    s.acceptRecord i r = s.refuseRecord i r .badTarget := by
  unfold State.acceptRecord; rw [hv]; exact if_pos ht

theorem acceptRecord_noDomain (hv : Verb.ofCode r.verb = some v) (ht : s.targetOk v r = true)
    (hd : domainOf r.domain = none) : s.acceptRecord i r = s.refuseRecord i r .domainMismatch := by
  unfold State.acceptRecord; rw [hv]; dsimp only; rw [if_neg (by simp [ht]), hd]

theorem acceptRecord_domain (hv : Verb.ofCode r.verb = some v) (ht : s.targetOk v r = true)
    (hd : domainOf r.domain = some d) : s.acceptRecord i r =
      let u := s.readStageFor v
      if u.domainOk v r d = false then u.refuseRecord i r .domainMismatch
      else if v = .startStream then
        let c := (u.domain d).count
        match u.engineAccepts r d (if r.now || reached r.due c then c + 1 else r.due) with
        | .error why => u.refuseRecord i r why
        | .ok t => t.placeCue i v r d
      else u.placeCue i v r d := by
  unfold State.acceptRecord
  rw [hv]
  dsimp only
  rw [if_neg (by simp [ht])]
  split
  · next no => rw [hd] at no; exact nomatch no
  · next e he =>
    obtain rfl : d = e := Option.some.inj (hd.symm.trans he)
    rfl

/-- R54, R55: the engine is handed the start frame that the domain had before the read of the stage entry. -/
theorem acceptRecord_engine (hv : Verb.ofCode r.verb = some .startStream) (ht : s.targetOk .startStream r = true)
    (hd : domainOf r.domain = some d) (ok : s.recordRead.domainOk .startStream r d = true) :
    let start := if r.now = true ∨ reached r.due (s.domain d).count = true then (s.domain d).count + 1 else r.due
    (∀ why, s.recordRead.engineAccepts r d start = .error why → s.acceptRecord i r = s.recordRead.refuseRecord i r why) ∧
    (∀ t, s.recordRead.engineAccepts r d start = .ok t → s.acceptRecord i r = t.placeCue i .startStream r d) := by
  have checked := acceptRecord_domain (i := i) hv ht hd
  have read : s.readStageFor .startStream = s.recordRead := if_pos rfl
  simp only [read, State.recordRead_domain, Bool.or_eq_true] at checked
  rw [if_neg (by simp [ok]), if_pos trivial] at checked
  exact ⟨fun why he => by rw [checked, he], fun t he => by rw [checked, he]⟩

theorem State.recordRead_stampOf (s : State) (d : Fin 4) : s.recordRead.stampOf d = s.stampOf d := by
  unfold State.stampOf; rw [State.recordRead_domain]

end

end Sys2Proof.Machine

namespace Sys2Proof.Proofs
open Sys2Proof.Machine

/-- Settles O26: the checks in the order of `acceptRecord`, each by its own lemma; the read of the stage entry by
`awaitRead_point` and the frame of `recordRead`. -/
theorem acceptanceChecksInOrder : Obligations.AcceptanceChecksInOrder := by
  refine ⟨fun s i r => ?_, fun s => ⟨?_, ⟨s.recordRead_cb, s.recordRead_phase, s.recordRead_mclk, s.recordRead_pending,
    s.recordRead_list⟩, fun hr hp hu hn => State.recordRead_of_next hr hp hu hn⟩,
    fun s r i l d start hi hl => engineAccepts_eq d start hi hl, targetOk_iff, domainOk_iff⟩
  · intro refusal
    have refused (u : State) (same : ∀ d, u.stampOf d = s.stampOf d) (why : Reason) :
        u.refuseRecord i r why = refusal u why := by
      unfold State.refuseRecord refusal refusedEvent
      cases domainOf r.domain with
      | none => rfl
      | some d => dsimp only; rw [same d]; rfl
    refine ⟨fun hv => (acceptRecord_badVerb (ofCode_eq_none hv)).trans (refused s (fun _ => rfl) _), fun v hv => ?_⟩
    intro u
    have same (d : Fin 4) : u.stampOf d = s.stampOf d := by
      unfold u; split
      · exact s.recordRead_stampOf d
      · rfl
    refine ⟨fun ht => (acceptRecord_badTarget hv ht).trans (refused s (fun _ => rfl) _),
      fun ht hd => (acceptRecord_noDomain hv ht hd).trans (refused s (fun _ => rfl) _), fun d ht hd => ?_⟩
    have checked := acceptRecord_domain (i := i) hv ht hd
    refine ⟨fun no => ?_, fun ok hn => ?_, fun ok hs => ?_⟩
    · exact (checked.trans (if_pos no)).trans (refused u same _)
    · have plain : s.readStageFor v = s := if_neg hn
      have read : u = s := if_neg hn
      rw [read] at ok
      rw [checked, plain]
      exact (if_neg (by simp [ok])).trans (if_neg hn)
    · subst hs
      obtain ⟨refuses, accepts⟩ := acceptRecord_engine (i := i) hv ht hd ok
      exact ⟨fun why he => (refuses why he).trans (refused u same why), accepts⟩
  · obtain ⟨n, hn, before, early, late⟩ := awaitRead_point 16384
      { s with mc := { s.mc with records := s.mc.records ++ [⟨.stageRead, false, [], []⟩] } }
    exact ⟨n, hn, fun k hk => (readWaits_iff _).1 (before k hk),
      fun h => ⟨fun w => (early h).1 ((readWaits_iff _).2 w), (early h).2⟩, late⟩
end Sys2Proof.Proofs
end

-- ==== Proofs of the family 02: STOP_STREAM ====
section
/-! STOP_STREAM (R39 to R41, R67): the owner's answer by state and mode, the last frame of the current period, the staged
frames beyond the last, and the cancelling of a START cue. -/

namespace Sys2Proof.Machine

variable {s : State} {i : Fin 32} {g : Geometry}

/-! ## The cancelling of a START (R67) -/

theorem cancelStart_of_state (h : (s.stream i).state ≠ .primed) (h' : (s.stream i).state ≠ .halted) (stop : Byte) :
    s.cancelStart i stop = s := if_neg fun ⟨st, _⟩ => st.elim h h'

theorem cancelStart_of_unmarked (h : ∀ r, (s.stream i).start = some r → r.mark = false) (stop : Byte) :
    s.cancelStart i stop = s := by
  refine if_neg fun ⟨_, marked⟩ => ?_
  obtain ⟨r, hr, hm⟩ := (Option.any_eq_true ..).1 marked
  exact Bool.false_ne_true ((h r hr).symm.trans hm)

theorem cancelStart_stream (j : Fin 32) (stop : Byte) : (s.cancelStart i stop).stream j = s.stream j := by
  unfold State.cancelStart
  dsimp only
  split
  · split
    · rfl
    · rw [State.passEvent_stream]; rfl
  · rfl

/-- R67: the first START cue of the stream in the list. -/
theorem pendingStart_eq {a b : List Cue} {c : CueBody} (hl : s.cu.list = a ++ ⟨.startStream, c⟩ :: b)
    (hc : c.target.toNat = i.val) (ha : ∀ x ∈ a, ¬ (x.verb = .startStream ∧ x.body.target.toNat = i.val)) :
    s.pendingStart i = some ⟨.startStream, c⟩ := by
  refine List.find?_eq_some_iff_append.2 ⟨by simp [streamOf_eq hc], a, b, hl, fun x hx => ?_⟩
  have other := ha x hx
  simpa [streamOf_eq_some_iff, Decidable.imp_iff_not_or] using other

theorem erase_of_first {a b : List Cue} {k : Cue} (h : k ∉ a) : (a ++ k :: b).erase k = a ++ b := by
  rw [List.erase_append_right _ h, List.erase_cons_head]

theorem cancelStart_of_marked {a b : List Cue} {c : CueBody} {r : StartRecord} (stop : Byte)
    (hs : (s.stream i).state = .primed ∨ (s.stream i).state = .halted) (hr : (s.stream i).start = some r)
    (hm : r.mark = true) (hl : s.cu.list = a ++ ⟨.startStream, c⟩ :: b) (hc : c.target.toNat = i.val)
    (ha : ∀ x ∈ a, ¬ (x.verb = .startStream ∧ x.body.target.toNat = i.val)) :
    s.cancelStart i stop = ({ s with cu := { s.cu with list := a ++ b } } : State).passEvent
      { kind := .cueCancelled, source := c.index.toNat, stampDomain := (s.stampOf c.domain).1,
        stampCount := (s.stampOf c.domain).2, d0 := fields [(0, c.tag.toNat), (16, 1)],
        d1 := fields [(0, i.val), (8, stop.toNat)], flagA := false, flagB := false } := by
  have first : (⟨.startStream, c⟩ : Cue) ∉ a := fun h => ha _ h ⟨rfl, hc⟩
  have marked : (s.stream i).start.any (·.mark) = true := by rw [hr]; exact hm
  refine (if_pos ⟨hs, marked⟩).trans ?_
  rw [pendingStart_eq hl hc ha]
  dsimp only
  rw [hl, erase_of_first first]
  rfl

/-! ## The owner's answer, by the stream's state (R39) -/

/-- R39: how a stream stopped by the mode leaves. -/
def StopMode.how : StopMode → StopHow
  | .now => .now
  | .periodEnd => .periodEnd

section
variable {mode : StopMode} {due : Word}

theorem applyStop_of_idle (hs : (s.stream i).state = .idle) : s.applyStop i mode due = .refused s .wrongState := by
  unfold State.applyStop; simp only [hs]

theorem applyStop_of_primed (hg : (s.stream i).geom = some g) (hs : (s.stream i).state = .primed) :
    s.applyStop i mode due = .done ((s.becomeIdle i .whilePrimed).drainInbound g.lane) := by
  unfold State.applyStop; simp only [hs, hg, State.drainLaneOf]

theorem applyStop_of_halted (hg : (s.stream i).geom = some g) (hs : (s.stream i).state = .halted) :
    s.applyStop i mode due = .done ((s.becomeIdle i .whileHalted).drainInbound g.lane) := by
  unfold State.applyStop; simp only [hs, hg, State.drainLaneOf]

theorem applyStop_of_waiting (hg : (s.stream i).geom = some g)
    (hs : (s.stream i).state = .starved ∨ (s.stream i).state = .overflowing) : s.applyStop i mode due =
      .done ((s.becomeIdle i mode.how).drainInbound g.lane) := by
  unfold State.applyStop
  rcases hs with hs | hs <;> cases mode <;> simp only [hs, hg, State.drainLaneOf, StopMode.how]

theorem applyStop_now (hg : (s.stream i).geom = some g) (hs : (s.stream i).state = .running) :
    s.applyStop i .now due = .done (s.stopNow i g due) := by
  unfold State.applyStop; simp only [hs, hg]

theorem applyStop_periodEnd (hg : (s.stream i).geom = some g) (hs : (s.stream i).state = .running) :
    s.applyStop i .periodEnd due =
      if (s.stream i).stop.isSome then .refused s .busy else .done (s.stopAtPeriodEnd i g) := by
  unfold State.applyStop; simp only [hs, hg]

end

/-- R40: STOP_NOW on a playback stream. -/
theorem stopNow_of_play (hd : g.dir = .play) (due : Word) : s.stopNow i g due = s.becomeIdle i .now := by
  unfold State.stopNow; simp only [hd]

/-- R40: STOP_NOW on a capture stream: the stop record takes the sooner of the two last frames. -/
theorem stopNow_of_capture (hd : g.dir = .capture) (due : Word) :
    let x := s.stream i
    let last := match x.stop with
      | none => due - 1
      | some r => if (due - 1 - r.last).toNat < 2147483648 then r.last else due - 1
    let t := (s.setStream i { x with stop := some ⟨.now, last⟩ }).request (.live i)
    s.stopNow i g due =
      (if (x.next - (last + 1)).toNat < 2147483648 then t.becomeIdle i .now else t).drainInbound g.lane := by
  unfold State.stopNow State.placeStop State.mapStream
  dsimp only
  cases (s.stream i).stop <;> simp only [hd, reached, decide_eq_true_eq]

/-- R41: STOP_AT_PERIOD_END. -/
theorem stopAtPeriodEnd_eq (s : State) (i : Fin 32) (g : Geometry) :
    let x := s.stream i
    let count := (s.domain g.domain).count
    let last := s.periodEndFrame i g count
    let t := (s.setStream i { x with
      stop := some ⟨.periodEnd, last⟩, swap := none, swapDropped := x.swapDropped || x.swap.isSome }).request (.live i)
    s.stopAtPeriodEnd i g =
      match g.dir with | .play => t.silenceBeyond i count last | .capture => t.drainInbound g.lane := by
  unfold State.stopAtPeriodEnd State.placeStop State.mapStream
  dsimp only
  cases g.dir <;> simp only [State.stream_setStream_self, State.setStream_setStream]

/-- STOP_STREAM on a stream of its domain, or on an IDLE one: its owner's answer (R59, R62, R63). -/
theorem exec_stopStream {c : CueBody} (hp : s.phase ≠ .held) (hd : s.dueNow c) (hi : c.target.toNat = i.val)
    (ok : (s.stream i).state = .idle ∨ ∃ g, (s.stream i).geom = some g ∧ g.domain = c.domain) :
    exec (.stopStream c) s = .next (s.afterOutcome ⟨.stopStream, c⟩
      ((s.cancelStart i c.index).applyStop i (if c.arg0 = 2 then .periodEnd else .now) c.due)) := by
  have owner : s.handOver ⟨.stopStream, c⟩ = s.applyStopCue c i := by
    show onTarget s (streamOf c.target) (s.applyStopCue c) = _
    rw [streamOf_eq hi]; rfl
  have check : s.applicationCheck ⟨.stopStream, c⟩ = true := by
    unfold State.applicationCheck
    simp only [streamOf_eq hi]
    rcases ok with idle | ⟨g, hg, hdom⟩
    · simp [idle]
    · simp [hg, hdom]
  show powered s (fun s => s.applyIfReached ⟨.stopStream, c⟩) = _
  rw [powered, if_neg hp, applyIfReached_of_due hd, applyCue_of_check check, owner]
  rfl

/-! ## The last frame of the current period (R41) -/

theorem windowDepth_eq (s : State) (l : Fin 8) : s.windowDepth l = if l ∈ s.li.atBoundary then 3 else 4 := by
  simp only [State.windowDepth, List.contains_iff_mem]

theorem windowDepth_le (s : State) (l : Fin 8) : s.windowDepth l ≤ 4 := by
  rw [windowDepth_eq]; split <;> omega

/-- The first of the numbers below `n` that gives something. -/
theorem findSome?_range_of_first {β : Type} {f : Nat → Option β} {b : β} {k : Nat} (hk : f k = some b)
    (before : ∀ m < k, f m = none) : ∀ n, k < n → (List.range n).findSome? f = some b
  | 0, h => absurd h (Nat.not_lt_zero k)
  | n + 1, h => by
    rw [List.range_succ, List.findSome?_append]
    rcases Nat.lt_succ_iff_lt_or_eq.1 h with h | rfl
    · rw [findSome?_range_of_first hk before n h]; rfl
    · rw [List.findSome?_eq_none_iff.2 fun m hm => before m (List.mem_range.1 hm)]
      simpa using hk

/-- The carry of the stream in the staged frame of number `c + k`. -/
def State.stagedCarry (s : State) (i : Fin 32) (g : Geometry) (c : Word) (k : Nat) : Option Carry :=
  (s.lane g.lane).outbound[placeOf (c + BitVec.ofNat 32 k)].carries.find? (fun r => r.stream == i)

theorem stagedCarry_eq_none {c : Word} {k : Nat}
    (h : ∀ q ∈ (s.lane g.lane).outbound[placeOf (c + BitVec.ofNat 32 k)].carries, q.stream ≠ i) :
    s.stagedCarry i g c k = none :=
  List.find?_eq_none.2 fun q hq => by simpa using h q hq

theorem currentPeriod_eq (s : State) (i : Fin 32) (g : Geometry) (c : Word) : s.currentPeriod i g c =
    ((List.range (s.windowDepth g.lane)).findSome? fun k =>
      (s.stagedCarry i g c k).map fun r => (c + BitVec.ofNat 32 k, r.frame, r.frames)).getD
    (if (c - (s.stream i).next).toNat < 2147483648
      then (c, ((s.stream i).frame + (c - (s.stream i).next).toNat) % g.frames, g.frames)
      else ((s.stream i).next, (s.stream i).frame, g.frames)) := by
  unfold State.currentPeriod State.stagedCarry
  simp only [reached, decide_eq_true_eq]

/-- R41: the first staged frame that carries the stream gives its period. -/
theorem currentPeriod_of_staged {c : Word} {k : Nat} {r : Carry} (hk : k < s.windowDepth g.lane)
    (hr : s.stagedCarry i g c k = some r) (before : ∀ m < k, s.stagedCarry i g c m = none) :
    s.currentPeriod i g c = (c + BitVec.ofNat 32 k, r.frame, r.frames) := by
  rw [currentPeriod_eq, findSome?_range_of_first (b := (c + BitVec.ofNat 32 k, r.frame, r.frames)) ?_ (fun m hm => ?_) _ hk]
  · rfl
  · rw [hr]; rfl
  · rw [before m hm]; rfl

/-- R41: with nothing of the stream staged, the position gives its period. -/
theorem currentPeriod_of_unstaged {c : Word} (h : ∀ k < s.windowDepth g.lane, s.stagedCarry i g c k = none) :
    s.currentPeriod i g c = if (c - (s.stream i).next).toNat < 2147483648
      then (c, ((s.stream i).frame + (c - (s.stream i).next).toNat) % g.frames, g.frames)
      else ((s.stream i).next, (s.stream i).frame, g.frames) := by
  rw [currentPeriod_eq, List.findSome?_eq_none_iff.2 fun k hk => by rw [h k (List.mem_range.1 hk)]; rfl]
  rfl

theorem periodEndFrame_of_play {c n : Word} {f frames : Nat} (hd : g.dir = .play)
    (h : s.currentPeriod i g c = (n, f, frames)) : s.periodEndFrame i g c =
      if g.policy = .keepTime ∧ (n - c).toNat < 2147483648 ∧ f < (n - c).toNat then n - BitVec.ofNat 32 (f + 1)
      else n + BitVec.ofNat 32 (frames - 1 - f) := by
  unfold State.periodEndFrame
  simp only [hd, h, reached, decide_eq_true_eq]

/-- R41: the last frame of a capture stream's period is reckoned from the position. -/
theorem periodEndFrame_of_capture (c : Word) (hd : g.dir = .capture) :
    let x := s.stream i
    s.periodEndFrame i g c = c + BitVec.ofNat 32 (g.frames - 1 - (x.frame + (c - x.next).toNat) % g.frames) := by
  unfold State.periodEndFrame
  simp only [hd]

theorem ahead_toNat (c : Word) {k : Nat} (hk : k < 4) : (c + BitVec.ofNat 32 k - c).toNat = k := by
  bv_omega

/-- R41: reckoned from the first staged frame that carries the stream. -/
theorem periodEndFrame_of_staged {c : Word} {k : Nat} {r : Carry} (hd : g.dir = .play) (hk : k < s.windowDepth g.lane)
    (hr : s.stagedCarry i g c k = some r) (before : ∀ m < k, s.stagedCarry i g c m = none) :
    s.periodEndFrame i g c = if g.policy = .keepTime ∧ r.frame < k then c + BitVec.ofNat 32 k - BitVec.ofNat 32 (r.frame + 1)
      else c + BitVec.ofNat 32 k + BitVec.ofNat 32 (r.frames - 1 - r.frame) := by
  have small : k < 4 := hk.trans_le (windowDepth_le s g.lane)
  rw [periodEndFrame_of_play hd (currentPeriod_of_staged hk hr before), ahead_toNat c small]
  exact if_congr (by constructor <;> intro h <;> simp only [h, true_and, and_true]; omega) rfl rfl

/-! ## The staged frames beyond the last (R41) -/

/-- The frame of the window whose place is that of frame `c + j`. -/
theorem place_ahead (c : Word) (j : Fin 4) : ((placeOf (c + BitVec.ofNat 32 j.val)).val + 4 - c.toNat % 4) % 4 = j.val := by
  have bound := j.isLt
  have := c.isLt
  simp only [placeOf, BitVec.toNat_add, BitVec.toNat_ofNat]
  omega

/-- R41: what the silencing leaves of the place of frame `c + ahead`. -/
def OutPlace.beyond (pl : OutPlace) (g : Geometry) (i : Fin 32) (c last : Word) (depth ahead : Nat) : OutPlace :=
  if (last - c).toNat < ahead ∧ ahead < depth then pl.silenced g i else pl

theorem silenceBeyond_eq (hg : (s.stream i).geom = some g) (c last : Word) :
    s.silenceBeyond i c last = s.setLane g.lane { s.lane g.lane with
      outbound := Vector.ofFn (fun (k : Fin 4) =>
        (s.lane g.lane).outbound[k].beyond g i c last (s.windowDepth g.lane) ((k.val + 4 - c.toNat % 4) % 4)) } := by
  unfold State.silenceBeyond
  rw [hg]
  rfl

theorem silenceBeyond_place (c last : Word) (j : Fin 4) :
    let k := placeOf (c + BitVec.ofNat 32 j.val)
    (Vector.ofFn (fun (k : Fin 4) => (s.lane g.lane).outbound[k].beyond g i c last (s.windowDepth g.lane)
        ((k.val + 4 - c.toNat % 4) % 4)))[k] =
      (s.lane g.lane).outbound[k].beyond g i c last (s.windowDepth g.lane) j.val := by
  intro k
  rw [Fin.getElem_fin, Vector.getElem_ofFn]
  exact congrArg (OutPlace.beyond _ g i c last _) (place_ahead c j)

end Sys2Proof.Machine

namespace Sys2Proof.Proofs
open Sys2Proof.Machine

/-- Settles O34: the owner's answer by state and mode, the period from staging or position, the places of the window, and
the cue that a marked start record cancels. -/
theorem stopStreamFollowsItsTable : Obligations.StopStreamFollowsItsTable := by
  refine ⟨fun s c i hp hd hi => ⟨fun hs => ?_, fun g hg hdom => ?_⟩, fun s i g c => ⟨fun hd k r hk hr before => ?_,
    fun hd none => ?_, fun hd _ => periodEndFrame_of_capture c hd, fun last hg => ?_⟩,
    fun s i stop => ⟨fun a b c r hs hr hm hl hc ha => cancelStart_of_marked stop hs hr hm hl hc ha,
      fun h => cancelStart_of_unmarked h stop, fun h h' => cancelStart_of_state h h' stop⟩⟩
  · rw [exec_stopStream hp hd hi (.inl hs), cancelStart_of_state (by simp [hs]) (by simp [hs]), applyStop_of_idle hs]
    rfl
  · have run := exec_stopStream hp hd hi (.inr ⟨g, hg, hdom⟩)
    have geom : ((s.cancelStart i c.index).stream i).geom = some g := by rw [cancelStart_stream, hg]
    have state : ((s.cancelStart i c.index).stream i).state = (s.stream i).state := by rw [cancelStart_stream]
    have running (h : (s.stream i).state = .running) : s.cancelStart i c.index = s :=
      cancelStart_of_state (by simp [h]) (by simp [h]) _
    refine ⟨fun hs => ?_, fun hs => ?_, fun hs => ?_, fun hs now hpl => ?_, fun hs now hcap => ?_, fun hs atEnd hx => ?_,
      fun hs atEnd hx => ?_⟩
    · rw [run, applyStop_of_primed geom (state.trans hs)]; rfl
    · rw [run, applyStop_of_halted geom (state.trans hs)]; rfl
    · rw [run, cancelStart_of_state (by rcases hs with h | h <;> simp [h]) (by rcases hs with h | h <;> simp [h]),
        applyStop_of_waiting hg hs, apply_ite StopMode.how]
      rfl
    · rw [run, running hs, if_neg now, applyStop_now hg hs, stopNow_of_play hpl]; rfl
    · rw [run, running hs, if_neg now, applyStop_now hg hs, stopNow_of_capture hcap]; rfl
    · rw [run, running hs, if_pos atEnd, applyStop_periodEnd hg hs, if_pos (Option.isSome_iff_ne_none.2 hx)]; rfl
    · rw [run, running hs, if_pos atEnd, applyStop_periodEnd hg hs, if_neg (by simp [hx]), stopAtPeriodEnd_eq]; rfl
  · rw [← windowDepth_eq] at hk
    have last := periodEndFrame_of_staged hd hk hr fun m hm => stagedCarry_eq_none (before m hm)
    exact ⟨fun h => last.trans (if_pos h), fun h => last.trans (if_neg h)⟩
  · rw [← windowDepth_eq] at none
    have period := currentPeriod_of_unstaged fun k hk => stagedCarry_eq_none (none k hk)
    refine ⟨fun h => ?_, fun h before => ?_, fun h before => ?_⟩
    · rw [if_pos h] at period
      rw [periodEndFrame_of_play hd period]
      exact if_neg (by simp)
    · rw [if_neg (Nat.not_lt.2 h)] at period
      rw [periodEndFrame_of_play hd period]
      exact if_pos before
    · rw [if_neg (Nat.not_lt.2 h)] at period
      rw [periodEndFrame_of_play hd period]
      exact if_neg before
  · refine ⟨_, silenceBeyond_eq hg c last, fun j => ?_⟩
    have place := silenceBeyond_place (s := s) (g := g) (i := i) c last j
    rw [← windowDepth_eq]
    refine ⟨fun h => place.trans (if_neg h), fun h => ?_⟩
    have silenced := place.trans (if_pos h)
    exact ⟨congrArg OutPlace.carries silenced, fun n => (congrArg (fun p : OutPlace => p.slots[n]) silenced).trans
      (silenced_slots _ g i n)⟩

end Sys2Proof.Proofs
end

-- ==== Proofs of the family 02: arriving frames ====
section
/-! Arriving frames on an UP lane (R112 to R117), inbound staging (R30, R31, R35, R115) and the CRC of a frame (R106). -/

namespace Sys2Proof.Machine

variable {s : State} {l : Fin 8} {d : Fin 4} {i : Fin 32}

/-! ## The events of a lane (R120) -/

theorem stampOf_of_cb {t : State} (h : t.cb = s.cb) (d : Fin 4) : t.stampOf d = s.stampOf d := by
  unfold State.stampOf State.domain; rw [h]

theorem laneStamp_of_cb {t : State} (hd : (t.lane l).domain = some d) (h : t.cb = s.cb) : t.laneStamp l = s.stampOf d := by
  unfold State.laneStamp; rw [hd]; exact stampOf_of_cb h d

theorem ofLane_of_cb {t : State} (h : t.cb = s.cb) (k : EventKind) (l : Fin 8) (d : Fin 4) (d0 d1 : Word) (b : Bool) :
    t.ofLane k l d d0 d1 b = s.ofLane k l d d0 d1 b := by
  unfold State.ofLane; rw [stampOf_of_cb h]

/-- A lane event of a lane with a domain. -/
theorem laneEvent_eq {t : State} (hd : (t.lane l).domain = some d) (h : t.cb = s.cb) (k : EventKind) (d0 d1 : Word) :
    Event.plain k l.val (t.laneStamp l) d0 d1 = s.ofLane k l d d0 d1 false := by
  rw [laneStamp_of_cb hd h]; rfl

/-! ## ENGINE_LATE (R29, R31) -/

theorem engineLate_inbound_told (h : (s.lane l).lateIn = false) (n : Word) : s.engineLate l .inbound n = s := by
  unfold State.engineLate; simp [h]

theorem engineLate_inbound_first (h : (s.lane l).lateIn = true) (hd : (s.lane l).domain = some d) (n : Word) :
    s.engineLate l .inbound n = (s.setLane l { s.lane l with lateIn := false }).passEvent
      (s.ofLane .engineLate l d (fields [(0, 2)]) n false) := by
  unfold State.engineLate
  simp only [hd]
  exact if_pos h

theorem engineLate_outbound_told (h : (s.lane l).lateOut = false) (n : Word) : s.engineLate l .outbound n = s := by
  unfold State.engineLate; simp [h]

theorem engineLate_outbound_first (h : (s.lane l).lateOut = true) (hd : (s.lane l).domain = some d) (n : Word) :
    s.engineLate l .outbound n = (s.setLane l { s.lane l with lateOut := false }).passEvent
      (s.ofLane .engineLate l d (fields [(0, 1)]) n false) := by
  unfold State.engineLate
  simp only [hd]
  exact if_pos h

/-! ## The placing of an inbound frame (R30, R31, R112) -/

/-- The places taken in inbound staging. -/
def Lane.held (x : Lane) : Nat := x.inbound.countP (fun f => f.kind != .lost)

theorem placeInbound_of_room (h : (s.lane l).held < 4) (n : Word) (k : InboundKind) : s.placeInbound l n k =
    (s.setLane l { s.lane l with inbound := (s.lane l).inbound ++ [⟨n, k⟩] }).drainInbound l := if_pos h

theorem placeInbound_of_full (h : 4 ≤ (s.lane l).held) (n : Word) (k : InboundKind) : s.placeInbound l n k =
    ((s.setLane l { s.lane l with inbound := (s.lane l).inbound ++ [⟨n, .lost⟩] }).engineLate l .inbound n).drainInbound
      l :=
  if_neg (Nat.not_lt.2 h)

theorem placeInbound_told (h : 4 ≤ (s.lane l).held) (ht : (s.lane l).lateIn = false) (n : Word) (k : InboundKind) :
    s.placeInbound l n k =
      (s.setLane l { s.lane l with inbound := (s.lane l).inbound ++ [⟨n, .lost⟩] }).drainInbound l := by
  rw [placeInbound_of_full h, engineLate_inbound_told (by rw [State.lane_setLane_self]; exact ht)]

theorem placeInbound_first (h : 4 ≤ (s.lane l).held) (ht : (s.lane l).lateIn = true) (hd : (s.lane l).domain = some d)
    (n : Word) (k : InboundKind) : s.placeInbound l n k =
      ((s.setLane l { s.lane l with inbound := (s.lane l).inbound ++ [⟨n, .lost⟩], lateIn := false }).passEvent
        (s.ofLane .engineLate l d (fields [(0, 2)]) n false)).drainInbound l := by
  rw [placeInbound_of_full h, engineLate_inbound_first (d := d) (by rw [State.lane_setLane_self]; exact ht)
    (by rw [State.lane_setLane_self]; exact hd), State.setLane_setLane, State.lane_setLane_self,
    ofLane_of_cb (State.setLane_cb s l _)]

/-! ## The leaving of inbound staging (R30, R35, R115) -/

theorem storesFrame_iff (x : Stream) (n : Word) : x.storesFrame n = true ↔
    (n - x.next).toNat < 2147483648 ∧ ∀ r, x.stop = some r → (r.last - n).toNat < 2147483648 := by
  rw [← within_iff]
  simp only [Stream.storesFrame, Bool.and_eq_true, reached, decide_eq_true_eq]
  rfl

theorem delays_iff (s : State) (i : Fin 32) (n : Word) : s.delays n i = true ↔
    ((s.stream i).state = .running ∨ (s.stream i).state = .primed) ∧ (s.stream i).storesFrame n = true := by
  simp only [State.delays, Bool.and_eq_true, Bool.or_eq_true, beq_iff_eq]

/-- R35: with no stream of the lane OVERFLOWING, none takes the frame. -/
theorem overflowTake_of_none (h : ∀ i ∈ s.streamsOn l .capture, (s.stream i).state ≠ .overflowing) (n : Word) :
    s.overflowTake l n = s := by
  unfold State.overflowTake
  generalize s.streamsOn l .capture = streams at h
  induction streams with
  | nil => rfl
  | cons i rest ih =>
    rw [List.foldl_cons, if_neg fun ⟨full, _⟩ => h i List.mem_cons_self full]
    exact ih fun j hj => h j (List.mem_cons_of_mem i hj)

theorem leaveInbound_delayed {f : InboundFrame} {t : State} (ht : s.overflowTake l f.number = t)
    (h : ∃ i ∈ t.streamsOn l .capture, t.delays f.number i = true) : State.leaveInbound l s f = t := by
  subst ht; exact if_pos (List.any_eq_true.2 h)

theorem leaveInbound_leaves {f : InboundFrame} {t : State} (ht : s.overflowTake l f.number = t)
    (h : ∀ i ∈ t.streamsOn l .capture, t.delays f.number i = false) : State.leaveInbound l s f =
      t.setLane l { t.lane l with inbound := (t.lane l).inbound.filter (· != f) } := by
  subst ht; exact if_neg (by simpa [List.any_eq_true] using h)

/-! ## The causes of a bad frame (R112) -/

theorem tag_eq_iff (b : Byte) (n : Word) : b = tagOf n ↔ b.toNat = n.toNat % 256 := by
  rw [← BitVec.toNat_inj, tagOf, BitVec.extractLsb'_toNat, Nat.shiftRight_zero]

section
variable {f : LaneFrame} {capacity : Nat} {n : Word}

/-- R112: the frame is a DATA frame of the lane's capacity with a mark in range. -/
def dataFormed (f : LaneFrame) (capacity : Nat) : Prop :=
  f.kind = 1 ∧ f.slotCount.toNat = capacity ∧ (f.mark = 0 ∨ f.mark = 1)

theorem not_formed_iff :
    (f.kind ≠ 1 ∨ f.slotCount.toNat ≠ capacity ∨ (f.mark ≠ 0 ∧ f.mark ≠ 1)) ↔ ¬ dataFormed f capacity := by
  simp only [dataFormed, not_and_or, not_or, ne_eq]

theorem crcCorrect_iff : f.crcCorrect = true ↔ crcOf f.body = f.crc := beq_iff_eq

theorem frameCause_crc (h : ¬ crcOf f.body = f.crc) : frameCause f capacity n = some .crc :=
  if_pos (by simpa [crcCorrect_iff, ← Bool.not_eq_true] using h)

theorem frameCause_of_crc (h : crcOf f.body = f.crc) : frameCause f capacity n =
    if f.kind ≠ 1 ∨ f.slotCount.toNat ≠ capacity ∨ (f.mark ≠ 0 ∧ f.mark ≠ 1) then some .format
    else if f.tag ≠ tagOf n then some .tag else none := if_neg (by simp [crcCorrect_iff, h])

theorem frameCause_format (h : crcOf f.body = f.crc) (hf : ¬ dataFormed f capacity) :
    frameCause f capacity n = some .format := (frameCause_of_crc h).trans (if_pos (not_formed_iff.2 hf))

theorem frameCause_of_formed (h : crcOf f.body = f.crc) (hf : dataFormed f capacity) :
    frameCause f capacity n = if f.tag ≠ tagOf n then some .tag else none :=
  (frameCause_of_crc h).trans (if_neg fun no => not_formed_iff.1 no hf)

end

/-! ## The judging of a frame (R112 to R114) -/

section
variable {f : LaneFrame} {n : Word} {cause : BadCause}

theorem exec_laneFrameReceived (hp : s.phase ≠ .held) : exec (.laneFrameReceived l f) s = .next (s.frameArrives l f) :=
  congrArg _ (if_neg hp)

theorem capacity_eq (hd : (s.lane l).domain = some d) : s.capacity l = slotCapacity (s.domain d).mult := by
  unfold State.capacity; rw [hd]

/-- R107: the frame expected has arrived. -/
def State.answered (s : State) (l : Fin 8) : State := s.setLane l { s.lane l with expected := none }

theorem answered_lane : (s.answered l).lane l = { s.lane l with expected := none } := State.lane_setLane_self s l _

theorem frameArrives_good (hs : (s.lane l).state = .up) (he : (s.lane l).expected = some n)
    (hd : (s.lane l).domain = some d) (good : frameCause f (slotCapacity (s.domain d).mult) n = none) :
    s.frameArrives l f = (s.answered l).judgeGood l n f := by
  unfold State.frameArrives
  simp only [State.answered, hs, he, hd, capacity_eq hd, good]

theorem frameArrives_bad (hs : (s.lane l).state = .up) (he : (s.lane l).expected = some n)
    (hd : (s.lane l).domain = some d) (bad : frameCause f (slotCapacity (s.domain d).mult) n = some cause) :
    s.frameArrives l f = (s.answered l).judgeBad l cause n := by
  unfold State.frameArrives
  simp only [State.answered, hs, he, hd, capacity_eq hd, bad]

/-- R112: the placing of a bad frame, once it is counted. -/
def State.placeBad (s : State) (l : Fin 8) (cause : BadCause) (n : Word) : State :=
  (s.setLane l { s.lane l with badRun := (s.lane l).badRun + 1, counters := (s.lane l).counters.bad cause }).placeInbound
    l n .bad

theorem judgeBad_short (h : (s.lane l).badRun + 1 ≠ 8) : s.judgeBad l cause n = s.placeBad l cause n := if_neg h

theorem judgeBad_eighth (h : (s.lane l).badRun + 1 = 8) :
    s.judgeBad l cause n = (s.placeBad l cause n).enterFault l cause n := if_pos h

/-- R112: the good frame counted and metered. -/
def State.countGood (s : State) (l : Fin 8) (f : LaneFrame) : State :=
  (s.setLane l { s.lane l with
    badRun := 0, counters := { (s.lane l).counters with good := (s.lane l).counters.good + 1 } }).meterFrame l f.slots

theorem judgeGood_unmarked (h : f.mark ≠ 1) : s.judgeGood l n f = (s.countGood l f).placeInbound l n (.good f.slots) :=
  congrArg (State.placeInbound · l n (.good f.slots)) (if_neg h)

theorem judgeGood_marked (h : f.mark = 1) :
    s.judgeGood l n f = ((s.countGood l f).takeStatus l f.word).placeInbound l n (.good f.slots) :=
  congrArg (State.placeInbound · l n (.good f.slots)) (if_pos h)

theorem answered_countGood : (s.answered l).countGood l f = (s.setLane l { s.lane l with
    expected := none, badRun := 0,
    counters := { (s.lane l).counters with good := (s.lane l).counters.good + 1 } }).meterFrame l f.slots := by
  rw [State.countGood, answered_lane, State.answered, State.setLane_setLane]

theorem answered_placeBad : (s.answered l).placeBad l cause n = (s.setLane l { s.lane l with
    expected := none, badRun := (s.lane l).badRun + 1, counters := (s.lane l).counters.bad cause }).placeInbound l n .bad := by
  rw [State.placeBad, answered_lane, State.answered, State.setLane_setLane]

theorem takeStatus_known {w : Word} (h : (s.lane l).lastStatus = some w) : s.takeStatus l w = s := if_pos h

theorem takeStatus_new {w : Word} (h : (s.lane l).lastStatus ≠ some w) (hd : (s.lane l).domain = some d) :
    s.takeStatus l w = ((s.setLane l { s.lane l with lastStatus := some w }).request (.lane l)).passEvent
      (s.ofLane .converterStatus l d w (match (s.lane l).lastStatus with | none => 0 | some w => w)
        (s.lane l).lastStatus.isNone) := by
  have domain : (((s.setLane l { s.lane l with lastStatus := some w }).request (.lane l)).lane l).domain = some d := by
    rw [State.request_lane, State.lane_setLane_self]; exact hd
  refine (if_neg h).trans ?_
  rw [laneEvent_eq (s := s) domain (by rw [State.request_cb, State.setLane_cb])]
  cases (s.lane l).lastStatus <;> rfl

/-- R117, R116, R43: the entry into FAULT. -/
theorem enterFault_eq (hd : (s.lane l).domain = some d) (cause : BadCause) (n : Word) :
    let x := s.lane l
    s.enterFault l cause n = ((((s.setLane l { x with
      state := .fault, expected := none, countdown := some 1024, queue := [], lastStatus := none,
      counters := { x.counters with
        dropped := satAdd x.counters.dropped x.queue.length, faults := satInc x.counters.faults } }).request
          (.lane l)).passEvent (s.ofLane .laneFault l d (fields [(0, cause.code), (8, x.queue.length)]) n
            false)).haltLane l) := by
  unfold State.enterFault
  dsimp only
  rw [laneEvent_eq (s := s) (d := d) (by rw [State.request_lane, State.lane_setLane_self]; exact hd)
    (by rw [State.request_cb, State.setLane_cb])]
  rfl

end

/-! ## The CRC (R106) -/

theorem crcOf_append (bytes : List Byte) (b : Byte) : crcOf (bytes ++ [b]) = crcByte (crcOf bytes) b :=
  List.foldl_append

theorem crcBit_eq (r : Half) : crcBit r = if r.getLsbD 15 then (r <<< 1) ^^^ 0x1021#16 else r <<< 1 := by
  unfold crcBit; rw [BitVec.msb_eq_getLsbD_last]

end Sys2Proof.Machine

namespace Sys2Proof.Proofs
open Sys2Proof.Machine

/-- Settles O50: the causes in their order, the good and the bad frame of an UP lane, the entry into FAULT, and the places
of inbound staging. -/
theorem upLanesJudgeTheirFrames : Obligations.UpLanesJudgeTheirFrames := by
  refine ⟨fun f capacity n => ⟨frameCause_crc, frameCause_format, fun h hf ht => ?_, fun h hf ht => ?_⟩,
    fun s l f n d hp hs he hd => ⟨fun good => ?_, fun cause bad => ?_⟩,
    fun s l d cause n hd => enterFault_eq hd cause n,
    fun s l d n k hd => ⟨fun h => placeInbound_of_room h n k, fun h ht => placeInbound_told h ht n k,
      fun h ht => placeInbound_first h ht hd n k⟩,
    fun s l => ⟨rfl, fun f still => ⟨fun ⟨i, hi, hdel⟩ => ?_, fun free => ?_⟩⟩, fun s l f => ?_,
    fun s i n => ⟨storesFrame_iff _ n, delays_iff s i n⟩, fun s l cause n => ⟨fun h => ?_, fun h => ?_⟩,
    fun bytes b r => ⟨rfl, crcOf_append bytes b, crcBit_eq r⟩⟩
  · rw [frameCause_of_formed h hf, if_pos fun e => ht ((tag_eq_iff _ _).1 e)]
  · rw [frameCause_of_formed h hf, if_neg (not_not.2 ((tag_eq_iff _ _).2 ht))]
  · have run := (exec_laneFrameReceived (f := f) hp).trans (congrArg _ (frameArrives_good hs he hd good))
    intro y t
    have counted : (s.answered l).countGood l f = t := answered_countGood
    have lane : t.lane l = y := State.lane_setLane_self s l y
    refine ⟨fun known => ?_, fun marked new => ?_⟩
    · rcases known with h | h
      · rw [run, judgeGood_unmarked (by rw [h]; decide), counted]
      · by_cases marked : f.mark = 1
        · rw [run, judgeGood_marked marked, counted, takeStatus_known (by rw [lane]; exact h)]
        · rw [run, judgeGood_unmarked marked, counted]
    · have taken := takeStatus_new (s := t) (d := d) (by rw [lane]; exact new) (by rw [lane]; exact hd)
      rw [lane, ofLane_of_cb (s := s) (t := t) rfl] at taken
      rw [run, judgeGood_marked marked, counted]
      exact congrArg (fun u : State => (.next (u.placeInbound l n (.good f.slots)) : Result)) taken
  · have run := (exec_laneFrameReceived (f := f) hp).trans (congrArg _ (frameArrives_bad hs he hd bad))
    have badRun : ((s.answered l).lane l).badRun = (s.lane l).badRun := by rw [answered_lane]
    have placed := answered_placeBad (s := s) (l := l) (cause := cause) (n := n)
    refine ⟨fun h => ?_, fun h => ?_⟩
    · rw [run, judgeBad_short (by rwa [badRun]), placed]; cases cause <;> rfl
    · rw [run, judgeBad_eighth (by rwa [badRun]), placed]; cases cause <;> rfl
  · exact leaveInbound_delayed (overflowTake_of_none (fun i hi => still i ((mem_streamsOn_iff _).1 hi)) _)
      ⟨i, (mem_streamsOn_iff _).2 hi, hdel⟩
  · exact leaveInbound_leaves (overflowTake_of_none (fun i hi => still i ((mem_streamsOn_iff _).1 hi)) _)
      fun i hi => free i ((mem_streamsOn_iff _).1 hi)
  · intro on t
    have taken : s.overflowTake l f.number = t := by unfold State.overflowTake; rw [streamsOn_eq]
    have there (i : Fin 32) : i ∈ t.streamsOn l .capture ↔ on t i = true := by
      rw [streamsOn_eq, List.mem_filter]; exact and_iff_right (List.mem_finRange i)
    exact ⟨fun ⟨i, hi, hdel⟩ => leaveInbound_delayed taken ⟨i, (there i).2 hi, hdel⟩,
      fun free => leaveInbound_leaves taken fun i hi => free i ((there i).1 hi)⟩
  · rw [judgeBad_short h]; cases cause <;> rfl
  · rw [judgeBad_eighth h]; cases cause <;> rfl

end Sys2Proof.Proofs
end

-- ==== Proofs of the family 02: what a boundary leaves of a lane ====
section
/-! What a boundary leaves of a lane that is not at its turn: its domain's record, the list of cues and the lane but for its
staging (R73, R74). -/

namespace Sys2Proof.Machine

variable {s s0 t : State} {l k : Fin 8}

/-- A lane without its staging and its late allowances. -/
def Lane.core (x : Lane) : Lane :=
  { x with outbound := Vector.replicate 4 OutPlace.empty, inbound := [], lateOut := true, lateIn := true }

/-- From `s` to `t` the domains and the list of cues stand, and lane `l` stands but for its staging and its late allowances:
it has still to take the boundary in hand, or has taken it, as before. -/
structure Beside (l : Fin 8) (s t : State) : Prop where
  domains : ∀ d, t.domain d = s.domain d
  list : t.cu.list = s.cu.list
  turn : l ∈ t.li.atBoundary ↔ l ∈ s.li.atBoundary
  core : (t.lane l).core = (s.lane l).core

theorem Beside.refl (s : State) : Beside l s s := ⟨fun _ => rfl, rfl, Iff.rfl, rfl⟩

theorem Beside.trans {u : State} (a : Beside l s t) (b : Beside l t u) : Beside l s u :=
  ⟨fun d => (b.domains d).trans (a.domains d), b.list.trans a.list, b.turn.trans a.turn, b.core.trans a.core⟩

theorem Beside.of_blocks (hcb : t.cb = s.cb) (hcu : t.cu = s.cu) (hli : t.li = s.li) : Beside l s t :=
  ⟨fun d => congrArg (·.domains[d]) hcb, congrArg (·.list) hcu, by rw [hli],
    congrArg (fun x => (x.lanes[l] : Lane).core) hli⟩

theorem Beside.of_engine (h : EngineOnly s t) : Beside l s t :=
  ⟨fun d => congrArg (·.domains[d]) h.cb, congrArg (·.list) h.cu, by rw [h.atBoundary], by rw [h.lanes l]; rfl⟩

theorem beside_engine (h : Beside l s0 s) (e : EngineOnly s t) : Beside l s0 t := h.trans (.of_engine e)

theorem beside_foldl {α : Type} {f : State → α → State} (hf : ∀ s a, Beside l s0 s → Beside l s0 (f s a)) :
    ∀ (xs : List α) {s : State}, Beside l s0 s → Beside l s0 (xs.foldl f s)
  | [], _, h => h
  | a :: xs, s, h => beside_foldl hf xs (hf s a h)

/-! ## One write -/

@[simp] theorem beside_request (h : Beside l s0 s) (id : RecordId) : Beside l s0 (s.request id) :=
  beside_engine h (.ofReport (request_only s id))

@[simp] theorem beside_passEvent (h : Beside l s0 s) (e : Event) : Beside l s0 (s.passEvent e) :=
  beside_engine h (.ofReport (passEvent_only s e))

@[simp] theorem beside_requestImage (h : Beside l s0 s) (p : Fin 2) (es : List Event) : Beside l s0 (s.requestImage p es) :=
  beside_engine h (.ofReport (requestImage_only s p es))

@[simp] theorem beside_requestMeter (h : Beside l s0 s) (k : Fin 8) : Beside l s0 (s.requestMeter k) :=
  beside_engine h (.ofReport (requestMeter_only s k))

@[simp] theorem beside_setWindow (h : Beside l s0 s) (k : Fin 8) (x : LaneWindow) : Beside l s0 (s.setWindow k x) :=
  h.trans (.of_blocks rfl rfl rfl)

@[simp] theorem beside_setWatch (h : Beside l s0 s) (k : Fin 8) (i : Fin 64) (x : SlotWatch) :
    Beside l s0 (s.setWatch k i x) := h.trans (.of_blocks rfl rfl rfl)

@[simp] theorem beside_putPort (h : Beside l s0 s) (p : Fin 2) (x : Port) : Beside l s0 (s.putPort p x) :=
  h.trans (.of_blocks rfl rfl rfl)

@[simp] theorem beside_setOutput (h : Beside l s0 s) (o : Fin 4) (x : WordOutput) : Beside l s0 (s.setOutput o x) :=
  h.trans ⟨fun _ => rfl, rfl, Iff.rfl, rfl⟩

theorem beside_setLane (h : Beside l s0 s) (k : Fin 8) (x : Lane) (hx : k = l → x.core = (s.lane l).core) :
    Beside l s0 (s.setLane k x) := by
  refine h.trans ⟨fun _ => rfl, rfl, Iff.rfl, ?_⟩
  by_cases e : k = l
  · subst e; rw [State.lane_setLane_self]; exact hx rfl
  · rw [State.lane_setLane_of_ne s x e]

theorem beside_setOther (hk : k ≠ l) (h : Beside l s0 s) (x : Lane) : Beside l s0 (s.setLane k x) :=
  beside_setLane h k x fun e => absurd e hk

@[simp] theorem beside_clearWindow (h : Beside l s0 s) (k : Fin 8) : Beside l s0 (s.clearWindow k) := beside_setWindow h k _

/-! ## Another lane's turn (R107, R108, R111, R117) -/

section
variable (hk : k ≠ l)
include hk

theorem beside_enterFault (h : Beside l s0 s) (c : BadCause) (n : Word) : Beside l s0 (s.enterFault k c n) :=
  beside_engine (beside_passEvent (beside_request (beside_setOther hk h _) _) _) (engine_haltLane (.refl _) k)

theorem beside_judgeBad (h : Beside l s0 s) (c : BadCause) (n : Word) : Beside l s0 (s.judgeBad k c n) := by
  have placed : Beside l s0 (s.placeBad k c n) :=
    beside_engine (beside_setOther hk h _) (engine_placeInbound (.refl _) k n .bad)
  by_cases eighth : (s.lane k).badRun + 1 = 8
  · rw [judgeBad_eighth eighth]; exact beside_enterFault hk placed c n
  · rw [judgeBad_short eighth]; exact placed

theorem beside_closeExpectation (h : Beside l s0 s) : Beside l s0 (s.closeExpectation k) := by
  unfold State.closeExpectation
  dsimp only
  split
  · exact h
  · split
    · exact beside_judgeBad hk (beside_setOther hk h _) _ _
    · exact beside_setOther hk (beside_setOther hk h _) _
    · exact beside_setOther hk h _

theorem beside_countDown (h : Beside l s0 s) : Beside l s0 (s.countDown k) := by
  unfold State.countDown
  dsimp only
  split
  · exact h
  · split
    · exact beside_request (beside_clearWindow (beside_setOther hk h _) k) _
    · exact beside_setOther hk h _

theorem beside_sendFrame (h : Beside l s0 s) (d : Fin 4) (n : Word) : Beside l s0 (s.sendFrame k d n) := by
  unfold State.sendFrame
  dsimp only
  split
  · exact beside_setOther hk h _
  · exact beside_setOther hk h _
  · exact h

theorem beside_laneBoundary (h : Beside l s0 s) (d : Fin 4) : Beside l s0 (s.laneBoundary d k) := by
  have counted : Beside l s0 (if (s.lane k).state = .fault then (s.closeExpectation k).countDown k
      else s.closeExpectation k) := by
    split
    · exact beside_countDown hk (beside_closeExpectation hk h)
    · exact beside_closeExpectation hk h
  exact beside_engine (beside_sendFrame hk
    (beside_engine counted (engine_foldl (fun _ i e => engine_leaveUnfetched e k _ i) _ (.refl _))) d _)
    (engine_frameLeft (.refl _) k _)

theorem beside_takeLane (h : Beside l s0 s) (d : Fin 4) : Beside l s0 (s.takeLane d k) := by
  unfold State.takeLane
  split
  · have taken : Beside l s0 (if (s.domain d).running then s.laneBoundary d k else s) := by
      split
      · exact beside_laneBoundary hk h d
      · exact h
    refine taken.trans ⟨fun _ => rfl, rfl, ?_, rfl⟩
    simp [hk.symm]
  · exact h

end

/-! ## The outputs and the tick (R74, R97, R148) -/

@[simp] theorem beside_putOutput (h : Beside l s0 s) (o : Fin 4) (x : WordOutput) : Beside l s0 (s.putOutput o x) := by
  unfold State.putOutput
  dsimp only
  split <;> simp [h]

@[simp] theorem beside_edgesBefore (h : Beside l s0 s) (o : Fin 4) (n : Nat) : Beside l s0 (s.edgesBefore o n) := by
  unfold State.edgesBefore State.runEdges
  split <;> simp [h]

@[simp] theorem beside_outputBoundary (h : Beside l s0 s) (d : Fin 4) (o : Fin 4) : Beside l s0 (s.outputBoundary d o) := by
  unfold State.outputBoundary
  dsimp only
  split <;> simp [h]

theorem beside_requestOutputs (h : Beside l s0 s) (d : Fin 4) : Beside l s0 (s.requestOutputs d) :=
  beside_foldl (fun _ _ h => by split <;> simp [h]) _ h

theorem beside_handLevels (h : Beside l s0 s) (k : Fin 8) (level : Fin 64 → BitVec 4) :
    Beside l s0 (s.handLevels k level) := by
  refine beside_foldl (fun u p h => ?_) _ h
  unfold State.handLevelsTo
  dsimp only
  split
  · exact h
  · split <;> simp [h]

theorem beside_runWatches (h : Beside l s0 s) (k : Fin 8) (d : Fin 4) (c closing : Word) (n : Nat) :
    Beside l s0 (s.runWatches k d c closing n).1 := by
  unfold State.runWatches
  refine List.foldlRecOn (motive := fun r : State × List Event => Beside l s0 r.1) _ _ h fun r hr i _ => ?_
  split
  · exact beside_setWatch hr _ _ _
  · exact hr

theorem beside_closeWindow (h : Beside l s0 s) (d : Fin 4) (k : Fin 8) : Beside l s0 (s.closeWindow d k) := by
  have watched : Beside l s0 (if (s.window k).good = 0 then (s, []) else
      s.runWatches k d (s.domain d).count ((s.window k).closing + 1) (s.capacity k)).1 := by
    split
    · exact h
    · exact beside_runWatches h k d _ _ _
  exact beside_clearWindow (beside_handLevels (beside_requestMeter (beside_setWindow watched k _) k) k _) k

theorem beside_tick (h : Beside l s0 s) (d : Fin 4) : Beside l s0 (s.tick d) := by
  have records := beside_foldl (fun _ i h => beside_request h (.live i)) (State.streamsOf (s.request (.domain d)) d)
    (beside_request h (.domain d))
  refine beside_requestOutputs (beside_foldl (fun _ k h => beside_closeWindow h d k) _ (beside_foldl (fun u k h => ?_) _
    records)) d
  refine beside_request (beside_setLane h k _ fun e => ?_) _
  subst e; rfl

/-! ## A part of the boundary (R73) -/

theorem cueBoundary_of_empty (h : s.cu.list = []) (d : Fin 4) : s.cueBoundary d = s := by
  unfold State.cueBoundary
  rw [h]
  rfl

/-- With no cue in the list, every part but the lane's own turn leaves the lane beside it. -/
theorem beside_boundaryPart (h : s.cu.list = []) (d : Fin 4) (ticks : Bool) {p : BoundaryPart} (hp : p ≠ .lane l) :
    Beside l s (s.boundaryPart d ticks p) := by
  cases p with
  | lane k => exact beside_takeLane (fun e => hp (congrArg _ e)) (.refl s) d
  | cues => rw [State.boundaryPart, cueBoundary_of_empty h]; exact .refl s
  | output o =>
    show Beside l s (if (s.domain d).running then s.outputBoundary d o else s)
    split
    · exact beside_outputBoundary (.refl s) d o
    · exact .refl s
  | tick =>
    show Beside l s (if ticks ∧ (s.domain d).running then s.tick d else s)
    split
    · exact beside_tick (.refl s) d
    · exact .refl s

end Sys2Proof.Machine
end

-- ==== Proofs of the family 02: a lane at a boundary ====
section
/-! A lane's part of a boundary (R106 to R108, R111, R117, R27 to R29): what it sends, what leaves its staging, and the
boundary that ends the countdown of a FAULT lane. -/

namespace Sys2Proof.Machine

variable {s u : State} {l : Fin 8} {d : Fin 4} {i : Fin 32} {g : Geometry}

/-! ## What the lane sends, and its countdown (R107, R108, R111, R117) -/

theorem sendFrame_training (h : (s.lane l).state = .training) (d : Fin 4) (n : Word) :
    s.sendFrame l d n = s.setLane l { s.lane l with
      sent := some (LaneFrame.make 2 (n.extractLsb' 0 8) [] (some (s.domain d).announcement)), expected := some n } := by
  unfold State.sendFrame
  dsimp only
  split
  · rfl
  · next e => exact nomatch h.symm.trans e
  · next e _ => exact absurd h e

/-- R111: the DATA frame, the oldest command word leaving the queue. -/
theorem sendFrame_up (h : (s.lane l).state = .up) (d : Fin 4) (n : Word) :
    s.sendFrame l d n = s.setLane l { s.lane l with
      sent := some (LaneFrame.make 1 (n.extractLsb' 0 8)
        ((s.lane l).outbound[placeOf n].slots.toList.take (s.capacity l)) (s.lane l).queue.head?),
      expected := some n, queue := (s.lane l).queue.drop 1,
      counters := { (s.lane l).counters with
        sent := if (s.lane l).queue.isEmpty then (s.lane l).counters.sent else (s.lane l).counters.sent + 1 } } := by
  unfold State.sendFrame
  dsimp only
  split
  · next e => exact nomatch h.symm.trans e
  · rfl
  · next _ e => exact absurd h e

theorem sendFrame_silent (h : (s.lane l).state = .fault ∨ (s.lane l).state = .idle) (d : Fin 4) (n : Word) :
    s.sendFrame l d n = s := by
  unfold State.sendFrame
  rcases h with h | h <;> simp only [h]

theorem closeExpectation_none (h : (s.lane l).expected = none) : s.closeExpectation l = s := by
  unfold State.closeExpectation; simp only [h]

theorem closeExpectation_up {m : Word} (h : (s.lane l).expected = some m) (hs : (s.lane l).state = .up) :
    s.closeExpectation l = (s.setLane l { s.lane l with expected := none }).judgeBad l .missing m := by
  unfold State.closeExpectation; simp only [h, hs]

theorem closeExpectation_training {m : Word} (h : (s.lane l).expected = some m) (hs : (s.lane l).state = .training) :
    s.closeExpectation l = s.setLane l { s.lane l with expected := none, trainingRun := 0 } := by
  unfold State.closeExpectation; simp only [h, hs, State.setLane_setLane]

theorem closeExpectation_fault (hs : (s.lane l).state = .fault) :
    s.closeExpectation l = s.setLane l { s.lane l with expected := none } := by
  cases h : (s.lane l).expected with
  | none =>
    rw [closeExpectation_none h, ← h]
    exact (State.setLane_lane s l).symm
  | some m => unfold State.closeExpectation; simp only [h, hs]

theorem countDown_goes_on {k : Nat} (h : (s.lane l).countdown = some (k + 2)) :
    s.countDown l = s.setLane l { s.lane l with countdown := some (k + 1) } := by
  unfold State.countDown; simp only [h]; exact if_neg (by omega)

theorem countDown_ends (h : (s.lane l).countdown = some 1) :
    s.countDown l = ((s.setLane l (s.lane l).training).clearWindow l).request (.lane l) := by
  unfold State.countDown; simp only [h]; exact if_pos le_rfl

/-! ## The turn of a lane (R73, R27 to R29) -/

theorem running_iff (x : Domain) : x.running = true ↔ x.run ≠ .stopped := bne_iff_ne

/-- R29: the frame's fetch of a stream is due and has not completed. -/
def Stream.unfetched (x : Stream) (n : Word) : Bool := x.state.fetches && x.next == n && x.within n

theorem unfetched_iff (x : Stream) (n : Word) : x.unfetched n = true ↔
    (x.state = .primed ∨ x.state = .running ∨ x.state = .starved) ∧ x.next = n ∧
      ∀ r, x.stop = some r → (r.last - n).toNat < 2147483648 := by
  rw [← within_iff, ← fetches_iff]
  simp only [Stream.unfetched, Bool.and_eq_true, beq_iff_eq, and_assoc]

theorem leaveUnfetched_of_fetched {n : Word} (h : ¬ (s.stream i).unfetched n = true) : s.leaveUnfetched l n i = s :=
  if_neg h

theorem leaveUnfetched_of_unfetched {n : Word} (h : (s.stream i).unfetched n = true) {begun : State × Bool}
    (hb : (if (s.stream i).words = 0 then s.fetchBegin i else (s, true)) = begun) : s.leaveUnfetched l n i =
      if begun.2 then
        ((begun.1.mapStream i (fun y => { y with
          counters := { y.counters with engineLate := satInc y.counters.engineLate } })).engineLate l .outbound n).fetchEnd i
            ((s.stream i).words != 0)
      else begun.1 := by
  subst hb; exact if_pos h

/-- R28: the place of the frame with the frame noted in it. -/
def State.notedPlace (s : State) (i : Fin 32) (g : Geometry) : OutPlace :=
  let x := s.stream i
  let place := (s.lane g.lane).outbound[placeOf x.next]
  { place with carries := place.carries ++ [⟨i, g.base, x.period, x.frame, g.frames⟩] }

/-- R28: the frame noted in staging. -/
def State.noted (s : State) (i : Fin 32) (g : Geometry) : State :=
  let y := s.lane g.lane
  s.setLane g.lane { y with outbound := y.outbound.set (placeOf (s.stream i).next) (s.notedPlace i g) }

/-- R28: the frame noted, and the start stamp set where the frame is the first carried. -/
def State.notedAs (s : State) (i : Fin 32) (g : Geometry) (carried : Bool) : State :=
  if carried then (s.noted i g).stamped i else s.noted i g

/-- The start stamp after the frame. -/
def Stream.stampAfter (x : Stream) (carried : Bool) : Option Word :=
  if carried = true ∧ x.stamp = none then some x.next else x.stamp

theorem fetchEnd_eq (hg : (s.stream i).geom = some g) (carried : Bool) :
    s.fetchEnd i carried = ((s.notedAs i g carried).advance i).mapStream i Stream.step := by
  unfold State.fetchEnd
  dsimp only
  split
  · next no => exact nomatch hg.symm.trans no
  · next y hy =>
    obtain rfl : y = g := Option.some.inj (hy.symm.trans hg)
    cases carried with
    | false => rfl
    | true =>
      simp only [true_and, Option.isNone_iff_eq_none]
      rfl

theorem notedAs_stream (carried : Bool) :
    (s.notedAs i g carried).stream i = { s.stream i with stamp := (s.stream i).stampAfter carried } := by
  have same : (s.noted i g).stream i = s.stream i := rfl
  unfold State.notedAs Stream.stampAfter
  cases carried with
  | false => rfl
  | true =>
    rw [if_pos rfl, stamped_stream, same]
    cases (s.stream i).stamp <;> rfl

theorem notedAs_lane (carried : Bool) (k : Fin 8) : (s.notedAs i g carried).lane k = (s.noted i g).lane k := by
  unfold State.notedAs
  split
  · exact stamped_lane k
  · rfl

/-- R28: a fetch that is over before the last frame of a period moves the position within it. -/
theorem fetchEnd_within (hg : (s.stream i).geom = some g) (h : (s.stream i).frame + 1 < g.frames) (carried : Bool) :
    s.fetchEnd i carried = (s.notedAs i g carried).setStream i { s.stream i with
      frame := (s.stream i).frame + 1, next := (s.stream i).next + 1, words := 0,
      stamp := (s.stream i).stampAfter carried } := by
  have stream := notedAs_stream (s := s) (i := i) (g := g) carried
  rw [fetchEnd_eq hg, advance_within (g := g) (by rw [stream]; exact hg) (by rw [stream]; exact h), State.mapStream,
    State.stream_setStream_self, State.setStream_setStream, stream]
  rfl

theorem noted_place : ((s.noted i g).lane g.lane).outbound[placeOf (s.stream i).next] = s.notedPlace i g := by
  unfold State.noted
  rw [State.lane_setLane_self]
  exact place_set_self _ _ _

/-- R28, R41: what leaves staging with outbound frame `n`. -/
theorem frameLeft_eq (s : State) (l : Fin 8) (n : Word) :
    let carries := (s.lane l).outbound[placeOf n].carries
    let noted := carries.foldl (fun u r => u.setStream r.stream { u.stream r.stream with lastFrame := some n }) s
    let claimed := carries.foldl (fun u r =>
      if r.frame + 1 = r.frames then u.playedClaim r.stream r.base r.period else u) noted
    let left := claimed.setLane l { claimed.lane l with
      outbound := (claimed.lane l).outbound.set (placeOf n) ⟨Vector.replicate 64 0, []⟩ }
    s.frameLeft l n = (left.streamsOn l .play).foldl (fun u i =>
      match (u.stream i).stop with
      | none => u
      | some r =>
        let how : StopHow := match r.mode with | .now => .now | .periodEnd => .periodEnd
        if r.last = n ∧ (u.stream i).state.active = true then u.becomeIdle i how else u) left := rfl

/-- The lane has taken the boundary in hand. -/
def State.turnTaken (s : State) (l : Fin 8) : State :=
  { s with li := { s.li with atBoundary := s.li.atBoundary.filter (· != l) } }

theorem takeLane_of_taken (h : l ∉ s.li.atBoundary) (d : Fin 4) : s.takeLane d l = s :=
  if_neg (by simpa using h)

theorem takeLane_of_stopped (h : l ∈ s.li.atBoundary) (hr : (s.domain d).run = .stopped) :
    s.takeLane d l = s.turnTaken l := by
  refine (if_pos (by simpa using h)).trans ?_
  rw [if_neg (by simp [running_iff, hr])]
  rfl

theorem takeLane_of_running (h : l ∈ s.li.atBoundary) (hr : (s.domain d).run ≠ .stopped) :
    s.takeLane d l = (s.laneBoundary d l).turnTaken l := by
  refine (if_pos (by simpa using h)).trans ?_
  rw [if_pos ((running_iff _).2 hr)]
  rfl

/-- R107, R108, R111, R117, R29: the turn of a lane, up to the leaving of the frame. -/
theorem laneBoundary_eq (s : State) (d : Fin 4) (l : Fin 8) : s.laneBoundary d l =
    let counted := if (s.lane l).state = .fault then (s.closeExpectation l).countDown l else s.closeExpectation l
    let fetched := (counted.streamsOn l .play).foldl (fun u i => u.leaveUnfetched l ((s.domain d).count - 1) i) counted
    (fetched.sendFrame l d ((s.domain d).count - 1)).frameLeft l ((s.domain d).count - 1) := rfl

/-! ## The boundary that ends the countdown of a FAULT lane (R117) -/

/-- Lane `l`, in FAULT with one boundary to count, has still to take the boundary in hand of its domain `d`, whose record is
`x`; no cue waits. -/
structure AwaitsRetrain (l : Fin 8) (d : Fin 4) (x : Domain) (s : State) : Prop where
  domain : s.domain d = x
  list : s.cu.list = []
  turn : l ∈ s.li.atBoundary
  state : (s.lane l).state = .fault
  countdown : (s.lane l).countdown = some 1

/-- Lane `l` has taken the boundary in hand: it is TRAINING and has sent the TRAIN frame of the frame just closed. -/
structure Retrains (l : Fin 8) (d : Fin 4) (x : Domain) (s : State) : Prop where
  domain : s.domain d = x
  list : s.cu.list = []
  turn : l ∉ s.li.atBoundary
  state : (s.lane l).state = .training
  countdown : (s.lane l).countdown = none
  trainingRun : (s.lane l).trainingRun = 0
  expected : (s.lane l).expected = some (x.count - 1)
  sent : (s.lane l).sent = some (LaneFrame.make 2 ((x.count - 1).extractLsb' 0 8) [] (some x.announcement))

section
variable {x : Domain}

theorem AwaitsRetrain.beside (a : AwaitsRetrain l d x s) (b : Beside l s u) : AwaitsRetrain l d x u where
  domain := (b.domains d).trans a.domain
  list := b.list.trans a.list
  turn := b.turn.2 a.turn
  state := (congrArg Lane.state b.core :).trans a.state
  countdown := (congrArg Lane.countdown b.core :).trans a.countdown

theorem Retrains.beside (a : Retrains l d x s) (b : Beside l s u) : Retrains l d x u where
  domain := (b.domains d).trans a.domain
  list := b.list.trans a.list
  turn := fun h => a.turn (b.turn.1 h)
  state := (congrArg Lane.state b.core :).trans a.state
  countdown := (congrArg Lane.countdown b.core :).trans a.countdown
  trainingRun := (congrArg Lane.trainingRun b.core :).trans a.trainingRun
  expected := (congrArg Lane.expected b.core :).trans a.expected
  sent := (congrArg Lane.sent b.core :).trans a.sent

/-- R117: what the end of the countdown leaves. -/
def State.countedOut (s : State) (l : Fin 8) : State :=
  ((s.setLane l (s.lane l).training).clearWindow l).request (.lane l)

theorem countedOut_lane : (s.countedOut l).lane l = (s.lane l).training := by
  rw [State.countedOut, State.request_lane]
  exact State.lane_setLane_self s l _

theorem countedOut_domain : (s.countedOut l).domain d = s.domain d := by
  unfold State.countedOut State.domain
  rw [State.request_cb]
  rfl

theorem countedOut_list : (s.countedOut l).cu.list = s.cu.list := by
  rw [State.countedOut, State.request_cu]
  rfl

theorem closed_countDown (hs : (s.lane l).state = .fault) (hc : (s.lane l).countdown = some 1) :
    (s.closeExpectation l).countDown l = s.countedOut l := by
  have lane : (s.closeExpectation l).lane l = { s.lane l with expected := none } := by
    rw [closeExpectation_fault hs, State.lane_setLane_self]
  rw [countDown_ends (by rw [lane]; exact hc), lane, closeExpectation_fault hs, State.setLane_setLane]
  rfl

/-- R108: a TRAINING lane sends its TRAIN frame, and the frame leaves staging. -/
theorem retrains_of_sent {y : Lane} (hd : s.domain d = x) (hl : s.cu.list = [])
    (core : (s.lane l).core = y.training.core) :
    Retrains l d x (((s.sendFrame l d (x.count - 1)).frameLeft l (x.count - 1)).turnTaken l) := by
  have training : (s.lane l).state = .training := congrArg Lane.state core
  have left := Beside.of_engine (l := l) (engine_frameLeft (.refl (s.sendFrame l d (x.count - 1))) l (x.count - 1))
  generalize (s.sendFrame l d (x.count - 1)).frameLeft l (x.count - 1) = u at left
  rw [sendFrame_training training, hd] at left
  have after := left.core
  rw [State.lane_setLane_self] at after
  exact {
    domain := (left.domains d).trans hd
    list := left.list.trans hl
    turn := fun h => by simp [State.turnTaken] at h
    state := (congrArg Lane.state after :).trans training
    countdown := (congrArg Lane.countdown after :).trans (congrArg Lane.countdown core)
    trainingRun := (congrArg Lane.trainingRun after :).trans (congrArg Lane.trainingRun core)
    expected := congrArg Lane.expected after
    sent := congrArg Lane.sent after }

/-- R117: the turn of the lane. -/
theorem AwaitsRetrain.takeLane (a : AwaitsRetrain l d x s) (hr : x.run ≠ .stopped) : Retrains l d x (s.takeLane d l) := by
  have fetched : Beside l (s.countedOut l) (((s.countedOut l).streamsOn l .play).foldl
      (fun u i => u.leaveUnfetched l (x.count - 1) i) (s.countedOut l)) :=
    .of_engine (engine_foldl (fun _ i e => engine_leaveUnfetched e l _ i) _ (.refl _))
  rw [takeLane_of_running a.turn (by rw [a.domain]; exact hr), laneBoundary_eq, if_pos a.state,
    closed_countDown a.state a.countdown, a.domain]
  exact retrains_of_sent ((fetched.domains d).trans (countedOut_domain.trans a.domain))
    (fetched.list.trans (countedOut_list.trans a.list)) (fetched.core.trans (by rw [countedOut_lane]))

/-- A part of the boundary: the lane's own turn trains it again, any other leaves it waiting. -/
theorem AwaitsRetrain.part (a : AwaitsRetrain l d x s) (ticks : Bool) {p : BoundaryPart} (hp : p ≠ .lane l) :
    AwaitsRetrain l d x (s.boundaryPart d ticks p) := a.beside (beside_boundaryPart a.list d ticks hp)

theorem Retrains.part (a : Retrains l d x s) (ticks : Bool) (p : BoundaryPart) :
    Retrains l d x (s.boundaryPart d ticks p) := by
  by_cases hp : p = .lane l
  · subst hp
    rw [State.boundaryPart, takeLane_of_taken a.turn]
    exact a
  · exact a.beside (beside_boundaryPart a.list d ticks hp)

theorem Retrains.parts (ticks : Bool) (ps : List BoundaryPart) (a : Retrains l d x s) :
    Retrains l d x (ps.foldl (State.boundaryPart d ticks) s) := by
  induction ps generalizing s with
  | nil => exact a
  | cons p ps ih => exact ih (a.part ticks p)

/-- The parts of a boundary, the lane's turn among them. -/
theorem AwaitsRetrain.parts (ticks : Bool) (hr : x.run ≠ .stopped) (ps : List BoundaryPart) (h : .lane l ∈ ps)
    (a : AwaitsRetrain l d x s) : Retrains l d x (ps.foldl (State.boundaryPart d ticks) s) := by
  induction ps generalizing s with
  | nil => exact nomatch h
  | cons p ps ih =>
    by_cases hp : p = .lane l
    · subst hp
      exact Retrains.parts ticks ps (a.takeLane hr)
    · exact ih ((List.mem_cons.1 h).resolve_left (Ne.symm hp)) (a.part ticks hp)

theorem lane_mem_partOrder (l : Fin 8) (order : List BoundaryPart) : .lane l ∈ partOrder order := by
  have default : BoundaryPart.lane l ∈ defaultParts :=
    List.mem_append_left _ (List.mem_append_left _ (List.mem_append_left _
      (List.mem_map_of_mem (List.mem_finRange l))))
  exact List.mem_eraseDups.2 (List.mem_append_right _ default)

/-! ## The boundary taken (R72, R117) -/

/-- What the rising of the count leaves of a domain's record. -/
theorem count1_frame (x : Domain) (d : Fin 4) (t : Nat) : x.count1 d t = { x with
    count := x.count + 1, lastBoundary := t, afterSwitch := none,
    holdIndex := (x.count1 d t).holdIndex, holdStart := (x.count1 d t).holdStart } := by
  unfold Domain.count1
  dsimp only
  repeat' split
  all_goals rfl

theorem rateAtBoundary_of_none (h : (s.domain d).rateChange = none) : s.rateAtBoundary d = s := by
  unfold State.rateAtBoundary; simp only [h]

theorem switchAtBoundary_of_none (h : (s.domain d).candidate = none) (t : Nat) : s.switchAtBoundary d t = s := by
  unfold State.switchAtBoundary; simp only [h]

/-- R72: a boundary that is due is taken on the domain's record `y` with the edge accounted for. -/
theorem boundary_of_due (h : boundaryIsDue (s.domain d) s.mclk) (order : List BoundaryPart) : ∃ (t : Nat) (y : Domain),
    y = { s.domain d with edgeOwed := y.edgeOwed } ∧ s.boundary d order = (s.setDomain d y).takeBoundary d t order := by
  have taken (t : Nat) (y : Domain) (hb : s.boundaryDue d = some (t, y)) :
      s.boundary d order = (s.setDomain d y).takeBoundary d t order := by unfold State.boundary; rw [hb]
  rcases h with ⟨hr, hx⟩ | ⟨hr, hx, ho⟩ | ⟨m, hr, hm, hle⟩
  · refine ⟨_, _, rfl, taken s.mclk (s.domain d) ?_⟩
    unfold State.boundaryDue
    rcases hx with hx | hx <;> simp only [hr, hx, Option.bind_some, Source.input]
  · rcases hx with hx | hx
    · refine ⟨_, _, ?_, taken (s.input 0).lastEdge { s.domain d with edgeOwed := false } ?_⟩
      · rfl
      · unfold State.boundaryDue; simp only [hr, hx, Option.bind_some, Source.input]; exact if_pos ho
    · refine ⟨_, _, ?_, taken (s.input 1).lastEdge { s.domain d with edgeOwed := false } ?_⟩
      · rfl
      · unfold State.boundaryDue; simp only [hr, hx, Option.bind_some, Source.input]; exact if_pos ho
  · have due : (s.domain d).holdoverDue d ≤ s.mclk := by
      unfold Domain.holdoverDue Domain.runCycles
      rw [hm]; exact hle
    refine ⟨_, _, rfl, taken ((s.domain d).holdoverDue d) (s.domain d) ?_⟩
    unfold State.boundaryDue
    simp only [hr]
    exact if_pos due

theorem runs_of_due {now : Nat} (h : boundaryIsDue x now) : x.run ≠ .stopped := by
  rcases h with ⟨hr, -⟩ | ⟨hr, -⟩ | ⟨m, hr, -⟩ <;> simp [hr]

/-- R73: the lanes of the domain have the boundary to take, and the parts take it. -/
def State.partsTaken (s : State) (d : Fin 4) (order : List BoundaryPart) : State :=
  (partOrder order).foldl (State.boundaryPart d ((s.domain d).count.toNat % 2 ^ (s.domain d).tickExp == 0))
    { s with li := { s.li with atBoundary := s.lanesOf d } }

theorem takeBoundary_eq (s : State) (d : Fin 4) (t : Nat) (order : List BoundaryPart) : s.takeBoundary d t order =
    let u := (((s.setDomain d ((s.domain d).count1 d t)).rateAtBoundary d).switchAtBoundary d t).partsTaken d order
    { u with li := { u.li with atBoundary := [] } } := rfl

/-- R117: the boundary that ends the countdown of a FAULT lane, no change of the domain and no cue waiting at it. -/
theorem takeBoundary_retrains (t : Nat) (order : List BoundaryPart) (hs : (s.lane l).state = .fault)
    (hc : (s.lane l).countdown = some 1) (hd : (s.lane l).domain = some d) (hr : (s.domain d).run ≠ .stopped)
    (hl : s.cu.list = []) (hcand : (s.domain d).candidate = none) (hrate : (s.domain d).rateChange = none) :
    ∃ u, Retrains l d ((s.domain d).count1 d t) u ∧
      s.takeBoundary d t order = { u with li := { u.li with atBoundary := [] } } := by
  have frame := count1_frame (s.domain d) d t
  rw [takeBoundary_eq]
  generalize (s.domain d).count1 d t = x at frame
  have domain : (s.setDomain d x).domain d = x := State.domain_setDomain_self s d x
  have waits : AwaitsRetrain l d x { s.setDomain d x with
      li := { (s.setDomain d x).li with atBoundary := (s.setDomain d x).lanesOf d } } := {
    domain := domain
    list := hl
    turn := List.mem_filter.2 ⟨List.mem_finRange l, by simpa using hd⟩
    state := hs
    countdown := hc }
  rw [rateAtBoundary_of_none (by rw [domain, frame]; exact hrate),
    switchAtBoundary_of_none (by rw [domain, frame]; exact hcand)]
  exact ⟨_, waits.parts _ (by rw [frame]; exact hr) (partOrder order) (lane_mem_partOrder l order), rfl⟩

theorem exec_retrainCountdownEnd {dt : Nat} (order : List BoundaryPart) (hp : s.phase ≠ .held)
    (hs : (s.lane l).state = .fault) (hc : (s.lane l).countdown = some 1) (hd : (s.lane l).domain = some d) :
    exec (.retrainCountdownEnd l dt order) s = .next ((s.elapse dt).boundary d order) := by
  have lane : (s.elapse dt).lane l = s.lane l := rfl
  refine congrArg _ ((if_neg hp).trans ?_)
  simp only [lane, hs, hc, hd]

/-- What a boundary makes of the record of a domain with the edge accounted for. -/
theorem count1_owed {x y : Domain} (h : y = { x with edgeOwed := y.edgeOwed }) (d : Fin 4) (t : Nat) :
    (y.count1 d t).count = x.count + 1 ∧ (y.count1 d t).announcement = x.announcement := by
  rw [count1_frame, h]
  exact ⟨rfl, rfl⟩

/-- R117: the boundary that is due, from the lane's FAULT to its TRAIN frame. -/
theorem boundary_retrains (order : List BoundaryPart) (hs : (s.lane l).state = .fault)
    (hc : (s.lane l).countdown = some 1) (hd : (s.lane l).domain = some d) (due : boundaryIsDue (s.domain d) s.mclk)
    (hl : s.cu.list = []) (hcand : (s.domain d).candidate = none) (hrate : (s.domain d).rateChange = none) :
    ∃ x, x.count = (s.domain d).count + 1 ∧ x.announcement = (s.domain d).announcement ∧ ∃ u, Retrains l d x u ∧
      s.boundary d order = { u with li := { u.li with atBoundary := [] } } := by
  obtain ⟨t, y, owed, taken⟩ := boundary_of_due due order
  have domain : (s.setDomain d y).domain d = y := State.domain_setDomain_self s d y
  have run : (s.domain d).run ≠ .stopped := runs_of_due due
  have now := takeBoundary_retrains (s := s.setDomain d y) t order hs hc hd
    (by rw [domain, owed]; exact run) hl (by rw [domain, owed]; exact hcand)
    (by rw [domain, owed]; exact hrate)
  rw [domain, ← taken] at now
  obtain ⟨count, announcement⟩ := count1_owed owed d t
  exact ⟨_, count, announcement, now⟩

end

/-! ## The frames the part sends (R106, R202) -/

theorem announcement_eq (x : Domain) : x.announcement = fields [(0, x.family.code), (8, x.mult.value)] := by
  unfold Domain.announcement
  cases x.family <;> cases x.mult <;> decide

end Sys2Proof.Machine

namespace Sys2Proof.Proofs
open Sys2Proof.Machine

/-- Settles O51: what a lane sends and counts, its turn at a boundary, the late streams, the noting of a fetched frame, the
boundary that trains a lane again, and the fields of a frame. -/
theorem lanesSendAtTheirBoundaries : Obligations.LanesSendAtTheirBoundaries := by
  refine ⟨fun s l d n => ⟨fun h => sendFrame_training h d n, fun h hq => ?_, fun w q h hq => ?_,
      fun h => sendFrame_silent h d n, closeExpectation_none, fun m => closeExpectation_up, fun m => closeExpectation_training,
      fun k => countDown_goes_on, countDown_ends⟩,
    fun s l d => ⟨fun h => takeLane_of_taken h d, takeLane_of_stopped, fun h hr => ?_, ?_⟩,
    fun s l n i => ⟨fun h => leaveUnfetched_of_fetched fun due => h ((unfetched_iff _ n).1 due), fun due hb => ?_,
      fun due hb => ?_⟩,
    fun s l d n hd => ⟨fun h => engineLate_outbound_told h n, fun h => engineLate_outbound_first h hd n⟩,
    fun s i g carried hg hf => ⟨?_, ?_⟩,
    fun l dt order s d hp hs hc hd due hl hcand hrate => ?_,
    fun kind tag slots control x => ⟨rfl, rfl, rfl, rfl, rfl, ?_, ?_, ?_, announcement_eq x⟩⟩
  · rw [sendFrame_up h, hq]; rfl
  · rw [sendFrame_up h, hq]; rfl
  · rw [takeLane_of_running h hr, laneBoundary_eq]
    dsimp only
    rw [streamsOn_eq]
    rfl
  · exact (frameLeft_eq s l _).trans (congrArg (List.foldl _ _) (streamsOn_eq _ l .play))
  · have left := leaveUnfetched_of_unfetched (l := l) ((unfetched_iff _ n).2 due) rfl
    rw [left, if_neg (by simp [hb])]
  · have left := leaveUnfetched_of_unfetched (l := l) ((unfetched_iff _ n).2 due) rfl
    rw [left, if_pos hb]
    rfl
  · rw [fetchEnd_within hg hf, State.setStream_lane, notedAs_lane, noted_place]
    rfl
  · rw [fetchEnd_within hg hf, State.stream_setStream_self]
    rfl
  · obtain ⟨x, count, announcement, u, trains, taken⟩ :=
      boundary_retrains (s := s.elapse dt) order hs hc hd due hl hcand hrate
    have frame : x.count - 1 = (s.domain d).count := by rw [count]; exact BitVec.add_sub_cancel ..
    refine ⟨_, exec_retrainCountdownEnd order hp hs hc hd, ?_⟩
    rw [taken]
    refine ⟨(congrArg Domain.count trains.domain).trans count, trains.state, trains.countdown, trains.trainingRun,
      trains.expected.trans (congrArg some frame), trains.sent.trans ?_⟩
    rw [frame, announcement]; rfl
  · rintro rfl; exact ⟨rfl, rfl⟩
  · rintro w rfl; exact ⟨rfl, rfl⟩
  · rfl

end Sys2Proof.Proofs
end

-- ==== Proofs of the family 03: the laws of the state and the order of the cue list ====
section
/-! The laws of the state and the order of the cue list, through every command (R57, R160, R163, R177). -/

namespace Sys2Proof.Machine

/-! ## The laws through the reset sequences (R178 to R182) -/

theorem elapse_sound {s : State} (a : s.Sound) (n : Nat) : (s.elapse n).Sound :=
  ⟨a.memory, a.refresh, a.cues, a.ring, a.attn⟩

theorem powered_sound {s t : State} {f : State → State} (he : powered s f = .next t) (a : s.Sound)
    (hf : s.Sound → (f s).Sound) : t.Sound := by
  unfold powered at he
  split at he <;> cases he
  · exact a
  · exact hf a

/-- A change of phase, with the Memory Controller's records as before, where a phase that holds writes back follows on one
that does so too. -/
theorem phase_sound {s : State} (a : s.Sound) {p : Phase} {h : Bool} {m : MemController} {c : ClockBlock}
    (hp : p.holdsWrites = true → s.phase.holdsWrites = true) (hm : m.refreshPending ≤ s.mc.refreshPending)
    (hl : m.records = s.mc.records) : ({ s with phase := p, hrstn := h, mc := m, cb := c } : State).Sound := by
  obtain ⟨occupied, unread, none⟩ := a.ring
  refine ⟨a.memory, hm.trans a.refresh, a.cues, ⟨occupied, ?_, fun h => ?_⟩, a.attn⟩
  · simpa only [State.reservedRecords, hl] using unread
  · simpa only [State.reservedRecords, hl] using none (hp h)

/-- R179, R181: at the end of a scrub no event record is reserved, so emptying the Record order loses none. -/
theorem scrubbed_sound {s : State} (a : s.Sound) (hp : s.phase.holdsWrites = true) (p : Phase) : (s.scrubbed p).Sound := by
  obtain ⟨occupied, unread, none⟩ := a.ring
  rw [none hp] at unread
  exact ⟨Memory.wf_clear a.memory _ _, a.refresh, a.cues, ⟨occupied, unread, fun _ => rfl⟩, a.attn⟩

theorem pin_sound {s : State} (a : s.Sound) (b : Bool) : ({ s with hrstn := b } : State).Sound :=
  ⟨a.memory, a.refresh, a.cues, a.ring, a.attn⟩

/-- Each row of the sequences keeps the laws. -/
theorem sequence_sound {c : Instr} {s t : State} (hc : mayTurnPhase c = true) (he : exec c s = .next t)
    (a : s.Sound) : t.Sound := by
  cases c with
    dsimp only [exec, execPornAssert, execPornRelease, execSdramBringUp, execStartUpScrubComplete, execPassPortOpen,
      execMemoryArbitration, execEventRecordWritten, execMeterTableWritten, execSurfaceImageWritten, execHrstnAssert,
      execHrstnRelease, execHostResetScrubComplete] at he
  | pornAssert => cases he; exact powerOn_sound _ _ _
  | pornRelease m r dt =>
    split at he <;> cases he
    · next hp => exact phase_sound (elapse_sound a dt) (fun _ => by simp [hp, Phase.holdsWrites]) (Nat.le_refl _) rfl
    · exact elapse_sound a dt
  | sdramBringUp dt =>
    refine powered_sound he (elapse_sound a dt) fun a => ?_
    split
    · next hp => exact phase_sound a (fun _ => by rw [hp.1]; rfl) (Nat.zero_le _) rfl
    · exact a
  | startUpScrubComplete =>
    refine powered_sound he a fun a => ?_
    split
    · next hp =>
      have k := keeps_request (keeps_requestImage (keeps_requestImage
        (keeps_requestAll (.refl (s.scrubbed .records)) rewriteOrder) 0 []) 1 []) .startWord
      exact k.sound (scrubbed_sound a (by rw [hp]; rfl) _)
    · exact a
  | passPortOpen => exact powered_sound he a writeReady_sound
  | memoryArbitration => exact powered_sound he a fun a => openWhenReady_sound ((keeps_arbitrate (.refl s)).sound a)
  | eventRecordWritten => exact powered_sound he a fun a => completeRow_sound (completeRow_sound a _) _
  | meterTableWritten l => exact powered_sound he a fun a => completeRow_sound a _
  | surfaceImageWritten p => exact powered_sound he a fun a => completeRow_sound a _
  | hrstnAssert =>
    have pin := pin_sound a true
    split at he <;> cases he
    · exact resetBlocks_sound ((keeps_finishInHand (.refl _)).sound pin)
    · exact resetBlocks_sound pin
    · exact resetBlocks_sound pin
    · exact resetBlocks_sound pin
    all_goals exact pin
  | hrstnRelease =>
    split at he <;> cases he
    · next hp => exact phase_sound a (fun _ => by rw [hp]; rfl) (Nat.le_refl _) rfl
    · exact pin_sound a false
  | hostResetScrubComplete =>
    refine powered_sound he a fun a => ?_
    split
    · next hp =>
      have k := keeps_request (keeps_requestAll
        (keeps_restoreMeters (keeps_restoreSurfaces (.refl (s.scrubbed .hostRecords)))) rewriteOrder) .startWord
      exact k.sound (scrubbed_sound a (by rw [hp]; rfl) _)
    · exact a
  | _ => cases hc

/-- No command breaks the laws. -/
theorem exec_sound {c : Instr} {s t : State} (he : exec c s = .next t) (a : s.Sound) : t.Sound := by
  cases hc : mayTurnPhase c with
  | true => exact sequence_sound hc he a
  | false =>
    obtain ⟨n, k, -⟩ := exec_carries hc he
    exact k.sound (elapse_sound a n)

/-! ## The cue list through a command (R57, R60) -/

/-- Time passes, which leaves the list alone, and a powered part acts. -/
theorem powered_cues {s u t : State} {f : State → State} (he : powered u f = .next t)
    (hf : ∀ v, (f v).cu.list.Sublist v.cu.list) (hu : u.cu.list = s.cu.list := by rfl) :
    t.cu.list.Sublist s.cu.list := by
  unfold powered at he
  split at he <;> cases he <;> rw [← hu]
  exact hf u

/-- R180: a host reset empties the list. -/
theorem resetBlocks_cues (s : State) (l : List Cue) : s.resetBlocks.cu.list.Sublist l := List.nil_sublist l

theorem openPort_cues (s : State) : s.openPort.cu.list.Sublist s.cu.list := by
  rcases openPort_cases s with ⟨-, -, e⟩ | ⟨-, e⟩ <;> rw [e]
  exact resetBlocks_cues s _

theorem openWhenReady_cues (s : State) : s.openWhenReady.cu.list.Sublist s.cu.list := by
  unfold State.openWhenReady; split
  · exact openPort_cues s
  · exact .refl _

theorem writeReady_cues (s : State) : s.writeReady.cu.list.Sublist s.cu.list := by
  unfold State.writeReady; split
  · exact (openPort_cues _).trans (keeps_completeThrough (.refl s) _).cues
  · exact .refl _

theorem completeRow_cues (s : State) (p : RecordWork → Bool) : (s.completeRow p).cu.list.Sublist s.cu.list := by
  unfold State.completeRow
  refine (keeps_completeThrough (.refl _) p).cues.trans ?_
  split
  · exact writeReady_cues s
  · exact .refl _

theorem applyIfReached_cues (c : Cue) (s : State) : (s.applyIfReached c).cu.list.Sublist s.cu.list :=
  (drops_applyIfReached (.refl s) c).cues

theorem ite_cues {s t u : State} {b : Prop} [Decidable b] (ht : t.cu.list.Sublist s.cu.list)
    (hu : u.cu.list.Sublist s.cu.list) : (if b then t else u).cu.list.Sublist s.cu.list := by
  split
  · exact ht
  · exact hu

/-- R57: no command but CUE_TAKE brings a cue into the list. -/
theorem exec_cues {c : Instr} {s t : State} (hc : ∀ dt, c ≠ .cueTake dt) (he : exec c s = .next t) :
    t.cu.list.Sublist s.cu.list := by
  cases c with
    dsimp only [exec, execPassTransaction, execPlaybackRingWrite, execCaptureRingRead, execCuePostMarkWrite,
      execEventTakeMarkWrite, execAttentionMaskWrite, execStampDomainWrite, execGroupReferenceSelectWrite,
      execFaderWindowWrite, execLadderBindingWrite, execEncoderNotifyMaskWrite, execLampRowWrite,
      execThresholdWordWrite, execFrameBoundary, execStartStream, execStopStream, execSwapRing, execSwitchReference,
      execSetRate, execStopDomain, execAssignLane, execLaneCommand, execSetOutput, execMotorTarget, execMotorFree,
      execMark, execRetrainCountdownEnd, execWordClockEdge, execInputAbsent, execOscillatorRunning, execSettleWindowEnd,
      execOutputRise, execOutputFall, execInputStatusPeriodic, execSurfaceCounterPeriodic, execLaneFrameReceived,
      execMemoryArbitration, execRefreshInterval, execStreamFetch, execStreamStore, execEventRecordWritten,
      execMeterTableWritten, execSurfaceImageWritten, execAnnounce, execButtons, execFaderReport, execEncoderReport,
      execIdleReport, execSurfaceSilenceTimeout, execSurfaceCommandSent, execPornAssert, execPornRelease,
      execSdramBringUp, execStartUpScrubComplete, execPassPortOpen, execHrstnAssert, execHrstnRelease,
      execHostResetScrubComplete, execMalformedSurfaceMessage] at he
  | cueTake dt => exact absurd rfl (hc dt)
  | passTransaction | playbackRingWrite | captureRingRead =>
    exact powered_cues he fun u => (keeps_passTake (.refl u) _ _).cues
  | cuePostMarkWrite | eventTakeMarkWrite | attentionMaskWrite | stampDomainWrite | groupReferenceSelectWrite
  | faderWindowWrite | ladderBindingWrite | encoderNotifyMaskWrite | lampRowWrite | thresholdWordWrite =>
    exact powered_cues he fun u => (keeps_blockTake (.refl u) _ _).cues
  | frameBoundary => exact powered_cues he fun u => (runs_boundary (.refl u) _ _).cues
  | startStream | stopStream | swapRing | switchReference | setRate | assignLane | laneCommand | setOutput | motorTarget
  | motorFree | mark => exact powered_cues he (applyIfReached_cues _)
  | stopDomain =>
    refine powered_cues he fun u => ite_cues ?_ (applyIfReached_cues _ u)
    exact (drops_flushStopped (.refl _) _).cues.trans (applyIfReached_cues _ u)
  | retrainCountdownEnd =>
    refine powered_cues he fun u => ?_
    split
    · exact (runs_boundary (.refl u) _ _).cues
    · exact .refl _
  | wordClockEdge => exact powered_cues he fun u => (runs_risingEdge (.refl u) _ _ _).cues
  | inputAbsent =>
    exact powered_cues he fun u => ite_cues (runs_goAbsent (.refl u) _ _).cues (.refl _)
  | oscillatorRunning =>
    refine powered_cues he fun u => ?_
    split
    · exact ite_cues (carries_oscillatorUp _ _ u).cues (.refl _)
    · exact .refl _
  | settleWindowEnd => exact powered_cues he fun u => (keeps_windowOver (.refl u) _ _).cues
  | outputRise | outputFall =>
    refine powered_cues he fun u => ?_
    split
    · exact .refl _
    · exact ite_cues (keeps_putOutput (.refl u) _ _).cues (.refl _)
  | inputStatusPeriodic =>
    refine powered_cues he fun u => ?_
    split
    · exact .refl _
    · refine (keeps_requestAll (s0 := u) ?_ _).cues
      exact .quiet rfl rfl rfl rfl rfl rfl rfl rfl rfl rfl rfl (fun _ => rfl) rfl
  | surfaceCounterPeriodic => exact powered_cues he fun u => (keeps_requestImage (.refl u) _ _).cues
  | laneFrameReceived => exact powered_cues he fun u => (keeps_frameArrives (.refl u) _ _).cues
  | refreshInterval =>
    refine powered_cues he fun u => ?_
    split
    · exact .refl _
    · exact ite_cues (.refl _) (.refl _)
  | streamFetch =>
    exact powered_cues he fun u => ite_cues
      (keeps_fetchFrame (keeps_serveStream (.refl u) _ _) _ _).cues (.refl _)
  | streamStore =>
    exact powered_cues he fun u => ite_cues
      (keeps_storeFrame (keeps_serveStream (.refl u) _ _) _ _).cues (.refl _)
  | announce | buttons | faderReport | encoderReport | idleReport | malformedSurfaceMessage =>
    exact powered_cues he fun u => (keeps_surfaceMessage (.refl u) _ _).cues
  | surfaceSilenceTimeout => exact powered_cues he fun u => ite_cues (keeps_goDown (.refl u) _).cues (.refl _)
  | surfaceCommandSent =>
    refine powered_cues he fun u => ite_cues (keeps_putPort (.refl u) _ _ fun h => ?_).cues (.refl _)
    exact h.same rfl rfl rfl rfl
  | pornAssert => cases he; exact List.nil_sublist _
  | pornRelease => cases he; exact ite_cues (.refl _) (.refl _)
  | sdramBringUp => exact powered_cues he fun u => ite_cues (.refl _) (.refl _)
  | startUpScrubComplete =>
    refine powered_cues he fun u => ite_cues ?_ (.refl _)
    exact (keeps_request (keeps_requestImage (keeps_requestImage
      (keeps_requestAll (.refl (u.scrubbed .records)) _) _ _) _ _) _).cues
  | passPortOpen => exact powered_cues he writeReady_cues
  | memoryArbitration =>
    exact powered_cues he fun u => (openWhenReady_cues _).trans (keeps_arbitrate (.refl u)).cues
  | eventRecordWritten => exact powered_cues he fun u => (completeRow_cues _ _).trans (completeRow_cues u _)
  | meterTableWritten | surfaceImageWritten => exact powered_cues he fun u => completeRow_cues u _
  | hrstnAssert =>
    split at he <;> cases he
    exacts [resetBlocks_cues _ _, resetBlocks_cues _ _, resetBlocks_cues _ _, resetBlocks_cues _ _, .refl _, .refl _,
      .refl _, .refl _]
  | hrstnRelease => cases he; exact ite_cues (.refl _) (.refl _)
  | hostResetScrubComplete =>
    refine powered_cues he fun u => ite_cues ?_ (.refl _)
    exact (keeps_request (keeps_requestAll
      (keeps_restoreMeters (keeps_restoreSurfaces (.refl (u.scrubbed .hostRecords)))) _) _).cues

/-- CUE_TAKE brings one cue in at most, at the place of R57. -/
theorem exec_cueTake_ordered {s t : State} {dt : Nat} (he : exec (.cueTake dt) s = .next t) (ho : s.cuesOrdered)
    (hd : t.duesTogether) : t.cuesOrdered := by
  change powered (s.elapse dt) _ = .next t at he
  unfold powered at he
  split at he <;> cases he
  · exact ho
  · by_cases taking : (s.elapse dt).cu.taking = true
    · rw [if_pos taking] at hd ⊢
      exact (takes_takeCue (.refl (s.elapse dt)) taking).ordered ho hd
    · rw [if_neg taking]
      exact ho

/-- No command breaks the order of the list. -/
theorem exec_ordered {c : Instr} {s t : State} (he : exec c s = .next t) (ho : s.cuesOrdered) (hd : t.duesTogether) :
    t.cuesOrdered := by
  by_cases hc : ∃ dt, c = .cueTake dt
  · obtain ⟨dt, rfl⟩ := hc
    exact exec_cueTake_ordered he ho hd
  · exact ho.sublist (exec_cues (fun dt e => hc ⟨dt, e⟩) he)

end Sys2Proof.Machine

namespace Sys2Proof.Proofs

open Sys2Proof.Machine

/-- Settles O6: a step is its front command, which keeps the laws and the order of the list. -/
theorem everyStepKeepsSound : Obligations.EveryStepKeepsSound := by
  refine ⟨fun s t a h => ?_, fun s t ho h hd => ?_⟩ <;> unfold step at h <;> split at h
  · cases h; exact a
  · exact exec_sound h ⟨a.memory, a.refresh, a.cues, a.ring, a.attn⟩
  · cases h; exact ho
  · exact exec_ordered h ho hd

end Sys2Proof.Proofs
end

-- ==== Proofs of the family 03: the watchers of the control area ====
section
/-! The watchers of the control area by offset (R170, R183, R199, R201). -/

namespace Sys2Proof.Machine

variable {s : State}

theorem indexOf_val (i : Fin 16) : indexOf i.val = some i := dif_pos i.isLt

/-- R199: the configuration of port `p` stands at 512 bytes for each port. -/
theorem watchWord_config {p : Fin 2} {a o : Nat} (ha : a = 0x9800 + 512 * p.val + o) (ho : o < 512) (w : Word) :
    s.watchWord a w = s.configWritten p o w := by
  unfold State.watchWord
  rw [if_neg (by omega), if_neg (by omega), if_neg (by omega)]
  obtain rfl | rfl : p = 0 ∨ p = 1 := by omega
  · have offset : a - 0x9800 = o := by omega
    rw [if_pos (by omega), offset]
  · have offset : a - 0x9A00 = o := by omega
    rw [if_neg (by omega), if_pos (by omega), offset]

/-- R199: word `i` of the block of 64 bytes numbered `q`. -/
theorem configWritten_block (p : Fin 2) (q : Nat) (i : Fin 16) (w : Word) :
    s.configWritten p (64 * (q + 1) + 4 * i.val) w = (match q + 1 with
      | 1 => s.groupWritten p i w
      | 2 => s.windowWritten p i w
      | 3 => s.bindingWritten p i w
      | 4 => s.lampWritten p i w
      | _ => s) := by
  have index : (64 * (q + 1) + 4 * i.val) % 64 / 4 = i.val := by omega
  have block : (64 * (q + 1) + 4 * i.val) / 64 = q + 1 := by omega
  unfold State.configWritten
  rw [if_neg (by omega), if_neg (by omega), index, indexOf_val, block] <;> rfl

/-- R201: the threshold word of slot `j` of lane `l`. -/
theorem watchWord_threshold (l : Fin 8) (j : Fin 64) (w : Word) :
    s.watchWord (0xA000 + 256 * l.val + 4 * j.val) w = s.setWatch l j (SlotWatch.ofWord w) := by
  have index : (0xA000 + 256 * l.val + 4 * j.val - 0xA000) / 4 = 64 * l.val + j.val := by omega
  have lane : (64 * l.val + j.val) / 64 = l.val := by omega
  have slot : (64 * l.val + j.val) % 64 = j.val := by omega
  unfold State.watchWord
  rw [if_neg (by omega), if_neg (by omega), if_neg (by omega), if_neg (by omega), if_neg (by omega),
    if_pos (by omega)]
  simp only [index, lane, slot, l.isLt, dite_true]
  rfl

end Sys2Proof.Machine

namespace Sys2Proof.Proofs

open Sys2Proof.Machine

/-- Settles O18: the words of the Cue and Report Units by their own offsets, a port's by its block of 512 bytes and the
words of a lane's slots by theirs. -/
theorem watchersOfTheControlArea : Obligations.WatchersOfTheControlArea := by
  intro s w p i l j
  refine ⟨rfl, rfl, rfl, watchWord_config (o := 0) (by omega) (by omega) w, watchWord_config (o := 4) (by omega) (by omega) w,
    ?_, ?_, ?_, ?_, watchWord_threshold l j w⟩
  · exact (watchWord_config (by omega) (by omega) w).trans (configWritten_block p 0 i w)
  · exact (watchWord_config (by omega) (by omega) w).trans (configWritten_block p 1 i w)
  · exact (watchWord_config (by omega) (by omega) w).trans (configWritten_block p 2 i w)
  · exact (watchWord_config (by omega) (by omega) w).trans (configWritten_block p 3 i w)

end Sys2Proof.Proofs
end

-- ==== Proofs of the family 03: the take of a cue record ====
section
/-! CUE_TAKE: when a take begins, what its read completes, and the judgement of its record (R48, R49, R58, R196). -/

namespace Sys2Proof.Machine

variable {s : State}

theorem mayTake_iff (x : CueUnit) : x.mayTake = true ↔
    x.taking = false ∧ x.drained = false ∧ x.postMark ≠ x.takeMark ∧ x.list.length < 64 := by
  have backlog : x.backlog = 0 ↔ x.postMark = x.takeMark := by
    unfold CueUnit.backlog
    constructor
    · intro h
      exact sub_eq_zero.1 (BitVec.eq_of_toNat_eq h)
    · rintro h
      rw [h, BitVec.sub_self]; rfl
  change _ ↔ _ ∧ _ ∧ _ ∧ x.list.length < Config.pendingCues
  simp only [CueUnit.mayTake, Bool.and_eq_true, Bool.not_eq_true', bne_iff_ne, ne_eq, backlog, decide_eq_true_eq]
  tauto

/-- R49 steps 1 and 2: the read, and with it all before it; then the take mark word, and all before that. -/
theorem finishRead_of_read {a b : List RecordItem} {x : RecordItem} (hl : s.mc.records = a ++ x :: b)
    (hx : x.work = .cueRead) (ha : ∀ y ∈ a, y.work ≠ .cueRead) :
    s.finishRead = (s.completeItems (a.length + 1)).completeThrough (· == .cueMark) := by
  unfold State.finishRead
  rw [completeThrough_of_first hl (by simp [hx]) (fun y hy => by simpa using ha y hy)]

/-- R49 step 2: with the read behind it, the take mark word is completed. -/
theorem finishRead_of_noRead (h : ∀ x ∈ s.mc.records, x.work ≠ .cueRead) :
    s.finishRead = s.completeThrough (· == .cueMark) := by
  unfold State.finishRead
  rw [completeThrough_of_none (s := s) (p := (· == .cueRead)) (fun x hx => by simpa using h x hx)]

theorem completeMark_of_first {a b : List RecordItem} {x : RecordItem} (hl : s.mc.records = a ++ x :: b)
    (hx : x.work = .cueMark) (ha : ∀ y ∈ a, y.work ≠ .cueMark) :
    s.completeThrough (· == .cueMark) = s.completeItems (a.length + 1) :=
  completeThrough_of_first hl (by simp [hx]) (fun y hy => by simpa using ha y hy)

/-- R49 step 1: a read at the head of the order is done at its grant. -/
theorem completeHead_of_read {es : List Event} {rest : List RecordItem} (hl : s.mc.records = ⟨.cueRead, false, [], es⟩ :: rest) :
    s.completeHead = ({ s with mc := { s.mc with records := rest, lastOfThree := .record } } : State).readCue := by
  unfold State.completeHead
  rw [hl]
  rfl

/-- R49 step 2: the take mark word at the head of the order is written. -/
theorem completeHead_of_mark {w : MemWrite} {rest : List RecordItem} (hl : s.mc.records = ⟨.cueMark, false, [w], []⟩ :: rest) :
    s.completeHead = { s with
      mem := s.mem.writeWords w.addr w.words, mc := { s.mc with records := rest, lastOfThree := .record } } := by
  unfold State.completeHead
  rw [hl]
  rfl

/-- R49 steps 1 and 2 with nothing before the read. -/
theorem finishRead_of_alone {es : List Event} (hl : s.mc.records = [⟨.cueRead, false, [], es⟩]) : s.finishRead = { s with
    cu := { s.cu with takeMark := s.cu.takeMark + 1, record := some (s.cueRecord s.cu.takeMark) },
    mc := { s.mc with records := [], lastOfThree := .record },
    mem := s.mem.writeWords (s.base + 0x1800) [(s.cu.takeMark + 1).setWidth 32] } := by
  have read := completeHead_of_read hl
  have marked : s.completeHead.mc.records =
      [] ++ ⟨.cueMark, false, [⟨s.base + 0x1800, [(s.cu.takeMark + 1).setWidth 32]⟩], []⟩ :: [] := by
    rw [read]; rfl
  rw [finishRead_of_read (a := []) hl rfl (by simp)]
  change s.completeHead.completeThrough _ = _
  rw [completeMark_of_first marked rfl (by simp)]
  change s.completeHead.completeHead = _
  rw [completeHead_of_mark marked, read]
  rfl

theorem exec_cueTake (dt : Nat) (hp : s.phase ≠ .held) :
    exec (.cueTake dt) s = .next (if s.cu.taking then (s.elapse dt).takeCue else s.elapse dt) :=
  congrArg _ (if_neg hp)

theorem takeCue_of_unread (h : s.finishRead.cu.record = none) : s.takeCue = s.finishRead := by
  unfold State.takeCue
  simp only [h]

/-- R49 step 3. -/
theorem takeCue_of_read {r : RawCue} (h : s.finishRead.cu.record = some r) : s.takeCue =
    (({ s.finishRead with cu := { s.finishRead.cu with record := none } } : State).acceptRecord
      (s.finishRead.cu.takeMark - 1) r).endTake.beginTake := by
  unfold State.takeCue
  simp only [h]

end Sys2Proof.Machine

namespace Sys2Proof.Proofs

open Sys2Proof.Machine

/-- Settles O25: the read of the record and the take mark word in the Record order, the judgement of the record, and the
conditions of the next take. -/
theorem cueTakeReadsOneRecord : Obligations.CueTakeReadsOneRecord := by
  intro s dt hp u ended
  have row := exec_cueTake dt hp
  refine ⟨fun ht => ?_, fun ht es hl => ?_, fun a b w ws es hl ha => ?_,
    fun hn => ⟨fun hm => ?_, fun c x e hc hx hm => ?_⟩, fun ht h => ?_, fun r ht h => ?_, ?_, fun i => ?_⟩
  · rw [row, ht]; rfl
  · have alone : u.finishRead = _ := finishRead_of_alone (s := u) hl
    have mark : u.finishRead.cu.takeMark - 1 = s.cu.takeMark := by
      rw [alone]; exact add_sub_cancel_right s.cu.takeMark 1
    rw [row, if_pos ht]
    refine congrArg _ ((takeCue_of_read (s := u) (r := s.cueRecord s.cu.takeMark) (by rw [alone]; rfl)).trans ?_)
    rw [mark, alone]
    rfl
  · intro read c x e hc hx hn
    rw [finishRead_of_read hl rfl ha, completeMark_of_first hc hx hn]
  · rw [finishRead_of_noRead hn, completeThrough_of_none (s := s) (fun x hx => by simpa using hm x hx)]
  · rw [finishRead_of_noRead hn, completeMark_of_first hc hx hm]
  · rw [row, if_pos ht]; exact congrArg _ (takeCue_of_unread (s := u) h)
  · rw [row, if_pos ht]; exact congrArg _ (takeCue_of_read (s := u) h)
  · exact if_congr (mayTake_iff s.cu) rfl rfl
  · simp [State.cueRecord, Word.byte]

end Sys2Proof.Proofs
end

-- ==== Proofs of the family 03: the place of an accepted cue ====
section
/-! Where an accepted cue goes (R55 to R57). -/

namespace Sys2Proof.Machine

variable {s : State}

theorem reached_iff_lt (f c : Word) : reached f c = true ↔ (c - f).toNat < 2147483648 := decide_eq_true_iff

theorem running_iff_run (x : Domain) : x.running = true ↔ x.run = .locked ∨ x.run = .holdover := by
  unfold Domain.running
  cases x.run <;> decide

/-- R55: the record says NOW, or its due frame is reached at the domain's count. -/
def State.dueAtOnce (s : State) (r : RawCue) (d : Fin 4) : Bool := r.now || reached r.due (s.domain d).count

theorem dueAtOnce_iff (r : RawCue) (d : Fin 4) : s.dueAtOnce r d = true ↔
    r.now = true ∨ ((s.domain d).count - r.due).toNat < 2147483648 := by
  simp only [State.dueAtOnce, Bool.or_eq_true, reached_iff_lt]

/-- R55: what an accepted record stands for in the list. -/
def State.cueOf (s : State) (i : Byte) (r : RawCue) (d : Fin 4) : CueBody :=
  { index := i, now := r.now, report := r.report, domain := d, target := r.target, tag := r.tag,
    due := if s.dueAtOnce r d then (s.domain d).count + 1 else r.due,
    origin := if r.now then (if (s.domain d).running then (s.domain d).count + 1 else (s.domain d).count) else r.due,
    arg0 := r.arg0, arg1 := r.arg1, arg2 := r.arg2, arg3 := r.arg3 }

theorem placeCue_eq (i : Byte) (v : Verb) (r : RawCue) (d : Fin 4) : s.placeCue i v r d =
    if s.dueAtOnce r d = true ∧ (s.domain d).running = false then s.applyCue ⟨v, s.cueOf i r d⟩
    else { s with cu := { s.cu with list := insertCue ⟨v, s.cueOf i r d⟩ s.cu.list } } := rfl

/-- R55: the fields that the statement names are those of the cue. -/
theorem cueOf_unique {i : Byte} {r : RawCue} {d : Fin 4} {b : CueBody}
    (hi : b.index = i) (hr : b.report = r.report) (hd : b.domain = d) (ht : b.target = r.target) (hg : b.tag = r.tag)
    (hn : b.now = r.now) (h0 : b.arg0 = r.arg0) (h1 : b.arg1 = r.arg1) (h2 : b.arg2 = r.arg2) (h3 : b.arg3 = r.arg3)
    (due : b.due = if s.dueAtOnce r d then (s.domain d).count + 1 else r.due)
    (origin : b.origin =
      if r.now then (if (s.domain d).running then (s.domain d).count + 1 else (s.domain d).count) else r.due) :
    b = s.cueOf i r d := by
  obtain ⟨⟩ := b
  dsimp only at hi hr hd ht hg hn h0 h1 h2 h3 due origin
  subst hi hr hd ht hg hn h0 h1 h2 h3 due origin
  rfl

/-- R57: the new cue stands right before the first cue of its domain that it does not reach. -/
theorem insertCue_place (c : Cue) : ∀ l : List Cue, ∃ a b, l = a ++ b ∧ insertCue c l = a ++ c :: b ∧
    (∀ x ∈ a, x.body.domain = c.body.domain → (c.body.due - x.body.due).toNat < 2147483648) ∧
    (∀ x, b.head? = some x → x.body.domain = c.body.domain ∧ ¬ (c.body.due - x.body.due).toNat < 2147483648)
  | [] => ⟨[], [], rfl, rfl, fun _ h => (List.not_mem_nil h).elim, fun _ h => nomatch h⟩
  | x :: xs => by
    unfold insertCue
    split
    · next h =>
      refine ⟨[], x :: xs, rfl, rfl, fun _ h => (List.not_mem_nil h).elim, ?_⟩
      rintro _ ⟨⟩
      exact ⟨h.1, fun lt => by simp [(reached_iff_lt _ _).2 lt] at h⟩
    · next h =>
      obtain ⟨a, b, hl, hi, ha, hb⟩ := insertCue_place c xs
      refine ⟨x :: a, b, congrArg (x :: ·) hl, congrArg (x :: ·) hi, fun y hy hd => ?_, hb⟩
      rcases List.mem_cons.1 hy with rfl | hy
      · exact (reached_iff_lt _ _).1 (Bool.eq_true_of_not_eq_false fun e => h ⟨hd, e⟩)
      · exact ha y hy hd

end Sys2Proof.Machine

namespace Sys2Proof.Proofs

open Sys2Proof.Machine

/-- Settles O27: the cue that an accepted record stands for, by whether it is due on a STOPPED domain, and its place in the
list. -/
theorem acceptedCueIsPlaced : Obligations.AcceptedCueIsPlaced := by
  refine ⟨fun s i v r d => ?_, insertCue_place⟩
  intro c isDue running b hi hr hd ht hg hn h0 h1 h2 h3 due later originRuns originStopped originFrame
  have hdue : s.dueAtOnce r d = true ↔ isDue := dueAtOnce_iff r d
  have hrun : (s.domain d).running = true ↔ running := running_iff_run _
  have hstop : (s.domain d).running = false ↔ ¬ running := by rw [← hrun, Bool.not_eq_true]
  have cue : b = s.cueOf i r d := by
    refine cueOf_unique hi hr hd ht hg hn h0 h1 h2 h3 ?_ ?_
    · split
      · next h => exact due (hdue.1 h)
      · next h => exact later fun e => h (hdue.2 e)
    · split
      · next now =>
        split
        · next h => exact originRuns now (hrun.1 h)
        · next h => exact originStopped now fun e => h (hrun.2 e)
      · next now => exact originFrame (Bool.eq_false_of_not_eq_true now)
  rw [placeCue_eq, ← cue]
  refine ⟨fun hd hr => if_pos ⟨hdue.2 hd, hstop.2 hr⟩, fun h => if_neg fun ⟨hd, hr⟩ => ?_⟩
  exact h.elim (fun nd => nd (hdue.1 hd)) (hstop.1 hr)

end Sys2Proof.Proofs
end

-- ==== Proofs of the family 03: the application of cues ====
section
/-! The application of cues: the rows of the verbs, the outcome, the list and the boundary (R57 to R62, R66, R67). -/

namespace Sys2Proof.Machine

variable {s t : State} {d : Fin 4}

/-! ## The rows of the verbs (R57, R61) -/

/-- The state at the time of a verb's row: two of the rows carry a time (log 2). -/
def State.atRow (s : State) (v : Verb) (dt : Nat) : State :=
  if v = .switchReference ∨ v = .stopDomain then s.elapse dt else s

theorem atRow_phase (s : State) (v : Verb) (dt : Nat) : (s.atRow v dt).phase = s.phase := by
  unfold State.atRow; split <;> rfl

theorem atRow_domain (s : State) (v : Verb) (dt : Nat) (d : Fin 4) : (s.atRow v dt).domain d = s.domain d := by
  unfold State.atRow; split <;> rfl

/-- The cue of a row, and for STOP_DOMAIN the flush of a domain that it has stopped. -/
theorem exec_verbRow (v : Verb) (c : CueBody) (dt : Nat) : exec (verbRow v c dt) s =
    powered (s.atRow v dt) (fun u =>
      if v = .stopDomain ∧ (u.domain c.domain).running = true then (u.applyIfReached ⟨v, c⟩).flushStopped c.domain
      else u.applyIfReached ⟨v, c⟩) := by
  cases v <;> simp [verbRow, State.atRow, exec, execStartStream, execStopStream, execSwapRing, execSwitchReference,
    execSetRate, execStopDomain, execAssignLane, execLaneCommand, execSetOutput, execMotorTarget, execMotorFree, execMark]

theorem applyIfReached_of_early {k : Cue} (h : ¬ s.dueNow k.body) : s.applyIfReached k = s :=
  if_neg (by simpa [reached] using h)

theorem flushStopped_of_running (h : (s.domain d).running = true) : s.flushStopped d = s := if_pos h

/-- R57: before its due frame the row of a cue changes nothing but the time. -/
theorem exec_verbRow_early {c : CueBody} (v : Verb) (dt : Nat) (hp : s.phase ≠ .held) (h : ¬ s.dueNow c) :
    exec (verbRow v c dt) s = .next (s.atRow v dt) := by
  have early : (s.atRow v dt).applyIfReached ⟨v, c⟩ = s.atRow v dt :=
    applyIfReached_of_early (by simpa only [State.dueNow, atRow_domain] using h)
  rw [exec_verbRow, powered, if_neg (by rwa [atRow_phase]), early]
  split
  · next h => rw [flushStopped_of_running h.2]
  · rfl

/-- R57, R61: from its due frame on the row is the application of its cue. -/
theorem exec_verbRow_due {c : CueBody} (v : Verb) (dt : Nat) (hp : s.phase ≠ .held) (h : s.dueNow c) :
    exec (verbRow v c dt) s = .next (if v = .stopDomain ∧ (s.domain c.domain).run ≠ .stopped
      then ((s.atRow v dt).applyCue ⟨v, c⟩).flushStopped c.domain else (s.atRow v dt).applyCue ⟨v, c⟩) := by
  have due : (s.atRow v dt).applyIfReached ⟨v, c⟩ = (s.atRow v dt).applyCue ⟨v, c⟩ :=
    applyIfReached_of_due (by simpa only [State.dueNow, atRow_domain] using h)
  rw [exec_verbRow, powered, if_neg (by rwa [atRow_phase]), due]
  simp only [atRow_domain, running_iff]

/-- The row of a verb without a time and without a flush. -/
theorem exec_verbRow_now {c : CueBody} {v : Verb} (hv : v ≠ .stopDomain) (hw : v ≠ .switchReference) (dt : Nat)
    (hp : s.phase ≠ .held) (h : s.dueNow c) : exec (verbRow v c dt) s = .next (s.applyCue ⟨v, c⟩) := by
  have now : s.atRow v dt = s := if_neg (not_or.2 ⟨hw, hv⟩)
  rw [exec_verbRow_due v dt hp h, if_neg (fun e => hv e.1), now]

/-! ## The owner's answer and the outcome (R59, R62, R66, R68) -/

theorem applyCue_of_mismatch {k : Cue} (h : s.applicationCheck k = false) :
    s.applyCue k = s.afterCue s k (some .domainMismatch) := by
  unfold State.applyCue
  rw [if_neg (by simp [h])]
  rfl

theorem applyCue_of_done {k : Cue} (h : s.applicationCheck k = true) (ho : s.handOver k = .done t) :
    s.applyCue k = s.afterCue t k none := by rw [applyCue_of_check h, ho]; rfl

theorem applyCue_of_refused {k : Cue} {r : Reason} (h : s.applicationCheck k = true) (ho : s.handOver k = .refused t r) :
    s.applyCue k = s.afterCue t k (some r) := by rw [applyCue_of_check h, ho]; rfl

theorem reportOutcome_of_done {c : Cue} (h : c.body.report = true ∨ c.verb = .mark) (late : Word) :
    s.reportOutcome c late none = s.passEvent (Event.plain .cueDone c.body.index.toNat (s.stampOf c.body.domain)
      (outcomeWord c.body.tag (verbCode c.verb)) late) := if_pos h

theorem reportOutcome_of_quiet {c : Cue} (h : c.body.report = false ∧ c.verb ≠ .mark) (late : Word) :
    s.reportOutcome c late none = s := if_neg (by simp [h])

/-! ## The list (R59, R67) -/

/-- R67: the START of stream `i` is one that a STOP cancels. -/
def State.cancels (s : State) (i : Fin 32) : Prop :=
  ((s.stream i).state = .primed ∨ (s.stream i).state = .halted) ∧ ∃ r, (s.stream i).start = some r ∧ r.mark = true

/-- R67: the cue is a START_STREAM of stream `i`. -/
def Cue.starts (c : Cue) (i : Fin 32) : Prop := c.verb = .startStream ∧ c.body.target.toNat = i.val

theorem pendingStart_of_none {i : Fin 32} (h : ∀ x ∈ s.cu.list, ¬ x.starts i) : s.pendingStart i = none := by
  refine List.find?_eq_none.2 fun x hx hs => h x hx ?_
  simpa [Cue.starts, streamOf_eq_some_iff] using hs

/-- R67: with no START to cancel the list stands. -/
theorem cancelStart_of_none {i : Fin 32} (h : s.cancels i → ∀ x ∈ s.cu.list, ¬ x.starts i) (b : Byte) :
    s.cancelStart i b = s := by
  unfold State.cancelStart
  dsimp only
  split
  · next marked => rw [pendingStart_of_none (h ⟨marked.1, (Option.any_eq_true ..).1 marked.2⟩)]
  · rfl

/-- R67: the first START of the stream leaves the list. -/
theorem cancelStart_list {i : Fin 32} {a b : List Cue} {x : Cue} (h : s.cancels i) (hl : s.cu.list = a ++ x :: b)
    (hx : x.starts i) (ha : ∀ y ∈ a, ¬ y.starts i) (k : Byte) : (s.cancelStart i k).cu.list = a ++ b := by
  obtain ⟨hs, r, hr, hm⟩ := h
  obtain ⟨_, c⟩ := x
  obtain ⟨rfl, hc⟩ := hx
  rw [cancelStart_of_marked k hs hr hm hl hc ha, State.passEvent_cu]

theorem afterCue_list (t : State) (c : Cue) (r : Option Reason) : (s.afterCue t c r).cu.list = t.cu.list.erase c := by
  unfold State.afterCue
  rw [beginTake_list, (keeps_reportOutcome (.refl _) _ _ _).list]

theorem applyCue_list_of_mismatch {c : Cue} (h : s.applicationCheck c = false) :
    (s.applyCue c).cu.list = s.cu.list.erase c := by rw [applyCue_of_mismatch h, afterCue_list]

theorem applyCue_list_of_check {c : Cue} (h : s.applicationCheck c = true) :
    (s.applyCue c).cu.list = (s.handOver c).state.cu.list.erase c := by
  rw [applyCue_of_check h]
  cases s.handOver c <;> exact afterCue_list _ _ _

theorem handOver_stop {c : Cue} (hv : c.verb = .stopStream) :
    s.handOver c = onTarget s (streamOf c.body.target) (s.applyStopCue c.body) := by
  unfold State.handOver; simp only [hv]

theorem handOver_stop_list {c : Cue} {i : Fin 32} (hv : c.verb = .stopStream) (hi : c.body.target.toNat = i.val) :
    (s.handOver c).state.cu.list = (s.cancelStart i c.body.index).cu.list := by
  rw [handOver_stop hv, streamOf_eq hi]
  exact (keeps_applyStop (.refl _) i _ _).list

/-- R59: a STOP that cancels no START takes itself alone out of the list. -/
theorem applyCue_stop_list {c : Cue} (hv : c.verb = .stopStream)
    (h : ∀ i : Fin 32, s.applicationCheck c = true → c.body.target.toNat = i.val → s.cancels i →
      ∀ x ∈ s.cu.list, ¬ x.starts i) : (s.applyCue c).cu.list = s.cu.list.erase c := by
  cases hk : s.applicationCheck c with
  | false => exact applyCue_list_of_mismatch hk
  | true =>
    rw [applyCue_list_of_check hk]
    congr 1
    cases ht : streamOf c.body.target with
    | none => rw [handOver_stop hv, ht]; rfl
    | some i =>
      have hi := streamOf_eq_some_iff.1 ht
      rw [handOver_stop_list hv hi, cancelStart_of_none (h i hk hi)]

/-- R59, R67: a STOP takes the START that it cancels out too. -/
theorem applyCue_cancel_list {c x : Cue} {i : Fin 32} {a b : List Cue} (hv : c.verb = .stopStream)
    (hk : s.applicationCheck c = true) (hi : c.body.target.toNat = i.val) (h : s.cancels i)
    (hl : s.cu.list = a ++ x :: b) (hx : x.starts i) (ha : ∀ y ∈ a, ¬ y.starts i) :
    (s.applyCue c).cu.list = (a ++ b).erase c := by
  rw [applyCue_list_of_check hk, handOver_stop_list hv hi, cancelStart_list h hl hx ha]

/-- R59: a cue that is applied has left the list. -/
theorem applyCue_length {c : Cue} (h : c ∈ s.cu.list) : (s.applyCue c).cu.list.length < s.cu.list.length := by
  have left : ∃ l : List Cue, l.Sublist s.cu.list ∧ (s.applyCue c).cu.list = l.erase c := by
    cases hk : s.applicationCheck c with
    | false => exact ⟨_, .refl _, applyCue_list_of_mismatch hk⟩
    | true => exact ⟨_, (drops_handOver (.refl s) c).cues, applyCue_list_of_check hk⟩
  obtain ⟨l, hl, he⟩ := left
  have shorter := (hl.erase c).length_le
  rw [List.length_erase_of_mem h] at shorter
  rw [he]
  have := List.length_pos_of_mem h
  omega

/-! ## No application starts a domain (R61, R81) -/

/-- The domains that are STOPPED stay so. -/
def StaysStopped (s t : State) : Prop := ∀ d, (s.domain d).run = .stopped → (t.domain d).run = .stopped

theorem StaysStopped.of_domains (h : ∀ d, t.domain d = s.domain d) : StaysStopped s t := fun d hs => by rw [h d, hs]

theorem StaysStopped.trans {u : State} (a : StaysStopped s t) (b : StaysStopped t u) : StaysStopped s u :=
  fun d h => b d (a d h)

theorem stays_mapDomain (s : State) (d : Fin 4) {f : Domain → Domain}
    (hf : (s.domain d).run = .stopped → (f (s.domain d)).run = .stopped) : StaysStopped s (s.mapDomain d f) := by
  intro e h
  unfold State.mapDomain
  by_cases he : d = e
  · subst he; rw [State.domain_setDomain_self]; exact hf h
  · rw [State.domain_setDomain_of_ne s _ he]; exact h

theorem tendOsc_domain (s : State) (o : Osc) (d : Fin 4) : (s.tendOsc o).domain d = s.domain d := by
  unfold State.tendOsc
  split <;> simp

theorem tendOscs_domain (s : State) (d : Fin 4) : s.tendOscs.domain d = s.domain d := by
  unfold State.tendOscs
  rw [tendOsc_domain, tendOsc_domain]

theorem failCandidate_stays (s : State) (d : Fin 4) (cause : ClockCause) (m : Nat) :
    StaysStopped s (s.failCandidate d cause m) := by
  unfold State.failCandidate
  split
  · exact fun _ => id
  · refine (stays_mapDomain s d (f := fun x => { x with candidate := none }) id).trans (.of_domains fun e => ?_)
    rw [State.reportDomain, State.passEvent_domain, State.request_domain, tendOscs_domain]

theorem createCandidate_stays (s : State) (d : Fin 4) (c : Candidate) : StaysStopped s (s.createCandidate d c) := by
  have placed (c' : Candidate) : StaysStopped s (s.mapDomain d (fun x => { x with candidate := some c' })) :=
    stays_mapDomain s d id
  have asked {u : State} (h : StaysStopped s u) : StaysStopped s (u.request (.domain d)) :=
    h.trans (.of_domains (State.request_domain u _))
  unfold State.createCandidate
  dsimp only
  split
  · exact asked ((placed _).trans (.of_domains (tendOscs_domain _)))
  · split
    · exact asked (placed _)
    · split
      · exact asked (placed _)
      · exact (asked (placed _)).trans (failCandidate_stays _ _ _ _)

/-- The owners outside the Clock Block leave the domains alone. -/
theorem applyStart_domain (s : State) (i : Fin 32) (d : Fin 4) : ((s.applyStart i).state).domain d = s.domain d := by
  unfold State.applyStart
  dsimp only
  repeat' split
  all_goals simp [Outcome.state]

theorem cancelStart_domain (s : State) (i : Fin 32) (b : Byte) (d : Fin 4) : (s.cancelStart i b).domain d = s.domain d := by
  unfold State.cancelStart
  dsimp only
  split
  · split
    · rfl
    · rw [State.passEvent_domain]; rfl
  · rfl

theorem engine_applyStop (s : State) (i : Fin 32) (m : StopMode) (n : Word) : EngineOnly s (s.applyStop i m n).state := by
  unfold State.applyStop
  dsimp only
  repeat' split
  all_goals simp [Outcome.state, EngineOnly.refl]

theorem engine_domain (h : EngineOnly s t) (d : Fin 4) : t.domain d = s.domain d := congrArg (·.domains[d]) h.cb

theorem applySwap_domain (s : State) (i : Fin 32) (d : Fin 4) : ((s.applySwap i).state).domain d = s.domain d := by
  have entered {u v : State} {j : Fin 32} {b f c : Nat} (h : u.placePending j b f c = .ok v) : v.domain d = u.domain d := by
    unfold State.placePending at h
    split at h
    · cases h
    · split at h
      · cases h
      · dsimp only at h
        split at h
        · cases h
        · split at h <;> cases h
          rfl
  unfold State.applySwap
  dsimp only
  repeat' split
  all_goals try exact State.recordRead_domain s d
  next h =>
    show ((State.setStream _ _ _).request _).domain d = _
    rw [State.request_domain, State.setStream_domain, entered h, State.recordRead_domain]

theorem putOutput_domain (s : State) (o : Fin 4) (x : WordOutput) (d : Fin 4) : (s.putOutput o x).domain d = s.domain d :=
  (beside_putOutput (l := 0) (.refl s) o x).domains d

theorem applySetOutput_domain (s : State) (o : Fin 4) (d : Fin 4) :
    ((s.applySetOutput o).state).domain d = s.domain d := by
  have staged {u v : State} (h : u.applyOutputStage o = some v) : Beside 0 u v := by
    unfold State.applyOutputStage at h
    dsimp only at h
    have due : Beside 0 u (u.overdueEdges o) := beside_edgesBefore (.refl u) o _
    repeat' split at h
    all_goals cases h
    · exact beside_putOutput due o _
    · exact beside_request (beside_putOutput due o _) _
    · exact beside_putOutput due o _
  unfold State.applySetOutput
  dsimp only
  split
  · exact State.recordRead_domain s d
  · next h => exact ((staged h).domains d).trans (State.recordRead_domain s d)

theorem motorCue_domain (s : State) (c : CueBody) (act : Port → Fin 16 → Port) (d : Fin 4) :
    ((s.motorCue c act).state).domain d = s.domain d := by
  unfold State.motorCue State.applyMotor
  dsimp only
  repeat' split
  all_goals simp [Outcome.state, State.putPort]

theorem takeLane_domain (s : State) (d : Fin 4) (l : Fin 8) (e : Fin 4) : (s.takeLane d l).domain e = s.domain e :=
  (beside_takeLane (l := l + 1) (k := l) (by simp) (.refl s) d).domains e

theorem applyAssign_domain (s : State) (l : Fin 8) (t : Option (Fin 4)) (d : Fin 4) :
    ((s.applyAssign l t).state).domain d = s.domain d := by
  unfold State.applyAssign
  dsimp only
  repeat' split
  all_goals simp [Outcome.state, State.clearWindow, takeLane_domain]

theorem applyCommand_domain (s : State) (l : Fin 8) (w : Word) (d : Fin 4) :
    ((s.applyCommand l w).state).domain d = s.domain d := by
  unfold State.applyCommand
  dsimp only
  repeat' split
  all_goals rfl

theorem recordRead_stays (s : State) : StaysStopped s s.recordRead := .of_domains (State.recordRead_domain s)

theorem applySwitch_stays (s : State) (d : Fin 4) : StaysStopped s (s.applySwitch d).state := by
  unfold State.applySwitch
  dsimp only
  repeat' split
  all_goals try exact recordRead_stays s
  exact (recordRead_stays s).trans (createCandidate_stays _ d _)

theorem applyRate_stays (s : State) (d : Fin 4) : StaysStopped s (s.applyRate d).state := by
  have changed (u : State) (m : Factor) (k : Nat) (r : Option RateChange) : StaysStopped u
      (u.setDomain d { u.domain d with mult := m, tickExp := k, rateChange := r }) :=
    stays_mapDomain u d (f := fun x => { x with mult := m, tickExp := k, rateChange := r }) id
  unfold State.applyRate
  dsimp only
  repeat' split
  all_goals try exact recordRead_stays s
  · exact (recordRead_stays s).trans (changed _ _ _ _)
  · exact (recordRead_stays s).trans ((changed _ _ _ _).trans (.of_domains (State.request_domain _ _)))

theorem retrainLane_domain (s : State) (l : Fin 8) (d : Fin 4) : (s.retrainLane l).domain d = s.domain d := by
  unfold State.retrainLane
  dsimp only
  split <;> simp [State.clearWindow]

theorem foldl_domain {α : Type} {f : State → α → State} (d : Fin 4) (h : ∀ s a, (f s a).domain d = s.domain d) :
    ∀ (l : List α) (s : State), (l.foldl f s).domain d = s.domain d
  | [], _ => rfl
  | a :: l, s => (foldl_domain d h l (f s a)).trans (h s a)

theorem retrainLanes_domain (s : State) (d e : Fin 4) : (s.retrainLanes d).domain e = s.domain e :=
  foldl_domain e (fun u l => retrainLane_domain u l e) _ s

theorem stopOutputs_domain (s : State) (d e : Fin 4) : (s.stopOutputs d).domain e = s.domain e := by
  refine foldl_domain e (fun u o => ?_) _ s
  have due : Beside 0 u (u.overdueEdges o) := beside_edgesBefore (.refl u) o _
  dsimp only
  split
  · exact (putOutput_domain _ _ _ e).trans (due.domains e)
  · exact due.domains e

theorem applyStopDomain_stays (s : State) (d : Fin 4) : StaysStopped s (s.applyStopDomain d).state := by
  unfold State.applyStopDomain
  dsimp only
  split
  · exact fun _ => id
  · have failed := failCandidate_stays s d .cancelled 0
    split
    · generalize s.failCandidate d .cancelled 0 = t at failed
      have stopped : StaysStopped t (t.mapDomain d (fun x => { x with
          run := .stopped, afterSwitch := none, edgeOwed := false })) := stays_mapDomain t d fun _ => rfl
      refine failed.trans (stopped.trans (.of_domains fun e => ?_))
      dsimp only [Outcome.state]
      rw [State.request_domain, stopOutputs_domain, retrainLanes_domain, tendOscs_domain]
    · exact failed

theorem stays_onTarget {n : Nat} (o : Option (Fin n)) {f : Fin n → Outcome} (hf : ∀ x, StaysStopped s (f x).state) :
    StaysStopped s (onTarget s o f).state := by
  unfold onTarget
  split
  · exact fun _ => id
  · exact hf _

/-- R63: no owner's answer starts a domain. -/
theorem handOver_stays (s : State) (c : Cue) : StaysStopped s (s.handOver c).state := by
  obtain ⟨v, b⟩ := c
  cases v with
  | startStream => exact stays_onTarget _ fun i => .of_domains (applyStart_domain s i)
  | stopStream =>
    refine stays_onTarget _ fun i => .of_domains fun d => ?_
    exact (engine_domain (engine_applyStop _ i _ _) d).trans (cancelStart_domain s i _ d)
  | swapRing => exact stays_onTarget _ fun i => .of_domains (applySwap_domain s i)
  | switchReference => exact stays_onTarget _ (applySwitch_stays s)
  | setRate => exact stays_onTarget _ (applyRate_stays s)
  | stopDomain => exact stays_onTarget _ (applyStopDomain_stays s)
  | assignLane =>
    refine stays_onTarget _ fun l => ?_
    split
    · exact fun _ => id
    · exact .of_domains (applyAssign_domain s l _)
  | laneCommand => exact stays_onTarget _ fun l => .of_domains (applyCommand_domain s l _)
  | setOutput => exact stays_onTarget _ fun o => .of_domains (applySetOutput_domain s o)
  | motorTarget =>
    show StaysStopped s (s.motorCue b (fun x f => x.motorTo f (b.arg2.extractLsb' 0 10))).state
    exact .of_domains (motorCue_domain s b _)
  | motorFree =>
    show StaysStopped s (s.motorCue b Port.motorFree).state
    exact .of_domains (motorCue_domain s b _)
  | mark => exact fun _ => id

theorem reportOutcome_domain (s : State) (c : Cue) (w : Word) (r : Option Reason) (d : Fin 4) :
    (s.reportOutcome c w r).domain d = s.domain d := by
  unfold State.reportOutcome
  repeat' split
  all_goals simp

theorem afterCue_domain (s t : State) (c : Cue) (r : Option Reason) (d : Fin 4) :
    (s.afterCue t c r).domain d = t.domain d := by
  have taken (u : State) : u.beginTake.domain d = u.domain d := by
    unfold State.beginTake; split <;> rfl
  rw [State.afterCue, taken, reportOutcome_domain]
  rfl

theorem applyCue_stays (s : State) (c : Cue) : StaysStopped s (s.applyCue c) := by
  cases hk : s.applicationCheck c with
  | false => rw [applyCue_of_mismatch hk]; exact .of_domains (afterCue_domain s s c _)
  | true =>
    rw [applyCue_of_check hk]
    refine (handOver_stays s c).trans (.of_domains fun d => ?_)
    cases s.handOver c <;> exact afterCue_domain _ _ _ _ _

/-! ## The cues of a boundary, one after the other (R59 to R61) -/

theorem nextCue_eq_some_iff {c : Cue} : s.nextCue d = some c ↔ s.isNextCue d c := by
  unfold State.nextCue State.isNextCue
  rw [List.find?_eq_some_iff_append]
  simp only [Bool.and_eq_true, beq_iff_eq, reached, decide_eq_true_eq, Bool.not_eq_true', ← Bool.not_eq_true]
  constructor
  · rintro ⟨hc, a, b, hl, ha⟩; exact ⟨a, b, hl, hc, ha⟩
  · rintro ⟨a, b, hl, hc, ha⟩; exact ⟨hc, a, b, hl, ha⟩

theorem isNextCue_mem {c : Cue} (h : s.isNextCue d c) : c ∈ s.cu.list := by
  obtain ⟨a, b, hl, -, -⟩ := h
  rw [hl]; simp

/-- Each application but the first `room` found the domain STOPPED. -/
def stoppedBeyond (d : Fin 4) (room : Nat) (cs : List Cue) (s : State) : Prop :=
  ∀ first c rest u, cs = first ++ c :: rest → room ≤ first.length → appliedInTurn d first s u →
    (u.domain d).run = .stopped

/-- No cue is left that is reached, or `room` have been applied and the domain runs. -/
def appliedOut (d : Fin 4) (room : Nat) (cs : List Cue) (t : State) : Prop :=
  (∀ c, ¬ t.isNextCue d c) ∨ (room ≤ cs.length ∧ (t.domain d).run ≠ .stopped)

/-- R59 to R61: the fuel is enough to apply every cue of the list, since each application takes one out. -/
theorem applyCues_inTurn (d : Fin 4) : ∀ (n room : Nat) (s : State), s.cu.list.length ≤ n →
    ∃ cs, appliedInTurn d cs s (s.applyCues d n room) ∧ appliedOut d room cs (s.applyCues d n room) ∧
      stoppedBeyond d room cs s
  | 0, room, s, hn => by
    refine ⟨[], rfl, .inl fun c hc => ?_, fun first c rest u hcs => by simp at hcs⟩
    have := List.length_pos_of_mem (show c ∈ s.cu.list from isNextCue_mem hc)
    omega
  | n + 1, room, s, hn => by
    unfold State.applyCues
    split
    · next h => exact ⟨[], rfl, .inr ⟨h.1.le, (running_iff _).1 h.2⟩, fun first c rest u hcs => by simp at hcs⟩
    · next h =>
      split
      · next none =>
        refine ⟨[], rfl, .inl fun c hc => ?_, fun first c rest u hcs => by simp at hcs⟩
        rw [nextCue_eq_some_iff.2 hc] at none
        cases none
      · next c some =>
        have next := nextCue_eq_some_iff.1 some
        have shorter := applyCue_length (isNextCue_mem next)
        obtain ⟨cs, applied, out, beyond⟩ := applyCues_inTurn d n (room - 1) (s.applyCue c) (by omega)
        refine ⟨c :: cs, ⟨next, applied⟩, out.imp_right fun ⟨hl, hr⟩ => ⟨by rw [List.length_cons]; omega, hr⟩, ?_⟩
        intro first c' rest u hcs hroom turn
        cases first with
        | nil =>
          obtain rfl : u = s := turn
          by_contra hr
          exact h ⟨Nat.le_zero.1 hroom, (running_iff _).2 hr⟩
        | cons x first =>
          obtain ⟨rfl, rfl⟩ := List.cons.inj hcs
          exact beyond first c' rest u rfl (by rw [List.length_cons] at hroom; omega) turn.2

theorem applyCues_stays (d : Fin 4) : ∀ (n room : Nat) (s : State), StaysStopped s (s.applyCues d n room)
  | 0, _, _ => fun _ => id
  | n + 1, room, s => by
    unfold State.applyCues
    split
    · exact fun _ => id
    · split
      · exact fun _ => id
      · exact (applyCue_stays s _).trans (applyCues_stays d n _ _)

/-- R61: the flush of a STOPPED domain applies every cue that is reached. -/
theorem flushStopped_inTurn (h : (s.domain d).run = .stopped) :
    ∃ cs, appliedInTurn d cs s (s.flushStopped d) ∧ ∀ c, ¬ (s.flushStopped d).isNextCue d c := by
  have flush : s.flushStopped d = s.applyCues d s.cu.list.length 0 :=
    if_neg (by rw [running_iff]; exact fun hr => hr h)
  obtain ⟨cs, applied, out, -⟩ := applyCues_inTurn d s.cu.list.length 0 s (Nat.le_refl _)
  rw [flush]
  exact ⟨cs, applied, out.resolve_right fun hr => hr.2 (applyCues_stays d _ 0 s d h)⟩

/-! ## The check repeated at application (R62) -/

theorem forall_target_iff {n : Nat} {o : Option (Fin n)} {k : Nat} (ho : ∀ i, o = some i ↔ k = i.val) (p : Fin n → Prop) :
    (∀ i : Fin n, k = i.val → p i) ↔ ∀ i, o = some i → p i := by simp only [ho]

theorem applicationCheck_stream {v : Verb} {b : CueBody} (hv : v = .stopStream ∨ v = .swapRing) :
    s.applicationCheck ⟨v, b⟩ = true ↔ ∀ i : Fin 32, b.target.toNat = i.val → (s.stream i).state ≠ .idle →
      ∃ g, (s.stream i).geom = some g ∧ g.domain = b.domain := by
  rw [forall_target_iff fun _ => streamOf_eq_some_iff]
  rcases hv with rfl | rfl <;> unfold State.applicationCheck <;> dsimp only <;> cases streamOf b.target <;>
    simp [Option.any_eq_true, Classical.or_iff_not_imp_left]

theorem applicationCheck_laneCommand {b : CueBody} : s.applicationCheck ⟨.laneCommand, b⟩ = true ↔
    ∀ l : Fin 8, b.target.toNat = l.val → (s.lane l).domain = some b.domain := by
  rw [forall_target_iff fun _ => laneOf_eq_some_iff]
  unfold State.applicationCheck
  dsimp only
  cases laneOf b.target <;> simp

theorem applicationCheck_assignLane {b : CueBody} : s.applicationCheck ⟨.assignLane, b⟩ = true ↔
    ∀ l : Fin 8, b.target.toNat = l.val → s.mayAssign l b.domain b.arg0 := by
  rw [forall_target_iff fun _ => laneOf_eq_some_iff]
  unfold State.applicationCheck
  dsimp only
  cases laneOf b.target <;> simp [assignMatches_iff]

end Sys2Proof.Machine

namespace Sys2Proof.Proofs

open Sys2Proof.Machine

/-- Settles O28: the rows of the verbs, the application by the owner's answer, the outcome, the cues of a boundary by
induction on the fuel, what leaves the list, and the check by verb. -/
theorem cuesAreAppliedWhole : Obligations.CuesAreAppliedWhole := by
  refine ⟨fun v c dt s hp hd => ?_, fun v c dt s hp hd => exec_verbRow_due v dt hp hd,
    ⟨fun s c hp hd => ?_, fun s c h => applyCue_of_mismatch h, fun s t c h ho => applyCue_of_done h ho,
      fun s t c r h ho => applyCue_of_refused h ho⟩,
    fun s c late => ⟨fun h => reportOutcome_of_done h late, fun h => reportOutcome_of_quiet h late, fun r => rfl⟩,
    fun s d => ⟨applyCues_inTurn d _ 8 s (Nat.le_refl _), fun h => flushStopped_of_running ((running_iff _).2 h),
      flushStopped_inTurn, fun c => ⟨applyCue_list s c, fun hv h => ?_, fun hv i a b x h hl hx ha => ?_⟩⟩,
    fun s c => ?_⟩
  · rw [exec_verbRow_early v dt hp hd]
    by_cases timed : v = .switchReference ∨ v = .stopDomain
    · exact ⟨dt, Nat.le_refl _, congrArg _ (if_pos timed)⟩
    · exact ⟨0, Nat.zero_le _, congrArg _ (if_neg timed)⟩
  · exact (exec_verbRow_now (v := .mark) (by simp) (by simp) 0 hp hd).trans (congrArg _ (applyCue_of_done rfl rfl))
  · exact applyCue_stop_list hv fun i hk hi hc => h i ⟨hk, hi, hc⟩
  · obtain ⟨hk, hi, hc⟩ := h
    exact applyCue_cancel_list hv hk hi hc hl hx ha
  · obtain ⟨v, b⟩ := c
    cases v with
    | stopStream => exact applicationCheck_stream (.inl rfl)
    | swapRing => exact applicationCheck_stream (.inr rfl)
    | laneCommand => exact applicationCheck_laneCommand
    | assignLane => exact applicationCheck_assignLane
    | _ => exact iff_of_true rfl trivial

end Sys2Proof.Proofs
end

-- ==== Proofs of the family 03: the cues of a lane ====

section
/-! The cues of a lane: LANE_COMMAND and ASSIGN_LANE (R62, R104, R116). -/

namespace Sys2Proof.Machine

variable {s t : State} {l : Fin 8}

/-! ## The queue of the lane (R116) -/

theorem applyCommand_of_room {w : Word} (h : (s.lane l).state = .training ∨ (s.lane l).state = .up)
    (hq : (s.lane l).queue.length < 8) :
    s.applyCommand l w = .done (s.setLane l { s.lane l with queue := (s.lane l).queue ++ [w] }) := by
  unfold State.applyCommand
  rcases h with h | h <;> simp only [h] <;> exact if_pos hq

theorem applyCommand_of_full {w : Word} (h : (s.lane l).state = .training ∨ (s.lane l).state = .up)
    (hq : 8 ≤ (s.lane l).queue.length) : s.applyCommand l w = .refused s .controlFull := by
  unfold State.applyCommand
  rcases h with h | h <;> simp only [h] <;> exact if_neg (Nat.not_lt.2 hq)

theorem applyCommand_of_fault {w : Word} (h : (s.lane l).state = .fault) :
    s.applyCommand l w = .refused s .wrongState := by unfold State.applyCommand; simp only [h]

theorem handOver_laneCommand {c : CueBody} (h : c.target.toNat = l.val) :
    s.handOver ⟨.laneCommand, c⟩ = s.applyCommand l c.arg0 := by
  unfold State.handOver
  dsimp only
  rw [laneOf_eq_some_iff.2 h, onTarget]

/-! ## The lane's domain (R104) -/

/-- A stream whose geometry names the lane is active, in either direction. -/
def State.laneBusy (s : State) (l : Fin 8) : Prop :=
  ∃ i, (s.stream i).state.active = true ∧ ∃ g, (s.stream i).geom = some g ∧ g.lane = l

theorem laneBusy_iff :
    ((s.streamsOn l .play) ++ (s.streamsOn l .capture)).any (fun i => (s.stream i).state.active) = true ↔ s.laneBusy l := by
  have on (i : Fin 32) : (i ∈ s.streamsOn l .play ∨ i ∈ s.streamsOn l .capture) ↔
      ∃ g, (s.stream i).geom = some g ∧ g.lane = l := by
    rw [mem_streamsOn_iff, mem_streamsOn_iff]
    constructor
    · rintro (⟨g, hg, hl, -⟩ | ⟨g, hg, hl, -⟩) <;> exact ⟨g, hg, hl⟩
    · rintro ⟨g, hg, hl⟩
      match hd : g.dir with
      | .play => exact .inl ⟨g, hg, hl, hd⟩
      | .capture => exact .inr ⟨g, hg, hl, hd⟩
  simp only [List.any_eq_true, List.mem_append, on, State.laneBusy, and_comm]

theorem applyAssign_of_busy (h : s.laneBusy l) (target : Option (Fin 4)) :
    s.applyAssign l target = .refused s .wrongState := if_pos (laneBusy_iff.2 h)

/-- What ASSIGN_LANE does to a lane that is not busy and owes no boundary. -/
def State.assigned (s : State) (l : Fin 8) (x : Lane) : State := ((s.setLane l x).clearWindow l).request (.lane l)

/-- Without a boundary in hand the lane is taken as it stands. -/
theorem applyAssign_of_free (h : ¬ s.laneBusy l) (hb : l ∉ s.li.atBoundary) : ∀ target : Option (Fin 4),
    s.applyAssign l target = .done (match target with
      | some d => s.assigned l ((s.lane l).assigned d)
      | none => if (s.lane l).state = .idle then s else s.assigned l (s.lane l).unassigned) := by
  have untouched (d : Fin 4) : s.takeLane d l = s := takeLane_of_taken hb d
  intro target
  unfold State.applyAssign
  rw [if_neg (fun e => h (laneBusy_iff.1 e))]
  cases (s.lane l).domain <;> simp only [untouched]
  all_goals
    cases target with
    | some d => rfl
    | none => dsimp only; split <;> rfl

theorem handOver_assignLane {c : CueBody} {target : Option (Fin 4)} (h : c.target.toNat = l.val)
    (ht : assignTarget c.arg0 = some target) : s.handOver ⟨.assignLane, c⟩ = s.applyAssign l target := by
  unfold State.handOver
  dsimp only
  rw [laneOf_eq_some_iff.2 h, onTarget, ht]

/-! ## The rows -/

section Rows

variable {c : CueBody} (hp : s.phase ≠ .held) (hd : s.dueNow c) (ht : c.target.toNat = l.val)
include hp hd ht

omit hp hd in
theorem laneCommand_check (h : (s.lane l).domain = some c.domain) : s.applicationCheck ⟨.laneCommand, c⟩ = true :=
  applicationCheck_laneCommand.2 fun k hk => by rwa [← Fin.ext (ht.symm.trans hk)]

theorem exec_laneCommand_done (h : (s.lane l).domain = some c.domain) (ho : s.applyCommand l c.arg0 = .done t) :
    exec (.laneCommand c) s = .next (s.afterCue t ⟨.laneCommand, c⟩ none) :=
  (exec_verbRow_now (v := .laneCommand) (by simp) (by simp) 0 hp hd).trans
    (congrArg _ (applyCue_of_done (laneCommand_check ht h) ((handOver_laneCommand ht).trans ho)))

theorem exec_laneCommand_refused {r : Reason} (h : (s.lane l).domain = some c.domain)
    (ho : s.applyCommand l c.arg0 = .refused s r) :
    exec (.laneCommand c) s = .next (s.afterCue s ⟨.laneCommand, c⟩ (some r)) :=
  (exec_verbRow_now (v := .laneCommand) (by simp) (by simp) 0 hp hd).trans
    (congrArg _ (applyCue_of_refused (laneCommand_check ht h) ((handOver_laneCommand ht).trans ho)))

theorem exec_laneCommand_mismatch (h : (s.lane l).domain ≠ some c.domain) :
    exec (.laneCommand c) s = .next (s.afterCue s ⟨.laneCommand, c⟩ (some .domainMismatch)) :=
  (exec_verbRow_now (v := .laneCommand) (by simp) (by simp) 0 hp hd).trans
    (congrArg _ (applyCue_of_mismatch (Bool.eq_false_iff.2 fun e => h (applicationCheck_laneCommand.1 e l ht))))

variable (hc : s.applicationCheck ⟨.assignLane, c⟩ = true)
include hc

theorem exec_assignLane_done {target : Option (Fin 4)} (h : assignTarget c.arg0 = some target)
    (ho : s.applyAssign l target = .done t) :
    exec (.assignLane c) s = .next (s.afterCue t ⟨.assignLane, c⟩ none) :=
  (exec_verbRow_now (v := .assignLane) (by simp) (by simp) 0 hp hd).trans
    (congrArg _ (applyCue_of_done hc ((handOver_assignLane ht h).trans ho)))

theorem exec_assignLane_busy (busy : s.laneBusy l) (h : (assignTarget c.arg0).isSome = true) :
    exec (.assignLane c) s = .next (s.afterCue s ⟨.assignLane, c⟩ (some .wrongState)) := by
  obtain ⟨target, ht'⟩ := Option.isSome_iff_exists.1 h
  exact (exec_verbRow_now (v := .assignLane) (by simp) (by simp) 0 hp hd).trans
    (congrArg _ (applyCue_of_refused hc ((handOver_assignLane ht ht').trans (applyAssign_of_busy busy target))))

end Rows

end Sys2Proof.Machine

namespace Sys2Proof.Proofs

open Sys2Proof.Machine

/-- Settles O29: LANE_COMMAND by the lane's domain, state and queue, ASSIGN_LANE by the busy lane and the argument. -/
theorem laneCuesFollowTheirRules : Obligations.LaneCuesFollowTheirRules := by
  refine ⟨fun s c l hp hd ht => ⟨?_, ?_, ?_, ?_⟩, fun s c l hp hd ht hb hc => ⟨?_, ?_, ?_, ?_⟩⟩
  · exact fun h hs hq => exec_laneCommand_done hp hd ht h (applyCommand_of_room hs hq)
  · exact fun h hs hq => exec_laneCommand_refused hp hd ht h (applyCommand_of_full hs hq)
  · exact fun h hs => exec_laneCommand_refused hp hd ht h (applyCommand_of_fault hs)
  · exact fun h => exec_laneCommand_mismatch hp hd ht h
  all_goals have untaken : l ∉ s.li.atBoundary := hb ▸ List.not_mem_nil
  · exact fun free d hw => exec_assignLane_done hp hd ht hc (assignTarget_eq_some_some_iff.2 hw)
      (applyAssign_of_free free untaken _)
  · exact fun free hw hx => exec_assignLane_done hp hd ht hc (assignTarget_eq_some_none_iff.2 hw)
      ((applyAssign_of_free free untaken _).trans (congrArg _ (if_neg hx)))
  · exact fun free hw hx => exec_assignLane_done hp hd ht hc (assignTarget_eq_some_none_iff.2 hw)
      ((applyAssign_of_free free untaken _).trans (congrArg _ (if_pos hx)))
  · exact fun busy hw => exec_assignLane_busy hp hd ht hc busy (assignTarget_isSome.2 hw)

end Sys2Proof.Proofs
end

-- ==== Proofs of the family 03: the stop of a domain ====
section
/-! STOP_DOMAIN and the parts it is made of: the oscillators' need, the end of a candidate, the lanes sent back to
TRAINING, the outputs that end their cycles (R75, R79, R86, R99, R119). -/

namespace Sys2Proof.Machine

variable {s t u : State} {d : Fin 4}

/-! ## The oscillators (R75) -/

theorem oscNeeded_iff (s : State) (o : Osc) : s.oscNeeded o = true ↔ s.needs o := by
  have named (r : Source) : r.osc = some o ↔ r = (match o with | .int44 => .int44 | .int48 => .int48) := by
    cases o <;> cases r <;> decide
  simp only [State.oscNeeded, State.needs, indices, List.any_eq_true, List.mem_finRange, true_and, Bool.or_eq_true,
    Bool.and_eq_true, beq_iff_eq, Option.any_eq_true, named]
  refine exists_congr fun e => or_congr (and_congr_right fun _ => ?_) Iff.rfl
  exact ⟨fun ⟨r, hr, h⟩ => hr.trans (congrArg some h), fun h => ⟨_, h, rfl⟩⟩

theorem needs_congr (o : Osc) (h : ∀ e, t.domain e = s.domain e) : t.needs o ↔ s.needs o := by
  simp only [State.needs, h]

theorem oscFollows_congr {s' t' : State} {o : Osc} (h : oscFollows s t o) (hs : s'.osc o = s.osc o)
    (hd : ∀ e, t'.domain e = t.domain e) (ht : t'.osc o = t.osc o) (hm : t'.mclk = t.mclk) : oscFollows s' t' o := by
  unfold oscFollows
  rw [needs_congr o hd, hs, ht, hm]
  exact h

/-- What tending changes: the two oscillators. -/
def OscsOnly (s t : State) : Prop := t = { s with cb := { s.cb with osc44 := t.cb.osc44, osc48 := t.cb.osc48 } }

theorem OscsOnly.trans (a : OscsOnly s t) (b : OscsOnly t u) : OscsOnly s u := by
  unfold OscsOnly at *
  rw [a] at b
  exact b

theorem tendOsc_only (s : State) (o : Osc) : OscsOnly s (s.tendOsc o) := by
  unfold State.tendOsc
  split <;> cases o <;> rfl

theorem tendOscs_only (s : State) : OscsOnly s s.tendOscs := (tendOsc_only s _).trans (tendOsc_only _ _)

theorem osc_setOsc_of_ne {o p : Osc} (h : o ≠ p) (x : OscState) : (s.setOsc o x).osc p = s.osc p := by
  match o, p with
  | .int44, .int48 | .int48, .int44 => rfl
  | .int44, .int44 | .int48, .int48 => exact absurd rfl h

theorem tendOsc_osc_of_ne {o p : Osc} (h : o ≠ p) : (s.tendOsc o).osc p = s.osc p := by
  unfold State.tendOsc
  split
  · exact osc_setOsc_of_ne h _
  · rfl
  · exact osc_setOsc_of_ne h _

theorem tendOsc_follows (s : State) (o : Osc) : oscFollows s (s.tendOsc o) o := by
  have clock : (s.tendOsc o).mclk = s.mclk := congrArg (·.mclk) (tendOsc_only s o)
  unfold oscFollows
  rw [needs_congr o (tendOsc_domain s o), ← oscNeeded_iff, clock]
  unfold State.tendOsc
  split
  · next need off => simp [need, off]
  · next need off => exact ⟨fun h => absurd need h, fun _ h => absurd h off, fun _ _ => rfl⟩
  · next need => simp [need]

theorem tendOscs_follows (s : State) : ∀ o, oscFollows s s.tendOscs o
  | .int44 => oscFollows_congr (tendOsc_follows s .int44) rfl (tendOsc_domain _ _) (tendOsc_osc_of_ne (by decide))
      (congrArg (·.mclk) (tendOsc_only _ _))
  | .int48 => oscFollows_congr (tendOsc_follows (s.tendOsc .int44) .int48) (tendOsc_osc_of_ne (by decide)).symm
      (fun _ => rfl) rfl rfl

/-! ## A domain takes a value and the oscillators follow -/

/-- In `t` domain `d` of `s` is `x`, the oscillators follow their need, and the rest is as in `s`. -/
structure DomainTakes (d : Fin 4) (x : Domain) (s t : State) : Prop where
  itself : t.domain d = x
  others : ∀ e, e ≠ d → t.domain e = s.domain e
  follows : ∀ o, oscFollows s t o
  rest : t = { s with cb := t.cb }
  inputs : t.cb.inputs = s.cb.inputs
  outputs : t.cb.outputs = s.cb.outputs
  tenMs : t.cb.tenMs = s.cb.tenMs

theorem tendOscs_takes (s : State) (d : Fin 4) (x : Domain) : DomainTakes d x s (s.setDomain d x).tendOscs := by
  have only : OscsOnly (s.setDomain d x) (s.setDomain d x).tendOscs := tendOscs_only _
  refine ⟨?_, fun e he => ?_, fun o => ?_, ?_, ?_, ?_, ?_⟩
  · rw [tendOscs_domain, State.domain_setDomain_self]
  · rw [tendOscs_domain, State.domain_setDomain_of_ne s x he.symm]
  · exact oscFollows_congr (tendOscs_follows _ o) (by simp) (fun _ => rfl) rfl rfl
  · generalize (s.setDomain d x).tendOscs = t at only
    rw [only]; rfl
  · exact congrArg (·.cb.inputs) only
  · exact congrArg (·.cb.outputs) only
  · exact congrArg (·.cb.tenMs) only

/-! ## The end of a candidate (R79) -/

theorem failCandidate_of_none (h : (s.domain d).candidate = none) (cause : ClockCause) (m : Nat) :
    s.failCandidate d cause m = s := by unfold State.failCandidate; rw [h]

theorem failCandidate_of_some {c : Candidate} (h : (s.domain d).candidate = some c) (cause : ClockCause) (m : Nat) :
    ∃ v, DomainTakes d { s.domain d with candidate := none } s v ∧
      s.failCandidate d cause m = (v.request (.domain d)).passEvent (s.ofDomain .qualifyFailed d
        (fields [(0, c.source.code), (8, c.origin.code), (16, cause.code)]) (nat32 m) false) := by
  have takes := tendOscs_takes s d { s.domain d with candidate := none }
  refine ⟨_, takes, ?_⟩
  unfold State.failCandidate
  rw [h]
  dsimp only [State.mapDomain, State.reportDomain, State.domainEvent, State.ofDomain, Event.plain, State.stampOf]
  rw [takes.itself]
  rfl

theorem ReportOnly.eq (h : ReportOnly s t) : t = { s with mc := t.mc, ru := t.ru } := by
  obtain ⟨h1, h2, h3, h4, h5, h6, h7, h8, h9, h10, h11, h12, h13, -⟩ := h
  cases t
  simp_all

/-- What the end of a candidate leaves of `s`, one being there or not. -/
structure CandidateGone (d : Fin 4) (s t : State) : Prop where
  itself : t.domain d = { s.domain d with candidate := none }
  others : ∀ e, e ≠ d → t.domain e = s.domain e
  rest : t = { s with cb := t.cb, mc := t.mc, ru := t.ru }
  inputs : t.cb.inputs = s.cb.inputs
  outputs : t.cb.outputs = s.cb.outputs
  tenMs : t.cb.tenMs = s.cb.tenMs

theorem failCandidate_gone (s : State) (d : Fin 4) (cause : ClockCause) (m : Nat) :
    CandidateGone d s (s.failCandidate d cause m) := by
  match h : (s.domain d).candidate with
  | none =>
    rw [failCandidate_of_none h]
    exact ⟨by rw [← h], fun _ _ => rfl, rfl, rfl, rfl, rfl⟩
  | some c =>
    obtain ⟨v, takes, failed⟩ := failCandidate_of_some h cause m
    have only := (request_only v (.domain d)).trans (passEvent_only _ (s.ofDomain .qualifyFailed d
      (fields [(0, c.source.code), (8, c.origin.code), (16, cause.code)]) (nat32 m) false))
    rw [← failed] at only
    generalize s.failCandidate d cause m = t at only
    have domain (e : Fin 4) : t.domain e = v.domain e := congrArg (·.domains[e]) only.cb
    refine ⟨(domain d).trans takes.itself, fun e he => (domain e).trans (takes.others e he), ?_, ?_, ?_, ?_⟩
    · have rest := only.eq
      rw [takes.rest] at rest
      rw [rest]
    · rw [only.cb, takes.inputs]
    · rw [only.cb, takes.outputs]
    · rw [only.cb, takes.tenMs]

/-! ## The lanes and the outputs of the domain (R99, R119) -/

/-- What the retraining of lanes may change. -/
def LanesOnly (s t : State) : Prop := t = { s with mc := t.mc, li := t.li, mu := t.mu }

/-- What the end of outputs may change. -/
def OutputsOnly (s t : State) : Prop := t = { s with mc := t.mc, cb := { s.cb with outputs := t.cb.outputs } }

theorem LanesOnly.trans (a : LanesOnly s t) (b : LanesOnly t u) : LanesOnly s u := by
  unfold LanesOnly at *
  rw [a] at b
  exact b

theorem OutputsOnly.trans (a : OutputsOnly s t) (b : OutputsOnly t u) : OutputsOnly s u := by
  unfold OutputsOnly at *
  rw [a] at b
  exact b

theorem foldl_related {α : Type} {R : State → State → Prop} {f : State → α → State} (refl : ∀ s, R s s)
    (trans : ∀ {s t u}, R s t → R t u → R s u) (h : ∀ s a, R s (f s a)) : ∀ (l : List α) (s : State), R s (l.foldl f s)
  | [], s => refl s
  | a :: l, s => trans (h s a) (foldl_related refl trans h l (f s a))

theorem request_eq (s : State) (id : RecordId) : s.request id = { s with mc := (s.request id).mc } := by
  unfold State.request
  split
  · rfl
  · dsimp only; split <;> rfl

/-- A lane as every entry into TRAINING leaves it, with a window of its own cleared. -/
def LaneWindow.cleared (w : LaneWindow) : LaneWindow := { w with peaks := Vector.replicate 64 0, good := 0 }

theorem retrained_only (s : State) (l : Fin 8) : LanesOnly s (s.retrained l) := by
  unfold State.retrained
  dsimp only
  split
  · rfl
  · unfold LanesOnly; rw [request_eq]; rfl

theorem retrained_lane (s : State) (l k : Fin 8) :
    (s.retrained l).lane k = if l = k then (s.lane k).training else s.lane k := by
  have set : (s.retrained l).lane k = (s.setLane l (s.lane l).training).lane k := by
    unfold State.retrained
    dsimp only
    split <;> simp [Lane.training]
  rw [set]
  split
  · next h => rw [← h, State.lane_setLane_self]
  · next h => rw [State.lane_setLane_of_ne s _ h]

theorem retrained_window (s : State) (l k : Fin 8) :
    (s.retrained l).window k = if l = k then (s.window k).cleared else s.window k := by
  have set : (s.retrained l).window k = ((s.setLane l (s.lane l).training).setWindow l (s.window l).cleared).window k := by
    unfold State.retrained
    dsimp only
    split <;> simp [LaneWindow.cleared, Lane.training]
  rw [set]
  split
  · next h => rw [← h, State.window_setWindow_self]
  · next h => rw [State.window_setWindow_of_ne _ _ h]; rfl

theorem retrainedAll_lane (k : Fin 8) : ∀ (ls : List (Fin 8)) (s : State),
    (ls.foldl State.retrained s).lane k = if k ∈ ls then (s.lane k).training else s.lane k
  | [], _ => rfl
  | l :: ls, s => by
    rw [List.foldl_cons, retrainedAll_lane k ls, retrained_lane]
    by_cases hl : l = k
    · subst hl; simp [Lane.training]
    · simp [hl, Ne.symm hl]

theorem retrainedAll_window (k : Fin 8) : ∀ (ls : List (Fin 8)) (s : State),
    (ls.foldl State.retrained s).window k = if k ∈ ls then (s.window k).cleared else s.window k
  | [], _ => rfl
  | l :: ls, s => by
    rw [List.foldl_cons, retrainedAll_window k ls, retrained_window]
    by_cases hl : l = k
    · subst hl; simp [LaneWindow.cleared]
    · simp [hl, Ne.symm hl]

theorem putOutput_only (s : State) (o : Fin 4) (x : WordOutput) : OutputsOnly s (s.putOutput o x) := by
  unfold State.putOutput
  dsimp only
  split
  · unfold OutputsOnly; rw [request_eq]; rfl
  · rfl

theorem overdueEdges_only (s : State) (o : Fin 4) : OutputsOnly s (s.overdueEdges o) := by
  unfold State.overdueEdges State.edgesBefore
  split
  · rfl
  · exact putOutput_only _ _ _

theorem putOutput_output_self (s : State) (o : Fin 4) (x : WordOutput) : (s.putOutput o x).output o = x := by
  unfold State.putOutput
  dsimp only
  split <;> simp

theorem putOutput_output_of_ne (s : State) {o p : Fin 4} (x : WordOutput) (h : o ≠ p) :
    (s.putOutput o x).output p = s.output p := by
  unfold State.putOutput
  dsimp only
  split <;> simp [State.output_setOutput_of_ne s x h]

theorem overdueEdges_output_of_ne (s : State) {o p : Fin 4} (h : o ≠ p) :
    (s.overdueEdges o).output p = s.output p := by
  unfold State.overdueEdges State.edgesBefore
  split
  · rfl
  · exact putOutput_output_of_ne _ _ h

theorem overdueEdges_output_congr {o : Fin 4} (ho : t.output o = s.output o) (hm : t.mclk = s.mclk) :
    (t.overdueEdges o).output o = (s.overdueEdges o).output o := by
  unfold State.overdueEdges State.edgesBefore
  rw [hm]
  split
  · exact ho
  · unfold State.runEdges
    simp only [putOutput_output_self, ho]

/-- R99: output `o` after the stop of domain `d`. -/
def State.outputAfterStop (s : State) (d o : Fin 4) : WordOutput :=
  let z := (s.overdueEdges o).output o
  if z.settings.domain = d then z.domainStopped else z

theorem outputEnded_only (d : Fin 4) (s : State) (o : Fin 4) : OutputsOnly s (s.outputEnded d o) := by
  unfold State.outputEnded
  dsimp only
  split
  · exact (overdueEdges_only s o).trans (putOutput_only _ _ _)
  · exact overdueEdges_only s o

theorem outputEnded_output_self (d : Fin 4) (s : State) (o : Fin 4) :
    (s.outputEnded d o).output o = s.outputAfterStop d o := by
  unfold State.outputEnded State.outputAfterStop
  dsimp only
  split
  · exact putOutput_output_self _ _ _
  · rfl

theorem outputEnded_output_of_ne (d : Fin 4) (s : State) {o p : Fin 4} (h : o ≠ p) :
    (s.outputEnded d o).output p = s.output p := by
  unfold State.outputEnded
  dsimp only
  split
  · exact (putOutput_output_of_ne _ _ h).trans (overdueEdges_output_of_ne s h)
  · exact overdueEdges_output_of_ne s h

theorem outputAfterStop_congr {o : Fin 4} (ho : t.output o = s.output o) (hm : t.mclk = s.mclk) :
    t.outputAfterStop d o = s.outputAfterStop d o := by
  unfold State.outputAfterStop
  rw [overdueEdges_output_congr ho hm]

theorem outputsEnded_output (d p : Fin 4) : ∀ (os : List (Fin 4)) (s : State), os.Nodup →
    (os.foldl (State.outputEnded d) s).output p = if p ∈ os then s.outputAfterStop d p else s.output p
  | [], _, _ => rfl
  | o :: os, s, h => by
    obtain ⟨first, rest⟩ := List.nodup_cons.1 h
    rw [List.foldl_cons, outputsEnded_output d p os _ rest]
    by_cases hp : o = p
    · subst hp
      rw [if_neg first, if_pos (List.mem_cons_self ..), outputEnded_output_self]
    · have same := outputEnded_output_of_ne d s hp
      rw [outputAfterStop_congr same (congrArg (·.mclk) (outputEnded_only d s o)), same]
      simp [Ne.symm hp]

/-! ## STOP_DOMAIN applied (R86) -/

/-- A running domain when it is stopped: its count, its settings and a rate change that waits stay. -/
def Domain.stoppedNow (x : Domain) : Domain :=
  { x with run := .stopped, candidate := none, afterSwitch := none, edgeOwed := false }

/-- A stream of the domain is active. -/
def State.domainBusy (s : State) (d : Fin 4) : Prop := ∃ i, s.isStreamOf d i = true ∧ (s.stream i).state.active = true

theorem domainBusy_iff : (s.streamsOf d).any (fun i => (s.stream i).state.active) = true ↔ s.domainBusy d := by
  simp [State.streamsOf, State.domainBusy, indices]

theorem lanesOf_eq (h : t.li = s.li) : t.lanesOf d = s.lanesNumbered d := by
  simp only [State.lanesOf, State.lanesNumbered, State.lane, h]
  rfl

theorem lanesNumbered_congr (h : t.li = s.li) : t.lanesNumbered d = s.lanesNumbered d := by
  simp only [State.lanesNumbered, State.lane, h]

theorem retrainLanes_eq (h : t.li = s.li) : t.retrainLanes d = (s.lanesNumbered d).foldl State.retrained t := by
  unfold State.retrainLanes
  rw [lanesOf_eq h]
  rfl

theorem stopOutputs_eq (s : State) (d : Fin 4) :
    s.stopOutputs d = [(0 : Fin 4), 1, 2, 3].foldl (State.outputEnded d) s := rfl

theorem applyStopDomain_of_busy (h : s.domainBusy d) : s.applyStopDomain d = .refused s .wrongState :=
  if_pos (domainBusy_iff.2 h)

theorem applyStopDomain_of_stopped (h : ¬ s.domainBusy d) (hr : (s.domain d).run = .stopped) :
    s.applyStopDomain d = .done (s.failCandidate d .cancelled 0) := by
  have gone := failCandidate_gone s d .cancelled 0
  unfold State.applyStopDomain
  rw [if_neg (fun e => h (domainBusy_iff.1 e))]
  dsimp only
  exact if_neg (by rw [running_iff, gone.itself]; exact fun e => e hr)

/-- The state of the cue's domain and oscillators when a running domain is stopped. -/
def State.domainStops (t : State) (d : Fin 4) : State := (t.setDomain d (t.domain d).stoppedNow).tendOscs

/-- The lanes, then the outputs of the domain follow, each in rising number. -/
def State.domainLeft (w : State) (d : Fin 4) : State :=
  [(0 : Fin 4), 1, 2, 3].foldl (State.outputEnded d) ((w.lanesNumbered d).foldl State.retrained w)

theorem applyStopDomain_of_running (h : ¬ s.domainBusy d) (hr : (s.domain d).run ≠ .stopped) :
    s.applyStopDomain d =
      .done ((((s.failCandidate d .cancelled 0).domainStops d).domainLeft d).request (.domain d)) := by
  have gone := failCandidate_gone s d .cancelled 0
  unfold State.applyStopDomain
  rw [if_neg (fun e => h (domainBusy_iff.1 e))]
  dsimp only
  rw [if_pos (by rw [running_iff, gone.itself]; exact hr), retrainLanes_eq rfl, stopOutputs_eq]
  generalize s.failCandidate d .cancelled 0 = t at gone
  have stops : (t.mapDomain d (fun x => { x with run := .stopped, afterSwitch := none, edgeOwed := false })).tendOscs =
      t.domainStops d := by
    unfold State.domainStops State.mapDomain Domain.stoppedNow
    rw [gone.itself]
  rw [stops]
  rfl

theorem retrainedAll_only (ls : List (Fin 8)) (s : State) : LanesOnly s (ls.foldl State.retrained s) :=
  foldl_related (R := LanesOnly) (fun _ => rfl) LanesOnly.trans retrained_only ls s

theorem outputsEnded_only (d : Fin 4) (os : List (Fin 4)) (s : State) : OutputsOnly s (os.foldl (State.outputEnded d) s) :=
  foldl_related (R := OutputsOnly) (fun _ => rfl) OutputsOnly.trans (outputEnded_only d) os s

/-- The stop of a running domain whose candidate has gone. -/
theorem domainStops_takes (gone : CandidateGone d s t) : DomainTakes d (s.domain d).stoppedNow t (t.domainStops d) := by
  have same : (t.domain d).stoppedNow = (s.domain d).stoppedNow := by rw [gone.itself]; rfl
  rw [← same]
  exact tendOscs_takes t d _

theorem domainLeft_only (w : State) (d : Fin 4) : w.domainLeft d = { w with
    mc := (w.domainLeft d).mc, li := (w.domainLeft d).li, mu := (w.domainLeft d).mu,
    cb := { w.cb with outputs := (w.domainLeft d).cb.outputs } } := by
  have left : OutputsOnly _ (w.domainLeft d) := outputsEnded_only d _ ((w.lanesNumbered d).foldl State.retrained w)
  have trained := retrainedAll_only (w.lanesNumbered d) w
  unfold OutputsOnly at left
  rw [trained] at left
  exact left.trans (by rw [left])

theorem outputsEnded_lane (d : Fin 4) (os : List (Fin 4)) (s : State) (l : Fin 8) :
    (os.foldl (State.outputEnded d) s).lane l = s.lane l := congrArg (·.lane l) (outputsEnded_only d os s)

theorem outputsEnded_window (d : Fin 4) (os : List (Fin 4)) (s : State) (l : Fin 8) :
    (os.foldl (State.outputEnded d) s).window l = s.window l := congrArg (·.window l) (outputsEnded_only d os s)

theorem mem_lanesNumbered {l : Fin 8} : l ∈ s.lanesNumbered d ↔ (s.lane l).domain = some d := by
  simp [State.lanesNumbered]

theorem domainLeft_lane (w : State) (d : Fin 4) (l : Fin 8) :
    (w.domainLeft d).lane l = if (w.lane l).domain = some d then (w.lane l).training else w.lane l := by
  rw [State.domainLeft, outputsEnded_lane, retrainedAll_lane]
  exact if_congr mem_lanesNumbered rfl rfl

theorem domainLeft_window (w : State) (d : Fin 4) (l : Fin 8) :
    (w.domainLeft d).window l = if (w.lane l).domain = some d then (w.window l).cleared else w.window l := by
  rw [State.domainLeft, outputsEnded_window, retrainedAll_window]
  exact if_congr mem_lanesNumbered rfl rfl

theorem domainLeft_output (w : State) (d o : Fin 4) : (w.domainLeft d).output o = w.outputAfterStop d o := by
  have trained := retrainedAll_only (w.lanesNumbered d) w
  refine (outputsEnded_output d o [0, 1, 2, 3] _ (by decide)).trans ?_
  rw [if_pos (by revert o; decide)]
  exact outputAfterStop_congr (congrArg (·.output o) trained) (congrArg (·.mclk) trained)

/-! ## The row (R61, R86) -/

section Row

variable {b : CueBody} {dt : Nat} (hp : s.phase ≠ .held) (hd : s.dueNow b) (ht : b.target.toNat = d.val)
  (hb : b.domain = d)

theorem handOver_stopDomain (ht : b.target.toNat = d.val) : s.handOver ⟨.stopDomain, b⟩ = s.applyStopDomain d := by
  unfold State.handOver
  dsimp only
  rw [domainOf_eq_some_iff.2 ht, onTarget]

include hp hd ht hb

omit hb in
/-- While a stream is active the cue is refused, and a running domain goes on. -/
theorem exec_stopDomain_busy (busy : s.domainBusy d) : exec (.stopDomain b dt) s =
    .next ((s.elapse dt).afterCue (s.elapse dt) ⟨.stopDomain, b⟩ (some .wrongState)) := by
  have refused : (s.elapse dt).applyCue ⟨.stopDomain, b⟩ = _ :=
    applyCue_of_refused rfl ((handOver_stopDomain ht).trans (applyStopDomain_of_busy busy))
  refine (exec_verbRow_due .stopDomain dt hp hd).trans (congrArg _ ?_)
  rw [show s.atRow .stopDomain dt = s.elapse dt from rfl, refused]
  split
  · next running =>
    refine flushStopped_of_running ((running_iff _).2 ?_)
    rw [afterCue_domain]
    exact running.2
  · rfl

/-- A STOPPED domain has no other cue to apply. -/
theorem exec_stopDomain_stopped (free : ¬ s.domainBusy d) (hr : (s.domain d).run = .stopped) :
    exec (.stopDomain b dt) s = .next ((s.elapse dt).afterCue ((s.elapse dt).failCandidate d .cancelled 0)
      ⟨.stopDomain, b⟩ none) := by
  have done : (s.elapse dt).applyCue ⟨.stopDomain, b⟩ = _ :=
    applyCue_of_done rfl ((handOver_stopDomain ht).trans (applyStopDomain_of_stopped free hr))
  refine (exec_verbRow_due .stopDomain dt hp hd).trans (congrArg _ ?_)
  rw [if_neg (fun e => e.2 (hb ▸ hr))]
  exact done

/-- The stop of a running domain flushes its reached cues. -/
theorem exec_stopDomain_running (free : ¬ s.domainBusy d) (hr : (s.domain d).run ≠ .stopped) :
    exec (.stopDomain b dt) s = .next (((s.elapse dt).afterCue
      (((((s.elapse dt).failCandidate d .cancelled 0).domainStops d).domainLeft d).request (.domain d))
      ⟨.stopDomain, b⟩ none).flushStopped d) := by
  have done : (s.elapse dt).applyCue ⟨.stopDomain, b⟩ = _ :=
    applyCue_of_done rfl ((handOver_stopDomain ht).trans (applyStopDomain_of_running free hr))
  refine (exec_verbRow_due .stopDomain dt hp hd).trans (congrArg _ ?_)
  rw [if_pos ⟨rfl, hb ▸ hr⟩, hb]
  exact congrArg (·.flushStopped d) done

end Row

end Sys2Proof.Machine

namespace Sys2Proof.Proofs

open Sys2Proof.Machine

/-- Settles O45: the row by the domain's streams and state; the end of the candidate, the stop of the domain, and what it
leaves of the lanes and the outputs, each by its own lemma. -/
theorem stopDomainStopsTheDomain : Obligations.StopDomainStopsTheDomain := by
  intro s b dt d hp hd ht hb
  have gone := failCandidate_gone (s.elapse dt) d .cancelled 0
  have none_gone (h : (s.domain d).candidate = none) : (s.elapse dt).failCandidate d .cancelled 0 = s.elapse dt :=
    failCandidate_of_none (s := s.elapse dt) h _ _
  have some_gone {c : Candidate} (h : (s.domain d).candidate = some c) :=
    failCandidate_of_some (s := s.elapse dt) h .cancelled 0
  have run := exec_stopDomain_running (dt := dt) hp hd ht hb
  refine ⟨fun busy => exec_stopDomain_busy hp hd ht busy, fun free =>
    ⟨(s.elapse dt).failCandidate d .cancelled 0, none_gone, fun c h => ?_,
      fun hr => exec_stopDomain_stopped hp hd ht hb free hr, fun hr => ?_⟩⟩
  · obtain ⟨v, takes, failed⟩ := some_gone h
    exact ⟨v, takes.itself, takes.others, takes.follows _, takes.follows _, takes.rest, takes.inputs, takes.outputs, failed⟩
  · replace run := run free hr
    generalize (s.elapse dt).failCandidate d .cancelled 0 = t at gone run
    have takes := domainStops_takes gone
    generalize t.domainStops d = w at takes run
    have made : w.domainLeft d = [(0 : Fin 4), 1, 2, 3].foldl (State.outputEnded d)
        ((w.lanesNumbered d).foldl State.retrained w) := rfl
    have left := domainLeft_only w d
    have lane := domainLeft_lane w d
    have window := domainLeft_window w d
    have output := domainLeft_output w d
    have kept : w = { s.elapse dt with cb := w.cb, mc := w.mc, ru := w.ru } := by
      have rest := takes.rest
      rw [gone.rest] at rest
      rw [rest]
    rw [lanesNumbered_congr (congrArg (·.li) kept)] at made
    generalize w.domainLeft d = u at left lane window output run made
    have same (e : Fin 4) : u.domain e = w.domain e := congrArg (·.domain e) left
    have follows (o : Osc) : oscFollows t u o :=
      oscFollows_congr (takes.follows o) rfl same (congrArg (·.osc o) left) (congrArg (·.mclk) left)
    have laneOf (l : Fin 8) : w.lane l = s.lane l := congrArg (·.lane l) kept
    have windowOf (l : Fin 8) : w.window l = s.window l := congrArg (·.window l) kept
    have outputOf (o : Fin 4) : w.output o = s.output o :=
      congrArg (·[o]) (takes.outputs.trans gone.outputs)
    refine ⟨w, u, ⟨takes.rest, takes.itself, fun e he => (takes.others e he).trans (gone.others e he), takes.follows _,
      takes.follows _, takes.inputs.trans gone.inputs, takes.outputs.trans gone.outputs, takes.tenMs.trans gone.tenMs⟩,
      made, (congrArg (·.ru) left).trans (congrArg (·.ru) takes.rest), run, (same d).trans takes.itself,
      fun e he => (same e).trans ((takes.others e he).trans (gone.others e he)), follows _, follows _,
      fun l hl => ⟨?_, ?_⟩, fun l hl => ⟨?_, ?_⟩, fun o => ?_, ?_, ?_, ?_, ?_, ?_, ?_⟩
    · rw [window, laneOf, if_pos hl]; rfl
    · rw [lane, laneOf, if_pos hl]; rfl
    · rw [lane, laneOf, if_neg hl]
    · rw [window, laneOf, if_neg hl, windowOf]
    · rw [output]; exact outputAfterStop_congr (s := s.elapse dt) (outputOf o) (congrArg (·.mclk) kept)
    · exact (congrArg (·.mem) left).trans (congrArg (·.mem) kept)
    · exact (congrArg (·.rw) left).trans (congrArg (·.rw) kept)
    · exact (congrArg (·.se) left).trans (congrArg (·.se) kept)
    · exact (congrArg (·.cu) left).trans (congrArg (·.cu) kept)
    · exact (congrArg (·.si) left).trans (congrArg (·.si) kept)
    · exact (congrArg (·.mclk) left).trans (congrArg (·.mclk) kept)

end Sys2Proof.Proofs
end

-- ==== Proofs of the family 03: the Record order ====
section
/-! The Record order: its grants one by one, the completion of its head as grants in a row, and the rows that complete
its requests in order (R131, R149, R159, R175, R179, R181). -/

namespace Sys2Proof.Machine

variable {s t u : State} {it : RecordItem} {rest : List RecordItem}

/-! ## What the requests are for -/

/-- What the requests of the Record order are for, in order. -/
def State.recordWorks (s : State) : List RecordWork := s.mc.records.map (·.work)

/-- Requests join the order at its back, and those that stand keep their places. -/
def WorksGrow (s t : State) : Prop := s.recordWorks <+: t.recordWorks

theorem WorksGrow.of_append (h : t.mc.records = s.mc.records ++ rest) : WorksGrow s t :=
  ⟨rest.map (·.work), by rw [State.recordWorks, State.recordWorks, h, List.map_append]⟩

theorem WorksGrow.of_same (h : t.mc.records = s.mc.records) : WorksGrow s t :=
  .of_append (rest := []) (by rw [h, List.append_nil])

theorem replacePending_works {id : RecordId} {ws : List MemWrite} :
    ∀ {l m : List RecordItem}, replacePending id ws l = some m → m.map (·.work) = l.map (·.work)
  | [], m, h => by simp [replacePending] at h
  | it :: rest, m, h => by
    unfold replacePending at h
    split at h
    · cases h; rfl
    · obtain ⟨m', hm, rfl⟩ := Option.map_eq_some_iff.mp h
      rw [List.map_cons, List.map_cons, replacePending_works hm]

theorem request_grows (s : State) (id : RecordId) : WorksGrow s (s.request id) := by
  unfold State.request
  split
  · exact List.prefix_rfl
  · dsimp only
    split
    · next l hl => exact ⟨[], (List.append_nil _).trans (replacePending_works hl).symm⟩
    · exact .of_append rfl

theorem loseEvent_grows (s : State) (e : Event) : WorksGrow s (s.loseEvent e) := by
  unfold State.loseEvent
  generalize hr : ({ s.ru with
    lost := satInc s.ru.lost
    lostFaults := if e.kind.cls = .fault then satInc s.ru.lostFaults else s.ru.lostFaults } : ReportUnit) = r
  exact request_grows { s with ru := r } .report

theorem passEvent_grows (s : State) (e : Event) : WorksGrow s (s.passEvent e) := by
  unfold State.passEvent
  split
  · exact List.prefix_rfl
  · split
    · exact loseEvent_grows s e
    · exact .of_append rfl

theorem passEvents_grows : ∀ (es : List Event) (s : State), WorksGrow s (s.passEvents es)
  | [], _ => List.prefix_rfl
  | e :: es, s => (passEvent_grows s e).trans (passEvents_grows es (s.passEvent e))

theorem finishItem_grows (s : State) (it : RecordItem) : WorksGrow s (s.finishItem it) := by
  unfold State.finishItem
  split
  · exact .of_append rfl
  · exact .of_same rfl
  · exact passEvents_grows _ s
  · exact passEvents_grows _ s
  · exact passEvents_grows _ s
  · exact .of_append rfl
  all_goals exact List.prefix_rfl

/-! ## The posted records (R159) -/

theorem passEvent_written (s : State) (e : Event) : (s.passEvent e).ru.written = s.ru.written := by
  unfold State.passEvent
  split
  · rfl
  · split
    · unfold State.loseEvent State.request
      dsimp only
      split
      · rfl
      · split <;> rfl
    · rfl

theorem passEvents_written : ∀ (es : List Event) (s : State), (s.passEvents es).ru.written = s.ru.written
  | [], _ => rfl
  | e :: es, s => (passEvents_written es (s.passEvent e)).trans (passEvent_written s e)

/-- The request is for the posting of a record. -/
def RecordWork.isPosting : RecordWork → Bool
  | .posting _ _ => true
  | _ => false

theorem finishItem_written (h : it.work.isPosting = false) (s : State) : (s.finishItem it).ru.written = s.ru.written := by
  unfold State.finishItem
  split
  · rfl
  · next n c hw => rw [hw] at h; cases h
  · exact passEvents_written _ s
  · exact passEvents_written _ s
  · exact passEvents_written _ s
  all_goals rfl

/-! ## The head of the order (R176) -/

/-- The head of the order begun: its contents are fixed. -/
def State.headBegun (s : State) (it : RecordItem) (rest : List RecordItem) : State :=
  let b := s.beginItem it
  { b.2 with mc := { b.2.mc with records := b.1 :: rest } }

/-- The head of the order gone, its last transaction a grant to Record. -/
def State.headGone (s : State) (rest : List RecordItem) : State :=
  { s with mc := { s.mc with records := rest, lastOfThree := .record } }

theorem beginItem_of_begun (h : it.begun = true) (s : State) : s.beginItem it = (it, s) := by
  unfold State.beginItem
  rw [if_pos h]

theorem beginItem_begun (s : State) (it : RecordItem) : (s.beginItem it).1.begun = true := by
  unfold State.beginItem
  split
  · assumption
  · split
    · rfl
    · rfl
    · split <;> rfl
    · rfl

theorem beginItem_ru (s : State) (it : RecordItem) : (s.beginItem it).2.ru = s.ru := by
  unfold State.beginItem
  split
  · rfl
  · split
    · rfl
    · rfl
    · split <;> rfl
    · rfl

theorem completeHead_of_begun (hr : s.mc.records = it :: rest) (hb : it.begun = true) :
    s.completeHead = ((it.writes.foldl State.performWrite s).headGone rest).finishItem it := by
  unfold State.completeHead
  rw [hr]
  simp only [beginItem_of_begun hb]
  rfl

/-- The completion of the head is that of the head begun. -/
theorem completeHead_of_head (hr : s.mc.records = it :: rest) :
    s.completeHead = (s.headBegun it rest).completeHead := by
  rw [completeHead_of_begun (s := s.headBegun it rest) rfl (beginItem_begun s it)]
  unfold State.completeHead
  rw [hr]
  dsimp only
  rw [performWrites_mem, performWrites_mem]
  rfl

/-- The rotation's mark of a grant to Record. -/
def State.recordMarked (s : State) : State := { s with mc := { s.mc with lastOfThree := .record } }

theorem beginItem_recordMarked (s : State) (it : RecordItem) :
    s.recordMarked.beginItem it = ((s.beginItem it).1, (s.beginItem it).2.recordMarked) := by
  have table (l : Fin 8) : (s.recordMarked.window l).table = (s.window l).table := rfl
  unfold State.beginItem
  split
  · rfl
  · split
    · rfl
    · rfl
    · next l _ => rw [table]; split <;> rfl
    · rfl

/-- The grant of the first of an item's transactions, the item begun. -/
def State.grantBegun (s : State) (it : RecordItem) (rest : List RecordItem) : State :=
  match it.writes with
  | [] => ({ s with mc := { s.mc with records := rest } } : State).finishItem it
  | w :: ws =>
    let t := s.performWrite w
    if ws.isEmpty then ({ t with mc := { t.mc with records := rest } } : State).finishItem it
    else { t with mc := { t.mc with records := { it with writes := ws } :: rest } }

theorem grantItem_eq (hr : s.mc.records = it :: rest) :
    s.grantItem = (s.beginItem it).2.grantBegun (s.beginItem it).1 rest := by
  unfold State.grantItem
  rw [hr]
  rfl

theorem grantRecord_eq (hr : s.mc.records = it :: rest) :
    s.grantRecord = (s.beginItem it).2.recordMarked.grantBegun (s.beginItem it).1 rest := by
  have granted : s.grantRecord = s.recordMarked.grantItem := if_neg (by rw [hr]; simp)
  rw [granted, grantItem_eq (s := s.recordMarked) hr, beginItem_recordMarked]

theorem grantRecord_of_begun (hr : s.mc.records = it :: rest) (hb : it.begun = true) :
    s.grantRecord = s.recordMarked.grantBegun it rest := by
  rw [grantRecord_eq hr, beginItem_of_begun hb]

theorem grantBegun_of_more {w v : MemWrite} {ws : List MemWrite} (h : it.writes = w :: v :: ws) :
    s.grantBegun it rest = { s with
      mem := s.mem.writeWords w.addr w.words,
      mc := { s.mc with records := { it with writes := v :: ws } :: rest } } := by
  unfold State.grantBegun
  rw [h]
  rfl

theorem grantBegun_of_last {w : MemWrite} (h : it.writes = [w]) :
    s.grantBegun it rest = ({ s with
      mem := s.mem.writeWords w.addr w.words, mc := { s.mc with records := rest } } : State).finishItem it := by
  unfold State.grantBegun
  rw [h]
  rfl

theorem grantBegun_of_none (h : it.writes = []) :
    s.grantBegun it rest = ({ s with mc := { s.mc with records := rest } } : State).finishItem it := by
  unfold State.grantBegun
  rw [h]

/-- The first grant of the head is that of the head begun. -/
theorem grantRecord_of_head (hr : s.mc.records = it :: rest) : s.grantRecord = (s.headBegun it rest).grantRecord := by
  rw [grantRecord_eq hr, grantRecord_of_begun (s := s.headBegun it rest) rfl (beginItem_begun s it)]
  unfold State.headBegun
  generalize s.beginItem it = b
  match h : b.1.writes with
  | [] => rw [grantBegun_of_none h, grantBegun_of_none h]; rfl
  | [w] => rw [grantBegun_of_last h, grantBegun_of_last h]; rfl
  | w :: v :: ws => rw [grantBegun_of_more h, grantBegun_of_more h]; rfl

/-! ## Grants by what the head asks for (R49, R175, R179) -/

theorem grantRecord_of_status {id : RecordId} {b : Bool} {es : List Event} {w : MemWrite}
    (hr : s.mc.records = ⟨.status id, b, [w], es⟩ :: rest) : s.grantRecord = { s with
      mem := s.mem.writeWords w.addr w.words, mc := { s.mc with lastOfThree := .record, records := rest } } := by
  have begun : s.beginItem ⟨.status id, b, [w], es⟩ = (⟨.status id, true, [w], es⟩, s) := by cases b <;> rfl
  rw [grantRecord_eq hr, begun]
  exact grantBegun_of_last rfl

theorem grantRecord_of_read {b : Bool} {es : List Event} (hr : s.mc.records = ⟨.cueRead, b, [], es⟩ :: rest) :
    s.grantRecord = { s with
      cu := { s.cu with takeMark := s.cu.takeMark + 1, record := some (s.cueRecord s.cu.takeMark) },
      mc := { s.mc with
        lastOfThree := .record,
        records := rest ++ [⟨.cueMark, false, [⟨s.base + 0x1800, [(s.cu.takeMark + 1).setWidth 32]⟩], []⟩] } } := by
  have begun : s.beginItem ⟨.cueRead, b, [], es⟩ = (⟨.cueRead, true, [], es⟩, s) := by cases b <;> rfl
  rw [grantRecord_eq hr, begun]
  exact grantBegun_of_none rfl

theorem grantRecord_of_scrub {n : Nat} (hr : s.mc.records = []) (hn : s.mc.scrubNext = some n) :
    s.grantRecord = { s with
      mem := s.mem.clear (s.base + 64 * n) (s.base + 64 * n + 64),
      mc := { s.mc with lastOfThree := .record, scrubNext := some (n + 1) } } := by
  unfold State.grantRecord
  rw [hr, hn]
  rfl

/-! ## The completion of the head is grants in a row (R175) -/

theorem completeHead_of_grant {w v : MemWrite} {ws : List MemWrite} (hr : s.mc.records = it :: rest)
    (hb : it.begun = true) (hw : it.writes = w :: v :: ws) : s.grantRecord.completeHead = s.completeHead := by
  have granted := (grantRecord_of_begun hr hb).trans (grantBegun_of_more hw)
  have left : s.grantRecord.mc.records = { it with writes := v :: ws } :: rest := congrArg (·.mc.records) granted
  rw [completeHead_of_begun left hb, completeHead_of_begun hr hb, granted, hw, performWrites_mem, performWrites_mem]
  rfl

theorem grantRecord_of_short (hr : s.mc.records = it :: rest) (hb : it.begun = true) (hw : it.writes.length ≤ 1) :
    s.grantRecord = s.completeHead := by
  rw [grantRecord_of_begun hr hb, completeHead_of_begun hr hb]
  match h : it.writes with
  | [] => rw [grantBegun_of_none h]; rfl
  | [w] => rw [grantBegun_of_last h]; rfl
  | _ :: _ :: _ => rw [h] at hw; simp at hw

/-- From the second transaction on, each grant is that of the transaction at the front of those left. -/
theorem grants_of_begun : ∀ (ws : List MemWrite) {w : MemWrite} {it : RecordItem} {s : State},
    s.mc.records = it :: rest → it.begun = true → it.writes = w :: ws →
      s.completeHead = State.grantRecord^[ws.length + 1] s ∧
      ∀ k < ws.length, (State.grantRecord^[k + 1] s).mc.records = { it with writes := ws.drop k } :: rest
  | [], w, it, s, hr, hb, hw =>
    ⟨(grantRecord_of_short hr hb (by rw [hw]; rfl)).symm, fun k hk => absurd hk (Nat.not_lt_zero k)⟩
  | v :: ws, w, it, s, hr, hb, hw => by
    have left : s.grantRecord.mc.records = { it with writes := v :: ws } :: rest :=
      congrArg (·.mc.records) ((grantRecord_of_begun hr hb).trans (grantBegun_of_more hw))
    obtain ⟨done, between⟩ := grants_of_begun ws left hb rfl
    refine ⟨(completeHead_of_grant hr hb hw).symm.trans done, fun k hk => ?_⟩
    cases k with
    | zero => exact left
    | succ k => exact between k (Nat.lt_of_succ_lt_succ hk)

/-- The head leaves after `n + 1` grants, and until then it stands with the transactions left to it. -/
def State.leavesAfter (s : State) (it : RecordItem) (rest : List RecordItem) (n : Nat) : Prop :=
  s.completeHead = State.grantRecord^[n + 1] s ∧
    ∀ k < n, ∃ x, (State.grantRecord^[k + 1] s).mc.records = x :: rest ∧ x.work = it.work ∧ x.begun = true ∧
      x.writes.length = n - k

theorem leavesAfter_of_begun (hr : s.mc.records = it :: rest) (hb : it.begun = true) :
    ∃ n, s.leavesAfter it rest n := by
  match hw : it.writes with
  | [] => exact ⟨0, (grantRecord_of_short hr hb (by rw [hw]; decide)).symm, fun k hk => absurd hk (Nat.not_lt_zero k)⟩
  | w :: ws =>
    obtain ⟨done, between⟩ := grants_of_begun ws hr hb hw
    exact ⟨ws.length, done, fun k hk => ⟨_, between k hk, rfl, hb, List.length_drop⟩⟩

theorem completeHead_leavesAfter (hr : s.mc.records = it :: rest) : ∃ n, s.leavesAfter it rest n := by
  have iterates (k : Nat) : State.grantRecord^[k + 1] s = State.grantRecord^[k + 1] (s.headBegun it rest) := by
    rw [Function.iterate_succ_apply, Function.iterate_succ_apply, grantRecord_of_head hr]
  obtain ⟨n, done, between⟩ := leavesAfter_of_begun (s := s.headBegun it rest) rfl (beginItem_begun s it)
  refine ⟨n, ?_, fun k hk => ?_⟩
  · rw [completeHead_of_head hr, done, iterates]
  · rw [iterates]
    obtain ⟨x, left, work, rest⟩ := between k hk
    exact ⟨x, left, work.trans (beginItem_work s it), rest⟩

/-- What stood behind the head keeps its places; more may have joined at the back. -/
theorem completeHead_works (hr : s.mc.records = it :: rest) :
    rest.map (·.work) <+: s.completeHead.recordWorks := by
  rw [completeHead_of_head hr, completeHead_of_begun (s := s.headBegun it rest) rfl (beginItem_begun s it)]
  have behind (u : State) (x : RecordItem) : rest.map (·.work) <+: ((u.headGone rest).finishItem x).recordWorks :=
    finishItem_grows (u.headGone rest) x
  exact behind _ _

/-! ## The requests of the order, completed in order (R159, R175) -/

theorem completeHead_written (hr : s.mc.records = it :: rest) (h : it.work.isPosting = false) :
    s.completeHead.ru.written = s.ru.written := by
  rw [completeHead_of_head hr, completeHead_of_begun (s := s.headBegun it rest) rfl (beginItem_begun s it),
    finishItem_written (by rwa [beginItem_work]), performWrites_mem]
  exact congrArg (·.written) (beginItem_ru s it)

/-- Requests that post no record leave the written mark. -/
theorem completeItems_written : ∀ (ws : List RecordWork) (s : State), ws <+: s.recordWorks →
    (∀ w ∈ ws, w.isPosting = false) → (s.completeItems ws.length).ru.written = s.ru.written
  | [], _, _, _ => rfl
  | w :: ws, s, hw, hp => by
    match hr : s.mc.records with
    | [] => rw [State.recordWorks, hr] at hw; simp at hw
    | it :: rest =>
      rw [State.recordWorks, hr, List.map_cons, List.cons_prefix_cons] at hw
      obtain ⟨rfl, behind⟩ := hw
      refine (completeItems_written ws s.completeHead (behind.trans (completeHead_works hr))
        fun w hw => hp w (List.mem_cons_of_mem _ hw)).trans (completeHead_written hr (hp _ (List.mem_cons_self ..)))

section Rows

variable {p : RecordWork → Bool} {before : List RecordItem} (hl : s.mc.records = before ++ it :: rest)
  (hp : p it.work = true) (hb : ∀ x ∈ before, p x.work = false)

/-- READY stands among the requests of `l` while the port is still to be opened. -/
def State.readyAmong (s : State) (l : List RecordItem) : Prop :=
  (s.phase = .records ∨ s.phase = .hostRecords) ∧ ∃ x ∈ l, x.work = .status .startWord

theorem readyAmong_iff {l : List RecordItem} :
    s.readyAmong l ↔ s.phase.opens = true ∧ l.any (·.work.isReady) = true := by
  simp only [State.readyAmong, opens_iff, List.any_eq_true, RecordWork.isReady, beq_iff_eq]

theorem completeRow_of_none (h : ∀ x ∈ s.mc.records, p x.work = false) : s.completeRow p = s := by
  have none : readyBefore p s.mc.records = false := by
    unfold readyBefore
    rw [List.findIdx?_eq_none_iff.2 h]
    split
    · next h => cases h
    · rfl
  rw [completeRow_of_before none, completeThrough_of_none h]

include hl hp hb

/-- A request that READY does not precede is completed with all that stands before it. -/
theorem completeRow_of_first (hr : ¬ s.readyAmong before) : s.completeRow p = s.completeItems (before.length + 1) := by
  have row : s.completeRow p = s.completeThrough p := by
    by_cases ho : s.phase.opens = true
    · refine completeRow_of_before ?_
      rw [readyBefore_of_first hl hp hb, ← Bool.not_eq_true]
      exact fun h => hr (readyAmong_iff.2 ⟨ho, h⟩)
    · exact completeRow_of_open (Bool.eq_false_iff.2 ho) p
  rw [row, completeThrough_of_first hl hp hb]

/-- Behind READY it is completed as by its row after the opening of the port. -/
theorem completeRow_of_ready (hr : s.readyAmong before) : s.completeRow p = s.writeReady.completeRow p := by
  obtain ⟨opens, ready⟩ := readyAmong_iff.1 hr
  have opened : s.writeReady.phase.opens = false := by
    unfold State.writeReady
    rw [if_pos opens, openPort_opens]
  rw [completeRow_of_behind ((readyBefore_of_first hl hp hb).trans ready), completeRow_of_open opened]

end Rows

/-! ## READY's write leaves the slot that is to be posted (R159, R181) -/

theorem isPosting_of_isEvent {x : RecordItem} (h : x.isEvent = false) : x.work.isPosting = false := by
  match hw : x.work with
  | .posting n c => simp [RecordItem.isEvent, hw] at h
  | .event _ _ | .status _ | .image _ | .wholeImage _ | .meterTable _ | .cueRead | .cueMark | .stageRead | .orphan => rfl

/-- The completion of READY posts no record where no event record stands before it. -/
theorem completeReady_written {before : List RecordItem} (hl : s.mc.records = before ++ rest)
    (hr : ∃ x ∈ before, x.work = .status .startWord) (he : ∀ x ∈ before, x.isEvent = false) :
    (s.completeThrough RecordWork.isReady).ru.written = s.ru.written := by
  obtain ⟨x, hx, ready⟩ := hr
  obtain ⟨as, bs, parts, first⟩ := List.eq_append_cons_of_mem (List.mem_map.2 ⟨x, hx, ready⟩)
  obtain ⟨a, l, rfl, rfl, hl'⟩ := List.map_eq_append_iff.1 parts
  obtain ⟨y, b, rfl, hy, rfl⟩ := List.map_eq_cons_iff.1 hl'
  have through := completeThrough_of_first (s := s) (p := RecordWork.isReady) (before := a) (it := y) (rest := b ++ rest)
    (by rw [hl, List.append_assoc, List.cons_append]) (by rw [hy]; rfl)
    fun z hz => Bool.eq_false_iff.2 fun h => first (List.mem_map.2 ⟨z, hz, by simpa [RecordWork.isReady] using h⟩)
  have written := completeItems_written ((a ++ [y]).map (·.work)) s
    ⟨(b ++ rest).map (·.work), by simp [State.recordWorks, hl]⟩ fun w hw => by
      obtain ⟨z, hz, rfl⟩ := List.mem_map.1 hw
      exact isPosting_of_isEvent (he z (by simp at hz ⊢; tauto))
  rw [through, ← written, List.length_map, List.length_append, List.length_singleton]

theorem abandon_work {l : List RecordItem} {x : RecordItem} (h : x ∈ abandon l) : x.work = .orphan := by
  obtain ⟨y, -, rfl⟩ := List.mem_map.1 h
  rfl

theorem resetBlocks_records (s : State) : s.resetBlocks.mc.records = abandon s.mc.records := rfl

/-- After READY's write the same slot is to be posted, or a host reset has left no record to write. -/
theorem writeReady_slot {before : List RecordItem} (hl : s.mc.records = before ++ rest) (hr : s.readyAmong before)
    (he : ∀ x ∈ before, x.isEvent = false) :
    s.writeReady.ru.written = s.ru.written ∨ ∀ n, ∀ x ∈ s.writeReady.mc.records, x.work.isSlot n = false := by
  have write : s.writeReady = (s.completeThrough RecordWork.isReady).openPort := if_pos ((opens_iff _).2 hr.1)
  rw [write]
  rcases openPort_cases (s.completeThrough RecordWork.isReady) with ⟨-, -, reset⟩ | ⟨-, opened⟩
  · rw [reset]
    exact .inr fun n x hx => by rw [abandon_work (resetBlocks_records _ ▸ hx)]; rfl
  · rw [opened]
    exact .inl (completeReady_written hl hr.2 he)

/-! ## The rows (R131, R149, R159) -/

theorem isSlot_iff {n : BitVec 10} {w : RecordWork} : w.isSlot n = true ↔ ∃ c, w = .event n c ∨ w = .posting n c := by
  cases w <;> simp [RecordWork.isSlot]

theorem isSlot_eq_false {n : BitVec 10} {w : RecordWork} (h : ¬ ∃ c, w = .event n c ∨ w = .posting n c) :
    w.isSlot n = false := Bool.eq_false_iff.2 fun e => h (isSlot_iff.1 e)

/-- The row of an event record: its request and its posting. -/
def State.slotRow (s : State) (n : BitVec 10) : State := (s.completeRow (·.isSlot n)).completeRow (·.isSlot n)

theorem exec_eventRecordWritten (h : s.phase ≠ .held) : exec .eventRecordWritten s = .next (s.slotRow s.ru.written) :=
  congrArg _ (if_neg h)

theorem exec_meterTableWritten (h : s.phase ≠ .held) (l : Fin 8) :
    exec (.meterTableWritten l) s = .next (s.completeRow (· == .meterTable l)) := congrArg _ (if_neg h)

/-- The request is for an image of the port. -/
def RecordWork.isImage (p : Fin 2) (w : RecordWork) : Bool := w == .image p || w == .wholeImage p

theorem isImage_iff {p : Fin 2} {w : RecordWork} : w.isImage p = true ↔ w = .image p ∨ w = .wholeImage p := by
  simp [RecordWork.isImage]

theorem isImage_eq_false {p : Fin 2} {w : RecordWork} (h : ¬ (w = .image p ∨ w = .wholeImage p)) : w.isImage p = false :=
  Bool.eq_false_iff.2 fun e => h (isImage_iff.1 e)

theorem exec_surfaceImageWritten (h : s.phase ≠ .held) (p : Fin 2) :
    exec (.surfaceImageWritten p) s = .next (s.completeRow (·.isImage p)) := congrArg _ (if_neg h)

theorem writeReady_notHeld (h : s.phase ≠ .held) : s.writeReady.phase ≠ .held := by
  unfold State.writeReady
  split
  · rcases openPort_cases (s.completeThrough RecordWork.isReady) with ⟨-, -, e⟩ | ⟨-, e⟩ <;> rw [e] <;> simp
  · exact h

/-- R159: behind READY the row of an event record is that row after the opening of the port. -/
theorem slotRow_of_ready {before : List RecordItem} (hl : s.mc.records = before ++ it :: rest)
    (hs : it.work.isSlot s.ru.written = true) (he : ∀ x ∈ before, x.isEvent = false) (hr : s.readyAmong before) :
    s.slotRow s.ru.written = s.writeReady.slotRow s.writeReady.ru.written := by
  have others : ∀ x ∈ before, x.work.isSlot s.ru.written = false := fun x hx => isSlot_eq_false fun ⟨c, h⟩ => by
    have := he x hx
    rcases h with h | h <;> simp [RecordItem.isEvent, h] at this
  have row : s.slotRow s.ru.written = s.writeReady.slotRow s.ru.written := by
    unfold State.slotRow
    rw [completeRow_of_ready hl hs others hr]
  rw [row]
  rcases writeReady_slot hl hr he with same | none
  · rw [same]
  · unfold State.slotRow
    rw [completeRow_of_none (none _), completeRow_of_none (none _), completeRow_of_none (none _),
      completeRow_of_none (none _)]

end Sys2Proof.Machine

namespace Sys2Proof.Proofs

open Sys2Proof.Machine

/-- Settles O23: the rows before and behind READY, the grants to Record by the head of the order, and the completion of the
head by induction on its transactions. -/
theorem recordWritesKeepTheirOrder : Obligations.RecordWritesKeepTheirOrder := by
  refine ⟨fun s before rest it held hl => ⟨fun hr => ⟨fun hs hb => ?_, fun p hi hb => ?_, fun l hi hb => ?_⟩,
      fun u hr hu => ?_⟩,
    fun s => ⟨fun it rest w v ws hr hb hw => ?_, fun id b es rest w hr => ?_, fun b es rest hr => ?_, fun n hr hn => ?_,
      fun n => rfl, rfl⟩,
    fun s => ⟨fun hr => ?_, fun it rest hr => ?_⟩⟩
  · have first := completeRow_of_first hl (isSlot_iff.2 hs) (fun x hx => isSlot_eq_false (hb x hx)) hr
    have phase := (completeItems_frame (before.length + 1) s).phase
    refine ⟨fun none => ?_, fun a y b hu hy ha hra => ?_⟩
    all_goals rw [exec_eventRecordWritten held, State.slotRow, first]
    · rw [completeRow_of_none fun x hx => isSlot_eq_false (none x hx)]
    · rw [completeRow_of_first hu (isSlot_iff.2 hy) (fun x hx => isSlot_eq_false (ha x hx))
        (by rwa [State.readyAmong, phase])]
  · rw [exec_surfaceImageWritten held,
      completeRow_of_first hl (isImage_iff.2 hi) (fun x hx => isImage_eq_false (hb x hx)) hr]
  · rw [exec_meterTableWritten held,
      completeRow_of_first (p := (· == .meterTable l)) hl (beq_iff_eq.2 hi)
        (fun x hx => beq_eq_false_iff_ne.2 (hb x hx)) hr]
  · rw [exec_passPortOpen held] at hu
    cases hu
    have opened := writeReady_notHeld held
    refine ⟨fun hs he => ?_, fun p hi hb => ?_, fun l hi hb => ?_⟩
    · rw [exec_eventRecordWritten held, exec_eventRecordWritten opened, slotRow_of_ready hl (isSlot_iff.2 hs) he hr]
    · rw [exec_surfaceImageWritten held, exec_surfaceImageWritten opened,
        completeRow_of_ready hl (isImage_iff.2 hi) (fun x hx => isImage_eq_false (hb x hx)) hr]
    · rw [exec_meterTableWritten held, exec_meterTableWritten opened,
        completeRow_of_ready (p := (· == .meterTable l)) hl (beq_iff_eq.2 hi)
          (fun x hx => beq_eq_false_iff_ne.2 (hb x hx)) hr]
  · exact (grantRecord_of_begun hr hb).trans (grantBegun_of_more hw)
  · exact grantRecord_of_status hr
  · exact grantRecord_of_read hr
  · exact grantRecord_of_scrub hr hn
  · unfold State.completeHead; rw [hr]
  · obtain ⟨n, done, between⟩ := completeHead_leavesAfter hr
    obtain ⟨more, behind⟩ := completeHead_works hr
    exact ⟨n, done, between, more, behind.symm⟩

end Sys2Proof.Proofs
end

-- ==== Proofs of the family 04: the counts and the boundary in hand ====
section
/-! Where a frame count moves, and that no boundary is left in hand between steps (R72, R73, R178). -/

namespace Sys2Proof.Machine

variable {s t u : State}

/-- From `s` to `t` every frame count stands, and no lane has come to have a boundary to take. -/
structure CountsStand (s t : State) : Prop where
  counts : ∀ d, (t.domain d).count = (s.domain d).count
  hand : ∀ l, l ∈ t.li.atBoundary → l ∈ s.li.atBoundary

theorem CountsStand.trans (a : CountsStand s t) (b : CountsStand t u) : CountsStand s u :=
  ⟨fun d => (b.counts d).trans (a.counts d), fun l h => a.hand l (b.hand l h)⟩

theorem CountsStand.of_blocks (hcb : t.cb.domains = s.cb.domains) (hli : t.li.atBoundary = s.li.atBoundary) :
    CountsStand s t :=
  ⟨fun d => congrArg (fun x => (x[d] : Domain).count) hcb, fun l h => hli ▸ h⟩

/-- A change outside the domains and the boundary in hand may stand before. -/
theorem CountsStand.after (h : CountsStand t u) (hcb : t.cb.domains = s.cb.domains)
    (hli : t.li.atBoundary = s.li.atBoundary) : CountsStand s u := (CountsStand.of_blocks hcb hli).trans h

theorem CountsStand.refl (s : State) : CountsStand s s := .of_blocks rfl rfl

theorem Drops.stand (h : Drops s t) : CountsStand s t := ⟨h.counts, h.hand⟩

theorem Keeps.stand (h : Keeps s t) : CountsStand s t := h.toDrops.stand

theorem Takes.stand (h : Takes s t) : CountsStand s t := ⟨h.counts, h.hand⟩

theorem CountsStand.ite {b : Prop} [Decidable b] (ht : CountsStand s t) (hu : CountsStand s u) :
    CountsStand s (if b then t else u) := by
  split
  · exact ht
  · exact hu

/-! ## The opening of the port and the host reset (R179 to R181) -/

/-- R180: a host reset leaves the Clock Block alone. -/
theorem resetBlocks_stand (s : State) : CountsStand s s.resetBlocks := .of_blocks rfl rfl

theorem openPort_stand (s : State) : CountsStand s s.openPort := by
  rcases openPort_cases s with ⟨-, -, e⟩ | ⟨-, e⟩ <;> rw [e]
  · exact resetBlocks_stand s
  · exact .of_blocks rfl rfl

theorem openWhenReady_stand (s : State) : CountsStand s s.openWhenReady := .ite (openPort_stand s) (.refl s)

theorem writeReady_stand (s : State) : CountsStand s s.writeReady :=
  .ite ((keeps_completeThrough (.refl s) _).stand.trans (openPort_stand _)) (.refl s)

theorem completeRow_stand (s : State) (p : RecordWork → Bool) : CountsStand s (s.completeRow p) :=
  (CountsStand.ite (writeReady_stand s) (.refl s)).trans (keeps_completeThrough (.refl _) p).stand

/-! ## Every command (R72, R73) -/

/-- Time passes, and a powered part acts. -/
theorem powered_stand {f : State → State} (he : powered u f = .next t) (hf : ∀ v, CountsStand v (f v)) :
    CountsStand u t := by
  unfold powered at he
  split at he <;> cases he
  · exact .refl _
  · exact hf _

theorem applyIfReached_stand (c : Cue) (s : State) : CountsStand s (s.applyIfReached c) :=
  (drops_applyIfReached (.refl s) c).stand

/-- R72: a command at which no boundary is taken leaves the counts alone. -/
theorem exec_stand {c : Instr} (hc : c.movesCounts = false) (he : exec c s = .next t) : CountsStand s t := by
  have later {n : Nat} {v : State} (h : CountsStand (s.elapse n) v) : CountsStand s v :=
    h.after rfl rfl
  cases c with
    dsimp only [exec, execPassTransaction, execPlaybackRingWrite, execCaptureRingRead, execCuePostMarkWrite,
      execEventTakeMarkWrite, execAttentionMaskWrite, execStampDomainWrite, execGroupReferenceSelectWrite,
      execFaderWindowWrite, execLadderBindingWrite, execEncoderNotifyMaskWrite, execLampRowWrite,
      execThresholdWordWrite, execCueTake, execStartStream, execStopStream, execSwapRing, execSwitchReference,
      execSetRate, execStopDomain, execAssignLane, execLaneCommand, execSetOutput, execMotorTarget, execMotorFree,
      execMark, execOscillatorRunning, execSettleWindowEnd, execOutputRise, execOutputFall, execInputStatusPeriodic,
      execSurfaceCounterPeriodic, execLaneFrameReceived, execMemoryArbitration, execRefreshInterval, execStreamFetch,
      execStreamStore, execEventRecordWritten, execMeterTableWritten, execSurfaceImageWritten, execAnnounce,
      execButtons, execFaderReport, execEncoderReport, execIdleReport, execSurfaceSilenceTimeout,
      execSurfaceCommandSent, execPornRelease, execSdramBringUp, execStartUpScrubComplete, execPassPortOpen,
      execHrstnAssert, execHrstnRelease, execHostResetScrubComplete, execMalformedSurfaceMessage] at he
  | frameBoundary | retrainCountdownEnd | wordClockEdge | inputAbsent | pornAssert => cases hc
  | passTransaction | playbackRingWrite | captureRingRead =>
    exact powered_stand he fun v => (keeps_passTake (.refl v) _ _).stand
  | cuePostMarkWrite | eventTakeMarkWrite | attentionMaskWrite | stampDomainWrite | groupReferenceSelectWrite
  | faderWindowWrite | ladderBindingWrite | encoderNotifyMaskWrite | lampRowWrite | thresholdWordWrite =>
    exact powered_stand he fun v => (keeps_blockTake (.refl v) _ _).stand
  | cueTake =>
    refine later (powered_stand he fun v => ?_)
    split
    · next taking => exact (takes_takeCue (.refl v) taking).stand
    · exact .refl v
  | startStream | stopStream | swapRing | setRate | assignLane | laneCommand | setOutput | motorTarget | motorFree
  | mark => exact powered_stand he (applyIfReached_stand _)
  | switchReference => exact later (powered_stand he (applyIfReached_stand _))
  | stopDomain =>
    refine later (powered_stand he fun v => .ite ?_ (applyIfReached_stand _ v))
    exact (applyIfReached_stand _ v).trans (drops_flushStopped (.refl _) _).stand
  | oscillatorRunning =>
    refine later (powered_stand he fun v => ?_)
    split
    · exact .ite (carries_oscillatorUp _ _ v).stand (.refl v)
    · exact .refl v
  | settleWindowEnd => exact later (powered_stand he fun v => (keeps_windowOver (.refl v) _ _).stand)
  | outputRise | outputFall =>
    refine later (powered_stand he fun v => ?_)
    split
    · exact .refl v
    · exact .ite (keeps_putOutput (.refl v) _ _).stand (.refl v)
  | inputStatusPeriodic =>
    refine later (powered_stand he fun v => ?_)
    split
    · exact .refl v
    · exact (keeps_requestAll (.refl _) _).stand.after rfl rfl
  | surfaceCounterPeriodic => exact later (powered_stand he fun v => (keeps_requestImage (.refl v) _ _).stand)
  | laneFrameReceived => exact powered_stand he fun v => (keeps_frameArrives (.refl v) _ _).stand
  | memoryArbitration =>
    exact powered_stand he fun v => (keeps_arbitrate (.refl v)).stand.trans (openWhenReady_stand _)
  | refreshInterval =>
    refine later (powered_stand he fun v => ?_)
    split
    · exact .refl v
    · exact .ite (.of_blocks rfl rfl) (.refl v)
  | streamFetch =>
    exact powered_stand he fun v => .ite (keeps_fetchFrame (keeps_serveStream (.refl v) _ _) _ _).stand (.refl v)
  | streamStore =>
    exact powered_stand he fun v => .ite (keeps_storeFrame (keeps_serveStream (.refl v) _ _) _ _).stand (.refl v)
  | eventRecordWritten => exact powered_stand he fun v => (completeRow_stand v _).trans (completeRow_stand _ _)
  | meterTableWritten | surfaceImageWritten => exact powered_stand he fun v => completeRow_stand v _
  | announce | buttons | faderReport | encoderReport | idleReport =>
    exact later (powered_stand he fun v => (keeps_surfaceMessage (.refl v) _ _).stand)
  | malformedSurfaceMessage => exact powered_stand he fun v => (keeps_surfaceMessage (.refl v) _ _).stand
  | surfaceSilenceTimeout =>
    exact later (powered_stand he fun v => .ite (keeps_goDown (.refl v) _).stand (.refl v))
  | surfaceCommandSent => exact powered_stand he fun v => .ite (.of_blocks rfl rfl) (.refl v)
  | pornRelease => cases he; exact .ite (.of_blocks rfl rfl) (.of_blocks rfl rfl)
  | sdramBringUp => exact later (powered_stand he fun v => .ite (.of_blocks rfl rfl) (.refl v))
  | startUpScrubComplete =>
    refine powered_stand he fun v => .ite ?_ (.refl v)
    have asked := keeps_request (keeps_requestImage (keeps_requestImage
      (keeps_requestAll (.refl (v.scrubbed .records)) rewriteOrder) 0 []) 1 []) .startWord
    exact asked.stand.after rfl rfl
  | passPortOpen => exact powered_stand he writeReady_stand
  | hrstnAssert =>
    have pin : CountsStand s { s with hrstn := true } := .of_blocks rfl rfl
    split at he <;> cases he
    · exact pin.trans ((keeps_finishInHand (.refl _)).stand.trans (resetBlocks_stand _))
    · exact pin.trans (resetBlocks_stand _)
    · exact pin.trans (resetBlocks_stand _)
    · exact pin.trans (resetBlocks_stand _)
    all_goals exact pin
  | hrstnRelease => cases he; exact .ite (.of_blocks rfl rfl) (.of_blocks rfl rfl)
  | hostResetScrubComplete =>
    refine powered_stand he fun v => .ite ?_ (.refl v)
    have asked := keeps_request (keeps_requestAll
      (keeps_restoreMeters (keeps_restoreSurfaces (.refl (v.scrubbed .hostRecords)))) rewriteOrder) .startWord
    exact asked.stand.after rfl rfl

/-- R73: a command that takes a boundary takes it whole. -/
theorem exec_hand_empty {c : Instr} (he : exec c s = .next t) (h : s.li.atBoundary = []) : t.li.atBoundary = [] := by
  have of_subset (sub : ∀ l, l ∈ t.li.atBoundary → l ∈ s.li.atBoundary) : t.li.atBoundary = [] :=
    List.eq_nil_iff_forall_not_mem.2 fun l hl => List.not_mem_nil (h ▸ sub l hl)
  cases hc : mayTurnPhase c with
  | false =>
    obtain ⟨n, kept, -⟩ := exec_carries hc he
    exact of_subset kept.hand
  | true =>
    cases hm : c.movesCounts with
    | false => exact of_subset (exec_stand hm he).hand
    | true =>
      cases c with
      | pornAssert => cases he; rfl
      | frameBoundary | retrainCountdownEnd | wordClockEdge | inputAbsent => cases hc
      | _ => cases hm

end Sys2Proof.Machine

namespace Sys2Proof.Proofs

open Sys2Proof.Machine

/-- Settles O9: a step is its front command, which leaves no boundary in hand. -/
theorem noBoundaryInHandBetweenSteps : Obligations.NoBoundaryInHandBetweenSteps := by
  intro s t a h
  unfold step at h
  split at h
  · cases h; exact a
  · exact exec_hand_empty h a

/-- Settles O10: command by command, what each operation keeps of the counts. -/
theorem onlyBoundariesMoveCounts : Obligations.OnlyBoundariesMoveCounts := fun _ _ _ hc he =>
  (exec_stand hc he).counts

end Sys2Proof.Proofs
end

-- ==== Proofs of the family 04: the boundary taken ====
section
/-! A due boundary: its time, the rise of the count, the order of the parts and the tick (R72 to R74). -/

namespace Sys2Proof.Machine

variable {s : State} {d : Fin 4}

/-! ## The time of a due boundary (R72, R94) -/

/-- R72: the boundary that falls is the one that is due. -/
theorem boundaryDue_of_falls {t : Nat} {y : Domain} (h : boundaryFalls (s.domain d) (s.edgeOf d) s.mclk t y) :
    s.boundaryDue d = some (t, y) := by
  unfold State.boundaryDue
  dsimp only
  rcases h with ⟨run, ref, rfl, rfl⟩ | ⟨run, ref, owed, rfl, rfl⟩ | ⟨m, run, good, rfl, due, rfl⟩
  · rcases ref with ref | ref <;> simp only [run, ref, Option.bind_some, Source.input]
  · unfold State.edgeOf
    rcases ref with ref | ref <;> simp only [run, ref, Option.bind_some, Source.input] <;> rw [if_pos owed] <;> rfl
  · have time : (s.domain d).holdoverDue d = (s.domain d).holdStart + ((s.domain d).holdIndex + 1) * m / 64 := by
      unfold Domain.holdoverDue Domain.runCycles
      rw [good]; rfl
    simp only [run, time]
    exact if_pos due

theorem boundary_of_falls {t : Nat} {y : Domain} (h : boundaryFalls (s.domain d) (s.edgeOf d) s.mclk t y)
    (order : List BoundaryPart) : s.boundary d order = (s.setDomain d y).takeBoundary d t order := by
  unfold State.boundary
  rw [boundaryDue_of_falls h]

/-- R72: a STOPPED domain takes no boundary. -/
theorem boundary_of_stopped (h : (s.domain d).run = .stopped) (order : List BoundaryPart) : s.boundary d order = s := by
  unfold State.boundary State.boundaryDue
  simp only [h]

theorem exec_frameBoundary {dt : Nat} {order : List BoundaryPart} (hp : s.phase ≠ .held) :
    exec (.frameBoundary d dt order) s = .next ((s.elapse dt).boundary d order) := congrArg _ (if_neg hp)

theorem exec_frameBoundary_stopped {dt : Nat} {order : List BoundaryPart} (h : (s.domain d).run = .stopped) :
    exec (.frameBoundary d dt order) s = .next (s.elapse dt) := by
  refine congrArg _ (ite_eq_left_iff.2 fun _ => ?_)
  exact boundary_of_stopped (s := s.elapse dt) h order

theorem takeBoundary_mclk (s : State) (d : Fin 4) (t : Nat) (order : List BoundaryPart) :
    (s.takeBoundary d t order).mclk = s.mclk := (runs_takeBoundary (.refl s) d t order).mclk

/-- R72: a boundary leaves the word clock inputs alone. -/
theorem takeBoundary_input (s : State) (d : Fin 4) (t : Nat) (order : List BoundaryPart) (w : Fin 2) :
    (s.takeBoundary d t order).input w = s.input w := congrArg (·[w]) (drops_takeBoundary s d t order).inputs

/-! ## The count (R72) -/

theorem count1_of_locked {x : Domain} (h : x.run ≠ .holdover) (d : Fin 4) (t : Nat) :
    x.count1 d t = { x with count := x.count + 1, lastBoundary := t, afterSwitch := none } := if_neg h

/-- R72: a holdover run goes on by one frame. -/
theorem count1_within {x : Domain} (h : x.run = .holdover) (hi : x.holdIndex + 1 < 64) (d : Fin 4) (t : Nat) :
    x.count1 d t = { x with
      count := x.count + 1, lastBoundary := t, afterSwitch := none, holdIndex := x.holdIndex + 1 } :=
  (if_pos h).trans (if_pos hi)

/-- R72: the next holdover run starts M cycles after the one that ends. -/
theorem count1_ends {x : Domain} {m : Nat} (h : x.run = .holdover) (hi : 64 ≤ x.holdIndex + 1)
    (hm : x.lastGood = some m) (d : Fin 4) (t : Nat) : x.count1 d t = { x with
      count := x.count + 1, lastBoundary := t, afterSwitch := none, holdIndex := 0, holdStart := x.holdStart + m } := by
  have cycles : x.runCycles d = m := by unfold Domain.runCycles; rw [hm]; rfl
  refine (if_pos h).trans ((if_neg (Nat.not_lt.2 hi)).trans ?_)
  rw [cycles]

/-! ## The order of the parts (R73) -/

theorem eraseDups_nodup {α : Type} [DecidableEq α] : ∀ l : List α, l.eraseDups.Nodup
  | [] => by simp
  | a :: l => by
    have ih := eraseDups_nodup (l.filter (fun b => !b == a))
    rw [List.eraseDups_cons]
    exact List.nodup_cons.2 ⟨by simp [List.mem_eraseDups], ih⟩
termination_by l => l.length
decreasing_by exact Nat.lt_succ_of_le (List.length_filter_le _ _)

theorem eraseDups_of_nodup {α : Type} [DecidableEq α] : ∀ {l : List α}, l.Nodup → l.eraseDups = l
  | [], _ => rfl
  | a :: l, h => by
    obtain ⟨first, rest⟩ := List.nodup_cons.1 h
    have others : l.filter (fun b => !b == a) = l :=
      List.filter_eq_self.2 fun b hb => by simpa using fun e : b = a => first (e ▸ hb)
    rw [List.eraseDups_cons, others, eraseDups_of_nodup rest]

theorem mem_partOrder (p : BoundaryPart) (order : List BoundaryPart) : p ∈ partOrder order := by
  have default : p ∈ defaultParts := by
    unfold defaultParts indices
    cases p <;> simp
  exact List.mem_eraseDups.2 (List.mem_append_right _ default)

theorem partOrder_nodup (order : List BoundaryPart) : (partOrder order).Nodup := eraseDups_nodup _

/-- The parts named come first. -/
theorem partOrder_starts {order : List BoundaryPart} (h : order.Nodup) : order <+: partOrder order := by
  unfold partOrder
  rw [List.eraseDups_append, eraseDups_of_nodup h]
  exact List.prefix_append _ _

theorem boundaryPart_eq_blockTakes (d : Fin 4) (ticks : Bool) :
    State.boundaryPart d ticks = State.blockTakes d ticks := by
  funext u p
  cases p with
  | lane l => rfl
  | cues => rfl
  | output o =>
    by_cases h : (u.domain d).run = .stopped <;> simp [State.boundaryPart, State.blockTakes, Domain.running, h]
  | tick =>
    by_cases h : (u.domain d).run = .stopped <;> simp [State.boundaryPart, State.blockTakes, Domain.running, h]
    cases ticks <;> rfl

/-! ## The tick (R74) -/

theorem runWatches_blocks (s : State) (l : Fin 8) (d : Fin 4) (c closing : Word) (n : Nat) :
    (s.runWatches l d c closing n).1.cb = s.cb ∧ (s.runWatches l d c closing n).1.li = s.li := by
  unfold State.runWatches
  refine List.foldlRecOn (motive := fun r : State × List Event => r.1.cb = s.cb ∧ r.1.li = s.li) _ _ ⟨rfl, rfl⟩
    fun r hr i _ => ?_
  split
  · exact hr
  · exact hr

theorem handLevels_blocks (s : State) (l : Fin 8) (level : Fin 64 → BitVec 4) :
    (s.handLevels l level).cb = s.cb ∧ (s.handLevels l level).li = s.li := by
  unfold State.handLevels
  refine List.foldlRecOn (motive := fun u : State => u.cb = s.cb ∧ u.li = s.li) _ _ ⟨rfl, rfl⟩ fun u hu p _ => ?_
  unfold State.handLevelsTo
  dsimp only
  split
  · exact hu
  · split <;> simpa [State.putPort] using hu

/-- R148: the closing of a window leaves the Clock Block and the lanes alone. -/
theorem closeWindow_blocks (s : State) (d : Fin 4) (l : Fin 8) :
    (s.closeWindow d l).cb = s.cb ∧ (s.closeWindow d l).li = s.li := by
  have watched : (if (s.window l).good = 0 then (s, []) else
      s.runWatches l d (s.domain d).count ((s.window l).closing + 1) (s.capacity l)).1.cb = s.cb ∧
      (if (s.window l).good = 0 then (s, []) else
      s.runWatches l d (s.domain d).count ((s.window l).closing + 1) (s.capacity l)).1.li = s.li := by
    split
    · exact ⟨rfl, rfl⟩
    · exact runWatches_blocks s l d _ _ _
  unfold State.closeWindow State.clearWindow
  simpa [handLevels_blocks] using watched

/-- From `s` to `t` the Clock Block and the domains of the lanes stand. -/
structure AssignmentsStand (s t : State) : Prop where
  cb : t.cb = s.cb
  lanes : ∀ l, (t.lane l).domain = (s.lane l).domain

theorem AssignmentsStand.trans {t u : State} (a : AssignmentsStand s t) (b : AssignmentsStand t u) :
    AssignmentsStand s u := ⟨b.cb.trans a.cb, fun l => (b.lanes l).trans (a.lanes l)⟩

theorem AssignmentsStand.of_blocks {t : State} (hcb : t.cb = s.cb) (hli : t.li = s.li) : AssignmentsStand s t :=
  ⟨hcb, fun l => congrArg (fun x => (x.lanes[l] : Lane).domain) hli⟩

theorem AssignmentsStand.request (s : State) (id : RecordId) : AssignmentsStand s (s.request id) :=
  .of_blocks (State.request_cb s id) (State.request_li s id)

theorem AssignmentsStand.foldl {α : Type} {f : State → α → State} (h : ∀ s a, AssignmentsStand s (f s a)) (l : List α)
    (s : State) : AssignmentsStand s (l.foldl f s) :=
  foldl_related (R := AssignmentsStand) (fun _ => ⟨rfl, fun _ => rfl⟩) .trans h l s

/-- R121: at a tick a lane may be late once more, and its record is written. -/
def State.laneTicked (s : State) (l : Fin 8) : State :=
  (s.setLane l { s.lane l with lateOut := true, lateIn := true }).request (.lane l)

theorem AssignmentsStand.laneTicked (s : State) (l : Fin 8) : AssignmentsStand s (s.laneTicked l) := by
  have set : AssignmentsStand s (s.setLane l { s.lane l with lateOut := true, lateIn := true }) := by
    refine ⟨rfl, fun k => ?_⟩
    by_cases h : l = k
    · subst h; rw [State.lane_setLane_self]
    · rw [State.lane_setLane_of_ne s _ h]
  exact set.trans (.request _ _)

theorem AssignmentsStand.closeWindow (s : State) (d : Fin 4) (l : Fin 8) : AssignmentsStand s (s.closeWindow d l) :=
  .of_blocks (closeWindow_blocks s d l).1 (closeWindow_blocks s d l).2

theorem lanesOf_of_assignments {t : State} (h : ∀ l, (t.lane l).domain = (s.lane l).domain) (d : Fin 4) :
    t.lanesOf d = s.lanesNumbered d := by
  simp only [State.lanesOf, State.lanesNumbered, h, indices]

theorem AssignmentsStand.lanesOf {t : State} (h : AssignmentsStand s t) (d : Fin 4) :
    t.lanesOf d = s.lanesNumbered d := lanesOf_of_assignments h.lanes d

theorem streamsOf_request (s : State) (id : RecordId) (d : Fin 4) :
    (s.request id).streamsOf d = (List.finRange 32).filter (s.isStreamOf d) := by
  refine List.filter_congr fun i _ => ?_
  simp only [State.isStreamOf, State.request_stream, State.request_lane]

/-- A fold with a condition that no step changes is the fold over what meets it. -/
theorem foldl_filter_of_stable {α : Type} {f : State → α → State} {p : State → α → Bool}
    (h : ∀ s a b, p (f s a) b = p s b) : ∀ (l : List α) (s : State),
      l.foldl (fun u a => if p u a then f u a else u) s = (l.filter (p s)).foldl f s
  | [], _ => rfl
  | a :: l, s => by
    rw [List.foldl_cons, List.filter_cons]
    split
    · rw [foldl_filter_of_stable h l, List.foldl_cons, funext (h s a)]
    · exact foldl_filter_of_stable h l s

/-- R100: the output belongs to the domain and is not OFF. -/
def State.outputShown (d : Fin 4) (s : State) (o : Fin 4) : Bool :=
  (s.output o).settings.domain == d && (s.output o).state != .off

theorem requestOutputs_eq (s : State) (d : Fin 4) :
    s.requestOutputs d = ((List.finRange 4).filter (s.outputShown d)).foldl (fun u o => u.request (.output o)) s := by
  have stable (u : State) (o p : Fin 4) : (u.request (.output o)).outputShown d p = u.outputShown d p := by
    simp [State.outputShown]
  have folded := foldl_filter_of_stable (f := fun u o => u.request (.output o)) (p := State.outputShown d) stable
    (List.finRange 4) s
  rw [← folded]
  unfold State.requestOutputs State.outputShown
  simp only [Bool.and_eq_true, beq_iff_eq, bne_iff_ne]
  rfl

theorem outputShown_congr {t : State} (h : t.cb = s.cb) : t.outputShown d = s.outputShown d := by
  funext o
  simp only [State.outputShown, State.output, h]

/-- R74, R100, R121, R148: the groups of a tick, each over what the domain has at the tick. -/
theorem tick_eq (s : State) (d : Fin 4) :
    let live := ((List.finRange 32).filter (s.isStreamOf d)).foldl (fun u i => u.request (.live i))
      (s.request (.domain d))
    let allowed := (s.lanesNumbered d).foldl State.laneTicked live
    let closed := (s.lanesNumbered d).foldl (fun u l => u.closeWindow d l) allowed
    s.tick d = ((List.finRange 4).filter (s.outputShown d)).foldl (fun u o => u.request (.output o)) closed := by
  intro live allowed closed
  have toLive : AssignmentsStand s live := (AssignmentsStand.request s _).trans (.foldl (fun u _ => .request u _) _ _)
  have toAllowed : AssignmentsStand s allowed := toLive.trans (.foldl .laneTicked _ _)
  have toClosed : AssignmentsStand s closed := toAllowed.trans (.foldl (fun u l => .closeWindow u d l) _ _)
  have made : s.tick d = (closed.requestOutputs d) := by
    show State.requestOutputs (State.closeWindows (List.foldl State.laneTicked (List.foldl _ _ _)
      (State.lanesOf _ d)) d) d = _
    rw [streamsOf_request, toLive.lanesOf]
    show State.requestOutputs (List.foldl _ allowed (allowed.lanesOf d)) d = _
    rw [toAllowed.lanesOf]
  rw [made, requestOutputs_eq, outputShown_congr toClosed.cb]

end Sys2Proof.Machine

namespace Sys2Proof.Proofs

open Sys2Proof.Machine

/-- Settles O11: the time of a due boundary, the count, the parts in their order and the tick, each by its own lemma. -/
theorem boundariesRaiseTheCount : Obligations.BoundariesRaiseTheCount := by
  refine ⟨fun d dt order s hp due => ?_, fun d dt order s h => exec_frameBoundary_stopped h,
    fun d dt order s t y hp falls => ?_, fun d order s t => ?_, fun d s => tick_eq s d⟩
  · obtain ⟨t, y, owed, taken⟩ := boundary_of_due (s := s.elapse dt) due order
    refine ⟨_, exec_frameBoundary hp, ?_⟩
    rw [taken]
    have count : y.count = (s.domain d).count := by rw [owed]; rfl
    refine ⟨takeBoundary_mclk _ d t order, ?_, fun e he => ?_, takeBoundary_input _ d t order⟩
    · rw [takeBoundary_count, if_pos rfl, State.domain_setDomain_self, count]
    · rw [takeBoundary_count, if_neg he, State.domain_setDomain_of_ne _ _ he.symm]; exact BitVec.add_zero _
  · exact (exec_frameBoundary hp).trans (congrArg _ (boundary_of_falls (s := s.elapse dt) falls order))
  · refine ⟨(s.domain d).count1 d t, fun h => count1_of_locked h d t, fun h hi => count1_within h hi d t,
      fun m h hi hm => count1_ends h hi hm d t, partOrder order, partOrder_nodup order, fun p => mem_partOrder p order,
      partOrder_starts, ?_⟩
    rw [takeBoundary_eq]
    unfold State.partsTaken
    rw [boundaryPart_eq_blockTakes]
    rfl

end Sys2Proof.Proofs
end

-- ==== Proofs of the family 04: the domain stage and SWITCH_REFERENCE ====
section
/-! What a domain's stage entry gives (R76, R187), the candidate that is created from it or from a fallback, the candidate
that fails (R77, R79), and SWITCH_REFERENCE by its cases (R76). -/

namespace Sys2Proof.Machine

variable {s t : State} {d : Fin 4} {c : Candidate}

/-! ## The codes of a domain's stage entry (R185, R76) -/

theorem sourceOfCode_iff {b : Byte} {x : Source} : Source.ofCode b = some x ↔
    (b = 1 ∧ x = .int44) ∨ (b = 2 ∧ x = .int48) ∨ (b = 3 ∧ x = .wci0) ∨ (b = 4 ∧ x = .wci1) := by
  unfold Source.ofCode
  split_ifs with h1 h2 h3 h4
  · subst h1; simp [eq_comm]
  · subst h2; simp [eq_comm]
  · subst h3; simp [eq_comm]
  · subst h4; simp [eq_comm]
  · simp only [h1, h2, h3, h4, false_and, or_self]

theorem fallbackOf_iff {b : Byte} {x : Option Source} : fallbackOf b = some x ↔
    (b = 0 ∧ x = none) ∨ (b = 1 ∧ x = some .int44) ∨ (b = 2 ∧ x = some .int48) ∨ (b = 3 ∧ x = some .wci0) ∨
      (b = 4 ∧ x = some .wci1) := by
  unfold fallbackOf
  split_ifs with h
  · subst h; simp [eq_comm]
  · cases x <;> simp only [h, Option.map_eq_some_iff, sourceOfCode_iff, false_and, false_or, reduceCtorEq, and_false,
      exists_false, or_self, Option.some.injEq, exists_eq_right]

theorem familyOfCode_iff {b : Byte} {x : Family} :
    Family.ofCode b = some x ↔ (b = 1 ∧ x = .f441) ∨ (b = 2 ∧ x = .f48) :=
  twoCodes_iff.trans (or_congr and_comm and_comm)

theorem factorOfValue_iff {b : Byte} {x : Factor} : Factor.ofValue b = some x ↔
    (b = 1 ∧ x = .x1) ∨ (b = 2 ∧ x = .x2) ∨ (b = 4 ∧ x = .x4) := by
  unfold Factor.ofValue
  split_ifs with h1 h2 h4
  · subst h1; simp [eq_comm]
  · subst h2; simp [eq_comm]
  · subst h4; simp [eq_comm]
  · simp only [h1, h2, h4, false_and, or_self]

theorem fits_iff (x : Source) (f : Family) :
    x.fits f = true ↔ (f = .f48 → x ≠ .int44) ∧ (f = .f441 → x ≠ .int48) := by
  cases x <;> cases f <;> decide

theorem fallbackFits_iff (x : Option Source) (f : Family) :
    fallbackFits x f = true ↔ (f = .f48 → x ≠ some .int44) ∧ (f = .f441 → x ≠ some .int48) := by
  cases x with
  | none => simp [fallbackFits]
  | some x => simp only [fallbackFits, fits_iff, ne_eq, Option.some.injEq]

theorem tickExpInRange_iff (k : Nat) : tickExpInRange k = true ↔ 4 ≤ k ∧ k ≤ 9 := by simp [tickExpInRange]

/-- The values that a valid stage gives a candidate, each read by its code. -/
structure DomainStage.Gives (g : DomainStage) (c : Candidate) : Prop where
  source : Source.ofCode g.source = some c.source
  fallback : fallbackOf g.fallback = some c.fallback
  family : Family.ofCode g.family = some c.family
  mult : Factor.ofValue g.mult = some c.mult
  fits : c.source.fits c.family = true
  fallbackFits : fallbackFits c.fallback c.family = true
  settle : c.settle = g.settle.toNat ∧ c.settle ≤ 5
  tickExp : c.tickExp = g.tickExp.toNat ∧ 4 ≤ c.tickExp ∧ c.tickExp ≤ 9
  new : c.origin = .switch ∧ c.phase = .starting ∧ c.windowStart = none ∧ c.latest = none

theorem stageCandidate_iff {g : DomainStage} : g.candidate = some c ↔ g.Gives c := by
  unfold DomainStage.candidate
  constructor
  · intro h
    split at h
    · next src fb fam mult hs hf hfam hm =>
      split at h
      · next ok =>
        obtain ⟨fits, fallbackFits, settle, tick⟩ := ok
        cases h
        exact ⟨hs, hf, hfam, hm, fits, fallbackFits, ⟨rfl, settle⟩, ⟨rfl, (tickExpInRange_iff _).1 tick⟩,
          rfl, rfl, rfl, rfl⟩
      · cases h
    · cases h
  · rintro ⟨hs, hf, hfam, hm, fits, fallbackFits, ⟨rs, settle⟩, ⟨rt, tick⟩, ho, hp, hw, hl⟩
    rw [hs, hf, hfam, hm]
    dsimp only
    rw [if_pos ⟨fits, fallbackFits, rs ▸ settle, (tickExpInRange_iff _).2 (rt ▸ tick)⟩]
    obtain ⟨_, _, _, _, _, _, _, _, _, _⟩ := c
    simp_all

/-- R187: the fields of the entry. -/
theorem domainStage_eq (s : State) (d : Fin 4) :
    let word (k : Nat) : Word := s.mem.readWord (s.base + 0x2400 + 16 * d.val + 4 * k)
    let byte (k n : Nat) : Byte := (word k).extractLsb' (8 * n) 8
    s.domainStage d = {
      source := byte 0 0, fallback := byte 0 1, family := byte 0 2, mult := byte 0 3, settle := byte 1 0,
      tickExp := byte 1 1 } := by
  simp only [State.domainStage, Word.byte, Nat.mul_zero, Nat.add_zero, Nat.mul_one]

/-- R71: the streams of a domain. -/
theorem isStreamOf_iff (s : State) (d : Fin 4) (i : Fin 32) : s.isStreamOf d i = true ↔ (s.stream i).state ≠ .idle ∧
    ∃ g, (s.stream i).geom = some g ∧ (g.domain = d ∨ (s.lane g.lane).domain = some d) := by
  unfold State.isStreamOf
  rw [Bool.and_eq_true, bne_iff_ne]
  refine and_congr_right fun _ => ?_
  cases (s.stream i).geom with
  | none => simp
  | some g => simp

theorem streamsOf_isEmpty (s : State) (d : Fin 4) : (s.streamsOf d).isEmpty = false ↔ ∃ i, s.isStreamOf d i = true := by
  simp [State.streamsOf, indices]

/-! ## The creation of a candidate (R77, R79) -/

theorem osc_eq_some_iff (x : Source) (o : Osc) :
    x.osc = some o ↔ x = (match o with | .int44 => .int44 | .int48 => .int48) := by
  cases o <;> cases x <;> decide

theorem input_of_named {x : Source} {w : Fin 2} (h : x = if w = 0 then .wci0 else .wci1) :
    x.osc = none ∧ x.input = some w := by
  rw [h]
  match w with
  | 0 | 1 => exact ⟨rfl, rfl⟩

/-- R77: the candidate is SETTLING from `now` on. -/
def Candidate.settling (c : Candidate) (now : Nat) : Candidate := { c with phase := .settling, windowStart := some now }

/-- R77: the candidate waits for its oscillator. -/
def Candidate.waiting (c : Candidate) : Candidate := { c with phase := .starting, windowStart := none }

/-- R77: a candidate on an oscillator: the oscillators follow their need. -/
theorem createCandidate_of_osc {o : Osc} (h : c.source.osc = some o) (s : State) (d : Fin 4) :
    ∃ u, s.createCandidate d c = u.request (.domain d) ∧
      (s.osc o = .running → DomainTakes d { s.domain d with candidate := some (c.settling s.mclk) } s u) ∧
      (s.osc o ≠ .running → DomainTakes d { s.domain d with candidate := some c.waiting } s u) := by
  have takes (c' : Candidate) := tendOscs_takes s d { s.domain d with candidate := some c' }
  by_cases running : s.osc o = .running
  · refine ⟨_, ?_, fun _ => takes (c.settling s.mclk), fun n => absurd running n⟩
    unfold State.createCandidate
    simp only [h, if_pos running]
    rfl
  · refine ⟨_, ?_, fun r => absurd r running, fun _ => takes c.waiting⟩
    unfold State.createCandidate
    simp only [h, if_neg running]
    rfl

/-- R77: the domain's candidate is SETTLING from this moment on. -/
def State.settles (s : State) (d : Fin 4) (c : Candidate) : State :=
  (s.setDomain d { s.domain d with candidate := some (c.settling s.mclk) }).request (.domain d)

theorem settles_domain (s : State) (d : Fin 4) (c : Candidate) :
    (s.settles d c).domain d = { s.domain d with candidate := some (c.settling s.mclk) } := by
  rw [State.settles, State.request_domain, State.domain_setDomain_self]

theorem settles_domain_of_ne (s : State) {e : Fin 4} (h : e ≠ d) (c : Candidate) :
    (s.settles d c).domain e = s.domain e := by
  rw [State.settles, State.request_domain, State.domain_setDomain_of_ne s _ h.symm]

/-- R77: a candidate on a PRESENT input settles. -/
theorem createCandidate_of_present {w : Fin 2} (h : c.source.osc = none ∧ c.source.input = some w)
    (hw : (s.input w).present = true) : s.createCandidate d c = s.settles d c := by
  unfold State.createCandidate
  simp only [h.1, h.2]
  refine if_pos ?_
  rw [State.request_input]
  exact hw

/-- R77, R79: a candidate on an ABSENT input fails as it is created. -/
theorem createCandidate_of_absent {w : Fin 2} (h : c.source.osc = none ∧ c.source.input = some w)
    (hw : (s.input w).present = false) : s.createCandidate d c = (s.settles d c).failCandidate d .absent 0 := by
  unfold State.createCandidate
  simp only [h.1, h.2]
  refine if_neg ?_
  rw [State.request_input]
  exact Bool.eq_false_iff.1 hw

theorem ofDomain_congr (hr : (t.domain d).run = (s.domain d).run) (hc : (t.domain d).count = (s.domain d).count)
    (k : EventKind) (d0 d1 : Word) (f : Bool) : t.ofDomain k d d0 d1 f = s.ofDomain k d d0 d1 f := by
  have stamp : t.stampOf d = s.stampOf d := by unfold State.stampOf Domain.running; rw [hr, hc]
  unfold State.ofDomain
  rw [stamp]

/-- R79: the failure at the creation leaves the domains as they were, and its report. -/
theorem createCandidate_fails {w : Fin 2} (h : c.source.osc = none ∧ c.source.input = some w)
    (hw : (s.input w).present = false) (hc : (s.domain d).candidate = none) :
    ∃ u, s.createCandidate d c = (u.request (.domain d)).passEvent (s.ofDomain .qualifyFailed d
        (fields [(0, c.source.code), (8, c.origin.code), (16, 1)]) 0 false) ∧
      (∀ e, u.domain e = s.domain e) ∧ ∀ o, oscFollows s u o := by
  have placed := settles_domain s d c
  have candidate : ((s.settles d c).domain d).candidate = some (c.settling s.mclk) := by rw [placed]
  obtain ⟨u, takes, failed⟩ := failCandidate_of_some candidate .absent 0
  have itself : u.domain d = s.domain d := by
    rw [takes.itself, placed]
    generalize s.domain d = x at hc
    rw [← hc]
  refine ⟨u, ?_, fun e => ?_, fun o => ?_⟩
  · rw [createCandidate_of_absent h hw, failed, ofDomain_congr (s := s) (by rw [placed]) (by rw [placed])]
    rfl
  · by_cases he : e = d
    · rw [he, itself]
    · rw [takes.others e he, settles_domain_of_ne s he]
  · refine oscFollows_congr (takes.follows o) ?_ (fun _ => rfl) rfl rfl
    simp [State.settles]

/-! ## SWITCH_REFERENCE applied (R76) -/

/-- R76: the family and multiplier stay as they are. -/
def Candidate.sameRate (c : Candidate) (x : Domain) : Prop := c.family = x.family ∧ c.mult = x.mult

theorem sameRate_iff (c : Candidate) (x : Domain) :
    (c.family == x.family && c.mult == x.mult) = true ↔ c.sameRate x := by simp [Candidate.sameRate]

/-- R76: the domain is LOCKED on the candidate's source, at its rate. -/
def State.alreadyThere (s : State) (d : Fin 4) (c : Candidate) : Prop :=
  (s.domain d).run = .locked ∧ (s.domain d).ref = some c.source ∧ c.sameRate (s.domain d)

/-- R76: the candidate changes the rate of a domain that has streams. -/
def State.rateBlocked (s : State) (d : Fin 4) (c : Candidate) : Prop :=
  ¬ c.sameRate (s.domain d) ∧ ∃ i, s.isStreamOf d i = true

theorem rateBlocked_iff (c : Candidate) : ((c.family == (s.domain d).family && c.mult == (s.domain d).mult) = false ∧
    (s.streamsOf d).isEmpty = false) ↔ s.rateBlocked d c := by
  rw [Bool.eq_false_iff, ne_eq, sameRate_iff, streamsOf_isEmpty]
  rfl

theorem alreadyThere_iff (c : Candidate) : ((s.domain d).run = .locked ∧ (s.domain d).ref = some c.source ∧
    (c.family == (s.domain d).family && c.mult == (s.domain d).mult) = true) ↔ s.alreadyThere d c := by
  rw [sameRate_iff]
  rfl

theorem applySwitch_busy (h : (s.recordRead.domain d).candidate ≠ none) :
    s.applySwitch d = .refused s.recordRead .busy := if_pos (Option.isSome_iff_ne_none.2 h)

section
variable (free : (s.recordRead.domain d).candidate = none)
include free

theorem applySwitch_badStage (h : (s.recordRead.domainStage d).candidate = none) :
    s.applySwitch d = .refused s.recordRead .badStage := by
  unfold State.applySwitch
  dsimp only
  rw [if_neg (by rw [free]; exact Bool.false_ne_true), h]

/-- R76: a valid stage, no candidate being there. -/
theorem applySwitch_staged (h : (s.recordRead.domainStage d).candidate = some c) : s.applySwitch d =
    if (c.family == (s.recordRead.domain d).family && c.mult == (s.recordRead.domain d).mult) = false ∧
        (s.recordRead.streamsOf d).isEmpty = false then .refused s.recordRead .wrongState
    else if (s.recordRead.domain d).run = .locked ∧ (s.recordRead.domain d).ref = some c.source ∧
        (c.family == (s.recordRead.domain d).family && c.mult == (s.recordRead.domain d).mult) = true then
      .done s.recordRead
    else .done (s.recordRead.createCandidate d c) := by
  unfold State.applySwitch
  dsimp only
  rw [if_neg (by rw [free]; exact Bool.false_ne_true), h]

variable (staged : (s.recordRead.domainStage d).candidate = some c)
include staged

theorem applySwitch_blocked (h : s.recordRead.rateBlocked d c) : s.applySwitch d = .refused s.recordRead .wrongState :=
  (applySwitch_staged free staged).trans (if_pos ((rateBlocked_iff c).2 h))

theorem applySwitch_there (hb : ¬ s.recordRead.rateBlocked d c) (h : s.recordRead.alreadyThere d c) :
    s.applySwitch d = .done s.recordRead :=
  (applySwitch_staged free staged).trans ((if_neg (hb ∘ (rateBlocked_iff c).1)).trans
    (if_pos ((alreadyThere_iff c).2 h)))

theorem applySwitch_creates (hb : ¬ s.recordRead.rateBlocked d c) (h : ¬ s.recordRead.alreadyThere d c) :
    s.applySwitch d = .done (s.recordRead.createCandidate d c) :=
  (applySwitch_staged free staged).trans ((if_neg (hb ∘ (rateBlocked_iff c).1)).trans
    (if_neg (h ∘ (alreadyThere_iff c).1)))

end

/-! ## The row -/

section Row

variable {b : CueBody} {dt : Nat} (hp : s.phase ≠ .held) (hd : s.dueNow b) (ht : b.target.toNat = d.val)

theorem handOver_switchReference (ht : b.target.toNat = d.val) :
    s.handOver ⟨.switchReference, b⟩ = s.applySwitch d := by
  unfold State.handOver
  dsimp only
  rw [domainOf_eq_some_iff.2 ht, onTarget]

include hp hd ht

theorem exec_switchReference_done (ho : (s.elapse dt).applySwitch d = .done t) : exec (.switchReference b dt) s =
    .next ((s.elapse dt).afterCue t ⟨.switchReference, b⟩ none) :=
  (exec_verbRow_due .switchReference dt hp hd).trans
    (congrArg _ (applyCue_of_done (s := s.elapse dt) rfl ((handOver_switchReference ht).trans ho)))

theorem exec_switchReference_refused {r : Reason} (ho : (s.elapse dt).applySwitch d = .refused t r) :
    exec (.switchReference b dt) s = .next ((s.elapse dt).afterCue t ⟨.switchReference, b⟩ (some r)) :=
  (exec_verbRow_due .switchReference dt hp hd).trans
    (congrArg _ (applyCue_of_refused (s := s.elapse dt) rfl ((handOver_switchReference ht).trans ho)))

end Row

end Sys2Proof.Machine

namespace Sys2Proof.Proofs

open Sys2Proof.Machine

/-- Settles O43: the fields of a stage by their codes, the row by the candidate, the stage, the streams and the reference,
and a candidate by its source wherever it is created or fails. -/
theorem switchReferenceCreatesACandidate : Obligations.SwitchReferenceCreatesACandidate := by
  refine ⟨fun g c => ?_, fun s b dt d hp hd ht => ?_, fun s d i => ⟨domainStage_eq s d, isStreamOf_iff s d i⟩,
    fun s d c => ⟨fun o ho => ?_, fun w hw => ?_, fun cause m => ⟨fun none => ?_, fun some => ?_⟩⟩⟩
  · rw [stageCandidate_iff]
    constructor
    · rintro ⟨source, fallback, family, mult, fits, fallbackFits, ⟨settle, settles⟩, ⟨tick, ticks⟩, new⟩
      obtain ⟨source48, source441⟩ := (fits_iff _ _).1 fits
      obtain ⟨fallback48, fallback441⟩ := (fallbackFits_iff _ _).1 fallbackFits
      exact ⟨sourceOfCode_iff.1 source, fallbackOf_iff.1 fallback, familyOfCode_iff.1 family, factorOfValue_iff.1 mult,
        fun h => ⟨source48 h, fallback48 h⟩, fun h => ⟨source441 h, fallback441 h⟩, settle, settles, tick, ticks.1,
        ticks.2, new⟩
    · rintro ⟨source, fallback, family, mult, at48, at441, settle, settles, tick, low, high, new⟩
      exact ⟨sourceOfCode_iff.2 source, fallbackOf_iff.2 fallback, familyOfCode_iff.2 family, factorOfValue_iff.2 mult,
        (fits_iff _ _).2 ⟨fun h => (at48 h).1, fun h => (at441 h).1⟩,
        (fallbackFits_iff _ _).2 ⟨fun h => (at48 h).2, fun h => (at441 h).2⟩, ⟨settle, settles⟩, ⟨tick, low, high⟩, new⟩
  · have done {t : State} := exec_switchReference_done (t := t) (dt := dt) hp hd ht
    have refused {t : State} {r : Reason} := exec_switchReference_refused (t := t) (r := r) (dt := dt) hp hd ht
    refine ⟨fun busy => refused (applySwitch_busy busy), fun free bad => refused (applySwitch_badStage free bad),
      fun c free staged => ⟨fun blocked => refused (applySwitch_blocked free staged blocked),
        fun permitted there => done (applySwitch_there free staged permitted there),
        fun permitted away => ⟨fun o ho => ?_, fun w hw present => ?_, fun w hw absent => ?_⟩⟩⟩
    all_goals have created := done (applySwitch_creates free staged permitted away)
    · obtain ⟨u, made, running, waiting⟩ :=
        createCandidate_of_osc ((osc_eq_some_iff _ _).2 ho) (s.elapse dt).recordRead d
      rw [made] at created
      have takes : ∃ x, DomainTakes d x (s.elapse dt).recordRead u := by
        by_cases h : (s.elapse dt).recordRead.osc o = .running
        · exact ⟨_, running h⟩
        · exact ⟨_, waiting h⟩
      obtain ⟨x, takes⟩ := takes
      exact ⟨u, created, fun h => (running h).itself, fun h => (waiting h).itself, takes.others, takes.follows _,
        takes.follows _, takes.rest, takes.inputs, takes.outputs⟩
    · rw [createCandidate_of_present (s := (s.elapse dt).recordRead) (input_of_named hw) present] at created
      exact created
    · obtain ⟨u, made, domains, follows⟩ :=
        createCandidate_fails (s := (s.elapse dt).recordRead) (input_of_named hw) absent free
      have origin : c.origin = .switch := (stageCandidate_iff.1 staged).new.1
      rw [made, origin, ofDomain_congr (s := s) (by rw [State.recordRead_domain]; rfl)
        (by rw [State.recordRead_domain]; rfl)] at created
      exact ⟨u, created, domains, follows _, follows _⟩
  · obtain ⟨u, made, running, waiting⟩ := createCandidate_of_osc ((osc_eq_some_iff _ _).2 ho) s d
    refine ⟨u, made, fun h => ?_, fun h => ?_⟩
    · obtain ⟨itself, others, follows, rest, inputs, outputs, tenMs⟩ := running h
      exact ⟨rest, itself, others, follows _, follows _, inputs, outputs, tenMs⟩
    · obtain ⟨itself, others, follows, rest, inputs, outputs, tenMs⟩ := waiting h
      exact ⟨rest, itself, others, follows _, follows _, inputs, outputs, tenMs⟩
  · exact ⟨createCandidate_of_present (input_of_named hw), createCandidate_of_absent (input_of_named hw)⟩
  · exact failCandidate_of_none none cause m
  · obtain ⟨u, ⟨itself, others, follows, rest, inputs, outputs, tenMs⟩, failed⟩ := failCandidate_of_some some cause m
    exact ⟨u, ⟨rest, itself, others, follows _, follows _, inputs, outputs, tenMs⟩, failed⟩

end Sys2Proof.Proofs
end

-- ==== Proofs of the family 04: rate changes and switches ====
section
/-! SET_RATE by its cases (R85), and what a boundary makes of a waiting rate change and of a PASSED candidate (R80, R85,
R119). -/

namespace Sys2Proof.Machine

variable {s t : State} {d : Fin 4} {l : Fin 8}

/-! ## The expectations that a change of rate closes (R107, R119) -/

theorem AssignmentsStand.refl (s : State) : AssignmentsStand s s := .of_blocks rfl rfl

theorem AssignmentsStand.of_engine (h : EngineOnly s t) : AssignmentsStand s t :=
  ⟨h.cb, fun l => by rw [h.lanes l]⟩

theorem AssignmentsStand.of_report (h : ReportOnly s t) : AssignmentsStand s t := .of_blocks h.cb h.li

theorem AssignmentsStand.setLane (s : State) {x : Lane} (h : x.domain = (s.lane l).domain) :
    AssignmentsStand s (s.setLane l x) := by
  refine ⟨rfl, fun k => ?_⟩
  by_cases e : l = k
  · subst e; rw [State.lane_setLane_self, h]
  · rw [State.lane_setLane_of_ne s _ e]

theorem AssignmentsStand.enterFault (s : State) (l : Fin 8) (c : BadCause) (n : Word) :
    AssignmentsStand s (s.enterFault l c n) := by
  unfold State.enterFault
  dsimp only
  refine .trans (.trans (.trans (.setLane s (l := l) ?_) (.request _ _)) (.of_report (passEvent_only _ _)))
    (.of_engine (engine_haltLane (.refl _) l))
  rfl

theorem AssignmentsStand.judgeBad (s : State) (l : Fin 8) (c : BadCause) (n : Word) :
    AssignmentsStand s (s.judgeBad l c n) := by
  have placed : AssignmentsStand s (s.placeBad l c n) := by
    unfold State.placeBad
    refine .trans (.setLane s (l := l) ?_) (.of_engine (engine_placeInbound (.refl _) l n .bad))
    rfl
  by_cases eighth : (s.lane l).badRun + 1 = 8
  · rw [judgeBad_eighth eighth]; exact placed.trans (.enterFault _ l c n)
  · rw [judgeBad_short eighth]; exact placed

theorem AssignmentsStand.closeExpectation (s : State) (l : Fin 8) : AssignmentsStand s (s.closeExpectation l) := by
  have closed : AssignmentsStand s (s.setLane l { s.lane l with expected := none }) := .setLane s rfl
  unfold State.closeExpectation
  dsimp only
  split
  · exact .refl s
  · split
    · exact closed.trans (.judgeBad _ l _ _)
    · rw [State.setLane_setLane]; exact .setLane s rfl
    · exact closed

/-- R119: the lanes of `d` have judged the expectation that the boundary closes, if they must. -/
def State.judged (s : State) (d : Fin 4) (changed : Prop) [Decidable changed] : State :=
  if changed then (s.lanesNumbered d).foldl State.closeExpectation s else s

/-- R119: the lanes of `d` as `s` has them train again, if they must. -/
def State.trained (u s : State) (d : Fin 4) (changed : Prop) [Decidable changed] : State :=
  if changed then (s.lanesNumbered d).foldl State.retrained u else u

section Judged

variable (s d) (changed : Prop) [Decidable changed]

theorem judged_stand : AssignmentsStand s (s.judged d changed) := by
  unfold State.judged
  split
  · exact .foldl .closeExpectation _ s
  · exact .refl s

theorem judged_domain (e : Fin 4) : (s.judged d changed).domain e = s.domain e :=
  congrArg (·.domains[e]) (judged_stand s d changed).cb

theorem trained_domain (u : State) (e : Fin 4) : (u.trained s d changed).domain e = u.domain e := by
  unfold State.trained
  split
  · exact congrArg (·.domain e) (retrainedAll_only (s.lanesNumbered d) u)
  · rfl

variable {s d changed}

theorem judged_of_unchanged (h : ¬ changed) : s.judged d changed = s := if_neg h

theorem trained_of_unchanged (h : ¬ changed) (u : State) : u.trained s d changed = u := if_neg h

/-- R119: after a change of rate the lanes of the domain are TRAINING. -/
theorem trained_lane (h : changed) (u : State) (hl : (s.lane l).domain = some d) :
    ((u.trained s d changed).lane l).state = .training := by
  unfold State.trained
  rw [if_pos h, retrainedAll_lane, if_pos (mem_lanesNumbered.2 hl)]
  rfl

/-- Lanes assigned as in `s` train again. -/
theorem retrainLanes_trained {u : State} (h : ∀ l, (u.lane l).domain = (s.lane l).domain) (hc : changed) :
    u.retrainLanes d = u.trained s d changed := by
  unfold State.retrainLanes State.trained
  rw [if_pos hc, lanesOf_of_assignments h]
  rfl

theorem closeExpectations_judged (hc : changed) : s.closeExpectations d = s.judged d changed := by
  unfold State.closeExpectations State.judged
  rw [if_pos hc, lanesOf_eq rfl]

end Judged

/-! ## A waiting rate change at a boundary (R85) -/

/-- R85: the domain takes the values. -/
def Domain.rated (x : Domain) (r : RateChange) : Domain :=
  { x with mult := r.mult, tickExp := r.tickExp, rateChange := none }

/-- R85: the change made, between what the lanes judge and their training. -/
def State.rateMade (s : State) (d : Fin 4) (r : RateChange) : State :=
  ((s.judged d (r.mult ≠ (s.domain d).mult)).setDomain d ((s.domain d).rated r)).request (.domain d)

theorem rateAtBoundary_of_some {r : RateChange} (h : (s.domain d).rateChange = some r) :
    s.rateAtBoundary d = (s.rateMade d r).trained s d (r.mult ≠ (s.domain d).mult) := by
  have domain := judged_domain s d (r.mult ≠ (s.domain d).mult) d
  have lanes (l : Fin 8) : ((s.rateMade d r).lane l).domain = (s.lane l).domain := by
    rw [State.rateMade, State.request_lane]
    exact (judged_stand s d _).lanes l
  unfold State.rateAtBoundary
  simp only [h]
  by_cases changed : r.mult ≠ (s.domain d).mult
  · rw [if_pos (bne_iff_ne.2 changed), if_pos (bne_iff_ne.2 changed), closeExpectations_judged changed]
    unfold State.mapDomain
    rw [domain]
    exact retrainLanes_trained lanes changed
  · rw [if_neg (changed ∘ bne_iff_ne.1), if_neg (changed ∘ bne_iff_ne.1), trained_of_unchanged changed]
    unfold State.rateMade
    rw [judged_of_unchanged changed]
    rfl

theorem rateAtBoundary_domain {r : RateChange} (h : (s.domain d).rateChange = some r) :
    (s.rateAtBoundary d).domain d = (s.domain d).rated r := by
  rw [rateAtBoundary_of_some h, trained_domain, State.rateMade, State.request_domain, State.domain_setDomain_self]

/-- R85: a change of the tick exponent alone leaves the lanes as they are. -/
theorem rateAtBoundary_li {r : RateChange} (h : (s.domain d).rateChange = some r) (hm : r.mult = (s.domain d).mult) :
    (s.rateAtBoundary d).li = s.li := by
  have same : ¬ r.mult ≠ (s.domain d).mult := fun e => e hm
  rw [rateAtBoundary_of_some h, trained_of_unchanged same, State.rateMade, State.request_li, judged_of_unchanged same]
  rfl

/-! ## A PASSED candidate at a boundary (R80) -/

/-- R80 steps 1 to 3: the domain takes its candidate's values at time `t`. -/
def Domain.switched (x : Domain) (c : Candidate) (t : Nat) : Domain :=
  { x with
    run := .locked, ref := some c.source, family := c.family, mult := c.mult, tickExp := c.tickExp, settle := c.settle,
    fallback := c.fallback, lastGood := if c.source.input.isSome then c.latest else none, candidate := none,
    rateChange := none, afterSwitch := if c.source.input.isSome then some t else none, edgeOwed := false,
    lastBoundary := t }

theorem onInput_iff (x : Source) : x.input.isSome = true ↔ x = .wci0 ∨ x = .wci1 := by cases x <;> decide

/-- R80, R87: REFERENCE_SWITCHED, stamped with the domain that now runs. -/
def State.switchedEvent (s : State) (d : Fin 4) (c : Candidate) (restart : Bool) : Event :=
  { s.ofDomain .referenceSwitched d
      (fields [(0, refCode (s.domain d).ref), (8, c.source.code), (16, c.origin.code)])
      (fields [(0, c.family.code), (8, c.mult.value), (16, c.tickExp)]) restart with stampDomain := some d }

/-- R80 steps 4 and 5: the oscillators follow, the record is written and the event passed. -/
theorem switchTo_takes (s : State) (d : Fin 4) (c : Candidate) (t : Nat) (restart : Bool) :
    ∃ u, DomainTakes d ((s.domain d).switched c t) s u ∧
      s.switchTo d c t restart = (u.request (.domain d)).passEvent (s.switchedEvent d c restart) := by
  have takes := tendOscs_takes s d ((s.domain d).switched c t)
  have made : s.switchTo d c t restart = (s.setDomain d ((s.domain d).switched c t)).tendOscs.reportDomain d
      { (s.setDomain d ((s.domain d).switched c t)).tendOscs.domainEvent .referenceSwitched d
          (fields [(0, refCode (s.domain d).ref), (8, c.source.code), (16, c.origin.code)])
          (fields [(0, c.family.code), (8, c.mult.value), (16, c.tickExp)]) with flagA := restart } := rfl
  generalize (s.setDomain d ((s.domain d).switched c t)).tendOscs = u at takes made
  have stamp : u.stampOf d = (some d, (s.domain d).count) := by
    unfold State.stampOf
    rw [takes.itself]
    rfl
  refine ⟨u, takes, made.trans ?_⟩
  unfold State.reportDomain State.domainEvent
  rw [stamp]
  rfl

theorem switchTo_domain (s : State) (d : Fin 4) (c : Candidate) (t : Nat) (restart : Bool) :
    (s.switchTo d c t restart).domain d = (s.domain d).switched c t := by
  obtain ⟨u, takes, switched⟩ := switchTo_takes s d c t restart
  rw [switched, State.passEvent_domain, State.request_domain, takes.itself]

theorem switchTo_li (s : State) (d : Fin 4) (c : Candidate) (t : Nat) (restart : Bool) :
    (s.switchTo d c t restart).li = s.li := by
  obtain ⟨u, takes, switched⟩ := switchTo_takes s d c t restart
  rw [switched, State.passEvent_li, State.request_li, takes.rest]

theorem switchAtBoundary_waits (h : ∀ c, (s.domain d).candidate = some c → c.phase ≠ .passed) (t : Nat) :
    s.switchAtBoundary d t = s := by
  match hc : (s.domain d).candidate with
  | none => exact switchAtBoundary_of_none hc t
  | some c =>
    unfold State.switchAtBoundary
    simp only [hc]
    exact if_neg (h c hc)

/-- R80: the candidate changes the rate of the domain. -/
abbrev Candidate.changes (c : Candidate) (x : Domain) : Prop := c.family ≠ x.family ∨ c.mult ≠ x.mult

theorem switchAtBoundary_of_passed {c : Candidate} (h : (s.domain d).candidate = some c) (hp : c.phase = .passed)
    (t : Nat) : s.switchAtBoundary d t =
      ((s.judged d (c.changes (s.domain d))).switchTo d c t false).trained s d (c.changes (s.domain d)) := by
  unfold State.switchAtBoundary
  simp only [h, if_pos hp]
  by_cases changed : c.changes (s.domain d)
  · rw [if_pos changed, closeExpectations_judged changed]
    refine retrainLanes_trained (fun l => ?_) changed
    have lanes := (judged_stand s d (c.changes (s.domain d))).lanes l
    unfold State.lane at lanes ⊢
    rw [switchTo_li, lanes]
  · rw [if_neg changed, judged_of_unchanged changed, trained_of_unchanged changed]

theorem switchAtBoundary_domain {c : Candidate} (h : (s.domain d).candidate = some c) (hp : c.phase = .passed)
    (t : Nat) : (s.switchAtBoundary d t).domain d = (s.domain d).switched c t := by
  rw [switchAtBoundary_of_passed h hp, trained_domain, switchTo_domain, judged_domain]

/-- R80: a switch at the same rate leaves the lanes as they are. -/
theorem switchAtBoundary_li {c : Candidate} (h : (s.domain d).candidate = some c) (hp : c.phase = .passed)
    (hc : ¬ c.changes (s.domain d)) (t : Nat) : (s.switchAtBoundary d t).li = s.li := by
  rw [switchAtBoundary_of_passed h hp, trained_of_unchanged hc, switchTo_li, judged_of_unchanged hc]

/-! ## SET_RATE applied (R85) -/

/-- R85: the values that a valid stage gives. -/
theorem stageRate_iff {g : DomainStage} {r : RateChange} : g.rate = some r ↔
    (g.mult = 1 ∧ r.mult = .x1 ∨ g.mult = 2 ∧ r.mult = .x2 ∨ g.mult = 4 ∧ r.mult = .x4) ∧
      (4 ≤ g.tickExp.toNat ∧ g.tickExp.toNat ≤ 9) ∧ r.tickExp = g.tickExp.toNat := by
  obtain ⟨m, k⟩ := r
  rw [← factorOfValue_iff, ← tickExpInRange_iff]
  unfold DomainStage.rate
  cases Factor.ofValue g.mult with
  | none => simp
  | some n =>
    by_cases h : tickExpInRange g.tickExp.toNat = true <;> simp [h, eq_comm]

theorem refInput_iff (x : Domain) :
    x.ref.any (·.input.isSome) = true ↔ x.ref = some .wci0 ∨ x.ref = some .wci1 := by
  cases x.ref with
  | none => simp
  | some r => simp only [Option.any_some, onInput_iff, Option.some.injEq]

/-- R85: the multiplier of a domain running on an input may not change. -/
def Domain.rateFixed (x : Domain) (m : Factor) : Prop :=
  (x.run = .locked ∨ x.run = .holdover) ∧ (x.ref = some .wci0 ∨ x.ref = some .wci1) ∧ m ≠ x.mult

theorem rateFixed_iff (x : Domain) (m : Factor) :
    (x.running = true ∧ x.ref.any (·.input.isSome) = true ∧ m ≠ x.mult) ↔ x.rateFixed m := by
  rw [running_iff_run, refInput_iff]
  rfl

theorem applyRate_busy (h : (s.recordRead.domain d).candidate ≠ none) : s.applyRate d = .refused s.recordRead .busy :=
  if_pos (Option.isSome_iff_ne_none.2 h)

section
variable (free : (s.recordRead.domain d).candidate = none)
include free

theorem applyRate_badStage (h : (s.recordRead.domainStage d).rate = none) :
    s.applyRate d = .refused s.recordRead .badStage := by
  unfold State.applyRate
  dsimp only
  rw [if_neg (by rw [free]; exact Bool.false_ne_true), h]

variable {r : RateChange} (staged : (s.recordRead.domainStage d).rate = some r)
include staged

/-- R85: a valid stage, no candidate being there. -/
theorem applyRate_staged : s.applyRate d =
    if (s.recordRead.streamsOf d).isEmpty = false then .refused s.recordRead .wrongState
    else if (s.recordRead.domain d).running = true ∧ (s.recordRead.domain d).ref.any (·.input.isSome) = true ∧
        r.mult ≠ (s.recordRead.domain d).mult then .refused s.recordRead .wrongState
    else if r.mult = (s.recordRead.domain d).mult ∧ r.tickExp = (s.recordRead.domain d).tickExp then .done s.recordRead
    else if (s.recordRead.domain d).running = true then
      .done (s.recordRead.setDomain d { s.recordRead.domain d with rateChange := some r })
    else .done ((s.recordRead.setDomain d ((s.recordRead.domain d).rated r)).request (.domain d)) := by
  unfold State.applyRate
  dsimp only
  rw [if_neg (by rw [free]; exact Bool.false_ne_true), staged]
  rfl

theorem applyRate_streams (h : ∃ i, s.recordRead.isStreamOf d i = true) :
    s.applyRate d = .refused s.recordRead .wrongState :=
  (applyRate_staged free staged).trans (if_pos ((streamsOf_isEmpty _ d).2 h))

variable (quiet : ¬ ∃ i, s.recordRead.isStreamOf d i = true)
include quiet

theorem applyRate_fixed (h : (s.recordRead.domain d).rateFixed r.mult) :
    s.applyRate d = .refused s.recordRead .wrongState :=
  (applyRate_staged free staged).trans ((if_neg (quiet ∘ (streamsOf_isEmpty _ d).1)).trans
    (if_pos ((rateFixed_iff _ _).2 h)))

theorem applyRate_same (h : r.mult = (s.recordRead.domain d).mult ∧ r.tickExp = (s.recordRead.domain d).tickExp) :
    s.applyRate d = .done s.recordRead :=
  (applyRate_staged free staged).trans ((if_neg (quiet ∘ (streamsOf_isEmpty _ d).1)).trans
    ((if_neg fun fixed => fixed.2.2 h.1).trans (if_pos h)))

variable (permitted : ¬ (s.recordRead.domain d).rateFixed r.mult)
  (new : ¬ (r.mult = (s.recordRead.domain d).mult ∧ r.tickExp = (s.recordRead.domain d).tickExp))
include permitted new

/-- R85: the values, left for the next boundary on a running domain, taken at once on a STOPPED one. -/
theorem applyRate_new : s.applyRate d = if (s.recordRead.domain d).running = true then
      .done (s.recordRead.setDomain d { s.recordRead.domain d with rateChange := some r })
    else .done ((s.recordRead.setDomain d ((s.recordRead.domain d).rated r)).request (.domain d)) :=
  (applyRate_staged free staged).trans ((if_neg (quiet ∘ (streamsOf_isEmpty _ d).1)).trans
    ((if_neg (permitted ∘ (rateFixed_iff _ _).1)).trans (if_neg new)))

end

/-! ## The row of SET_RATE -/

section Row

variable {b : CueBody} (hp : s.phase ≠ .held) (hd : s.dueNow b) (ht : b.target.toNat = d.val)

theorem handOver_setRate (ht : b.target.toNat = d.val) : s.handOver ⟨.setRate, b⟩ = s.applyRate d := by
  unfold State.handOver
  dsimp only
  rw [domainOf_eq_some_iff.2 ht, onTarget]

include hp hd ht

theorem exec_setRate_done (ho : s.applyRate d = .done t) :
    exec (.setRate b) s = .next (s.afterCue t ⟨.setRate, b⟩ none) :=
  (exec_verbRow_now (v := .setRate) (by simp) (by simp) 0 hp hd).trans
    (congrArg _ (applyCue_of_done rfl ((handOver_setRate ht).trans ho)))

theorem exec_setRate_refused {r : Reason} (ho : s.applyRate d = .refused t r) :
    exec (.setRate b) s = .next (s.afterCue t ⟨.setRate, b⟩ (some r)) :=
  (exec_verbRow_now (v := .setRate) (by simp) (by simp) 0 hp hd).trans
    (congrArg _ (applyCue_of_refused rfl ((handOver_setRate ht).trans ho)))

end Row

end Sys2Proof.Machine

namespace Sys2Proof.Proofs

open Sys2Proof.Machine

/-- Settles O44: the row by the candidate, the stage, the streams and the domain's reference; a boundary by the waiting
change and by the candidate. -/
theorem rateChangesFollowTheirTable : Obligations.RateChangesFollowTheirTable := by
  refine ⟨fun s b d hp hd ht => ?_, fun s d t => ⟨rateAtBoundary_of_none, fun r h => ⟨rateAtBoundary_domain h,
    rateAtBoundary_li h, fun hm l hl => ?_⟩, fun h => switchAtBoundary_waits h t, fun c h passed => ?_⟩,
    fun s d t => ⟨fun r h => rateAtBoundary_of_some h, fun c h passed => ?_⟩⟩
  · have done {t : State} := exec_setRate_done (t := t) hp hd ht
    have refused {t : State} {r : Reason} := exec_setRate_refused (t := t) (r := r) hp hd ht
    refine ⟨fun busy => refused (applyRate_busy busy), fun free bad => ?_, fun m free valid => ?_⟩
    · refine refused (applyRate_badStage free (Option.eq_none_iff_forall_ne_some.2 fun r hr => ?_))
      obtain ⟨mult, ticks, -⟩ := stageRate_iff.1 hr
      exact bad r.mult ⟨mult, ticks⟩
    · have staged : (s.recordRead.domainStage d).rate = some ⟨m, (s.recordRead.domainStage d).tickExp.toNat⟩ :=
        stageRate_iff.2 ⟨valid.1, valid.2, rfl⟩
      refine ⟨fun streams => refused (applyRate_streams free staged streams),
        fun quiet fixed => refused (applyRate_fixed free staged quiet fixed),
        fun quiet same => done (applyRate_same free staged quiet same),
        fun quiet permitted new => ⟨fun run => ?_, fun run => ?_⟩⟩
      all_goals have taken := applyRate_new free staged quiet permitted new
      · rw [if_pos ((running_iff_run _).2 run)] at taken
        exact done taken
      · rw [if_neg (by rw [running_iff]; exact fun h => h run)] at taken
        exact done taken
  · rw [rateAtBoundary_of_some h]
    exact trained_lane hm _ hl
  · have domain := switchAtBoundary_domain h passed t
    refine ⟨_, domain, rfl, fun on => ?_, fun off => ?_, fun same => ?_, fun other l hl => ?_⟩
    · have input := (onInput_iff _).2 on
      exact ⟨if_pos input, if_pos input⟩
    · have input := off ∘ (onInput_iff _).1
      exact ⟨if_neg input, if_neg input⟩
    · exact switchAtBoundary_li h passed (fun e => e.elim (fun e => e same.1) (fun e => e same.2)) t
    · rw [switchAtBoundary_of_passed h passed]
      exact trained_lane (not_and_or.1 other) _ hl
  · have stand := judged_stand s d (c.changes (s.domain d))
    have domain := judged_domain s d (c.changes (s.domain d))
    obtain ⟨u, takes, switched⟩ := switchTo_takes (s.judged d (c.changes (s.domain d))) d c t false
    refine ⟨u, takes.rest, ?_, fun e he => (takes.others e he).trans (domain e), takes.follows _, takes.follows _,
      takes.inputs.trans (congrArg _ stand.cb), takes.outputs.trans (congrArg _ stand.cb),
      takes.tenMs.trans (congrArg _ stand.cb), ?_⟩
    · rw [switchAtBoundary_domain h passed, takes.itself, domain]
    · rw [switchAtBoundary_of_passed h passed, switched]
      unfold State.switchedEvent
      rw [domain, ofDomain_congr (s := s) (by rw [domain]) (by rw [domain])]
      rfl

end Sys2Proof.Proofs
end

-- ==== Proofs of the family 04: candidates in time ====
section
/-! The end of an oscillator's start (R75, R77) and of a settle window (R78, R81). -/

namespace Sys2Proof.Machine

variable {s t : State} {d : Fin 4} {c : Candidate}

/-! ## Steps that each change one domain -/

/-- Step `e` changes domain `e` by `g` and leaves the other domains. -/
def OwnDomain (f : State → Fin 4 → State) (g : Domain → Domain) : Prop :=
  ∀ u e k, (f u e).domain k = if e = k then g (u.domain k) else u.domain k

theorem OwnDomain.foldl {f : State → Fin 4 → State} {g : Domain → Domain} (h : OwnDomain f g) (k : Fin 4) :
    ∀ (l : List (Fin 4)) (s : State), l.Nodup →
      (l.foldl f s).domain k = if k ∈ l then g (s.domain k) else s.domain k
  | [], _, _ => rfl
  | e :: l, s, nodup => by
    obtain ⟨first, rest⟩ := List.nodup_cons.1 nodup
    rw [List.foldl_cons, h.foldl k l _ rest, h]
    by_cases he : e = k
    · subst he; simp [first]
    · simp [he, Ne.symm he]

theorem OwnDomain.foldl_indices {f : State → Fin 4 → State} {g : Domain → Domain} (h : OwnDomain f g) (s : State)
    (k : Fin 4) : ((indices 4).foldl f s).domain k = g (s.domain k) := by
  unfold indices
  rw [h.foldl k _ s (List.nodup_finRange 4), if_pos (List.mem_finRange k)]

/-! ## The end of an oscillator's start (R75, R77) -/

/-- R77: a candidate STARTING on `o` is SETTLING from `t` on. -/
def Domain.settledOn (o : Osc) (t : Nat) (x : Domain) : Domain :=
  match x.candidate with
  | none => x
  | some c => if c.source.osc = some o ∧ c.phase = .starting then { x with candidate := some (c.settling t) } else x

theorem settledOn_of_starting {o : Osc} {x : Domain} (hc : x.candidate = some c)
    (h : c.source.osc = some o ∧ c.phase = .starting) (t : Nat) :
    x.settledOn o t = { x with candidate := some (c.settling t) } := by
  unfold Domain.settledOn
  rw [hc]
  exact if_pos h

theorem settledOn_of_others {o : Osc} {x : Domain}
    (h : ∀ c, x.candidate = some c → ¬ (c.source.osc = some o ∧ c.phase = .starting)) (t : Nat) :
    x.settledOn o t = x := by
  unfold Domain.settledOn
  split
  · rfl
  · next c hc => exact if_neg (h c hc)

/-- R77: the candidate of domain `d`, if it is STARTING on `o`, settles. -/
def State.settleOn (o : Osc) (t : Nat) (s : State) (d : Fin 4) : State :=
  match (s.domain d).candidate with
  | none => s
  | some c =>
    if c.source.osc = some o ∧ c.phase = .starting then
      (s.setDomain d { s.domain d with candidate := some (c.settling t) }).request (.domain d)
    else s

/-- The Record order and the domains may change. -/
def DomainsOnly (s t : State) : Prop := t = { s with mc := t.mc, cb := { s.cb with domains := t.cb.domains } }

theorem DomainsOnly.trans {u : State} (a : DomainsOnly s t) (b : DomainsOnly t u) : DomainsOnly s u := by
  unfold DomainsOnly at *
  rw [a] at b
  exact b

theorem settleOn_only (o : Osc) (t : Nat) (s : State) (d : Fin 4) : DomainsOnly s (s.settleOn o t d) := by
  unfold State.settleOn
  split
  · rfl
  · split
    · unfold DomainsOnly; rw [request_eq]; rfl
    · rfl

theorem settleOn_domain (o : Osc) (t : Nat) : OwnDomain (State.settleOn o t) (Domain.settledOn o t) := by
  intro u e k
  unfold State.settleOn Domain.settledOn
  by_cases he : e = k
  · subst he
    rw [if_pos rfl]
    split
    · rfl
    · split
      · rw [State.request_domain, State.domain_setDomain_self]
      · rfl
  · rw [if_neg he]
    split
    · rfl
    · split
      · rw [State.request_domain, State.domain_setDomain_of_ne u _ he]
      · rfl

theorem exec_oscillatorRunning {o : Osc} {dt t0 : Nat} (hp : s.phase ≠ .held) (ho : s.osc o = .starting t0) :
    exec (.oscillatorRunning o dt) s = .next (if t0 + 2000000 ≤ s.mclk + dt then
      (indices 4).foldl (State.settleOn o (t0 + 2000000)) ((s.elapse dt).setOsc o .running) else s.elapse dt) := by
  have started : (s.elapse dt).osc o = .starting t0 := by cases o <;> exact ho
  refine congrArg _ ((if_neg hp).trans ?_)
  simp only [started]
  rfl

/-! ## The end of a settle window (R78, R81) -/

theorem windowEnd_of_settling {w : Nat} (hp : c.phase = .settling) (hw : c.windowStart = some w) :
    c.windowEnd = some (w + 800000 * 2 ^ c.settle) := by
  unfold Candidate.windowEnd
  rw [if_pos hp, hw]
  rfl

theorem windowOver_of_some {e : Nat} (hc : (s.domain d).candidate = some c) (he : c.windowEnd = some e) (limit : Nat) :
    s.windowOver d limit = if e ≤ limit then s.endWindow d c else s := by
  unfold State.windowOver
  rw [hc]
  dsimp only
  rw [he]

theorem exec_settleWindowEnd {dt : Nat} (hp : s.phase ≠ .held) :
    exec (.settleWindowEnd d dt) s = .next ((s.elapse dt).windowOver d (s.mclk + dt)) := congrArg _ (if_neg hp)

/-- R78: the candidate passes, its domain as it stands. -/
def State.passes (s : State) (d : Fin 4) (c : Candidate) : State :=
  (s.setDomain d { s.domain d with candidate := some { c with phase := .passed } }).request (.domain d)

/-- In `t` domain `d` of `s` is `x`, and outside the Clock Block only the Record order may differ. -/
structure DomainBecomes (d : Fin 4) (x : Domain) (s t : State) : Prop where
  itself : t.domain d = x
  others : ∀ e, e ≠ d → t.domain e = s.domain e
  rest : t = { s with mc := t.mc, cb := t.cb }

theorem DomainTakes.becomes {x : Domain} (h : DomainTakes d x s t) : DomainBecomes d x s (t.request (.domain d)) := by
  obtain ⟨itself, others, -, rest, -, -, -⟩ := h
  refine ⟨(State.request_domain t _ d).trans itself, fun e he => (State.request_domain t _ e).trans (others e he), ?_⟩
  rw [request_eq, rest]

theorem passes_becomes (s : State) (d : Fin 4) (c : Candidate) :
    DomainBecomes d { s.domain d with candidate := some { c with phase := .passed } } s (s.passes d c) := by
  refine ⟨?_, fun e he => ?_, ?_⟩
  · rw [State.passes, State.request_domain, State.domain_setDomain_self]
  · rw [State.passes, State.request_domain, State.domain_setDomain_of_ne s _ he.symm]
  · rw [State.passes, request_eq]
    rfl

theorem DomainBecomes.trans {x y : Domain} {u : State} (a : DomainBecomes d x s t) (b : DomainBecomes d y t u) :
    DomainBecomes d y s u := by
  refine ⟨b.itself, fun e he => (b.others e he).trans (a.others e he), ?_⟩
  have rest := b.rest
  rw [a.rest] at rest
  exact rest

/-- R78: the candidate has no measurement though it is on an input. -/
abbrev Candidate.unmeasured (c : Candidate) : Prop := c.source.input.isSome = true ∧ c.latest = none

theorem endWindow_of_running (hm : ¬ c.unmeasured) (hr : (s.domain d).run ≠ .stopped) :
    s.endWindow d c = s.passes d c := (if_neg hm).trans (if_neg hr)

/-- R81: a STOPPED domain switches at once. -/
theorem endWindow_of_stopped (hm : ¬ c.unmeasured) (hr : (s.domain d).run = .stopped) :
    ∃ v, DomainBecomes d ((s.domain d).switched c s.mclk) s v ∧
      s.endWindow d c = v.passEvent (s.switchedEvent d c true) := by
  have passes := passes_becomes s d c
  obtain ⟨u, takes, switched⟩ := switchTo_takes (s.passes d c) d { c with phase := .passed } s.mclk true
  have event : (s.passes d c).switchedEvent d { c with phase := .passed } true = s.switchedEvent d c true := by
    unfold State.switchedEvent
    rw [passes.itself, ofDomain_congr (s := s) (by rw [passes.itself]) (by rw [passes.itself])]
  rw [passes.itself] at takes
  rw [event] at switched
  exact ⟨_, passes.trans takes.becomes, ((if_neg hm).trans (if_pos hr)).trans switched⟩

/-- R78: a word clock candidate that no measurement reached fails. -/
theorem endWindow_of_unmeasured (hc : (s.domain d).candidate = some c) (hm : c.unmeasured) :
    ∃ v, DomainBecomes d { s.domain d with candidate := none } s v ∧
      s.endWindow d c = v.passEvent (s.ofDomain .qualifyFailed d
        (fields [(0, c.source.code), (8, c.origin.code), (16, 2)]) 0 false) := by
  obtain ⟨u, takes, failed⟩ := failCandidate_of_some hc .outOfTolerance 0
  exact ⟨_, takes.becomes, (if_pos hm).trans failed⟩

end Sys2Proof.Machine

namespace Sys2Proof.Proofs

open Sys2Proof.Machine

/-- Settles O46: the candidates on an oscillator one by one, and the end of a window by the candidate and its domain. -/
theorem candidatesQualifyInTime : Obligations.CandidatesQualifyInTime := by
  refine ⟨fun o dt s t0 hp ho => ?_, fun d dt s c w hp hc settling hw => ?_⟩
  · have run := exec_oscillatorRunning (dt := dt) hp ho
    refine ⟨fun due => ?_, fun early => run.trans (congrArg _ (if_neg (Nat.not_le.2 early)))⟩
    rw [if_pos due] at run
    have only : DomainsOnly ((s.elapse dt).setOsc o .running) _ :=
      foldl_related (R := DomainsOnly) (fun _ => rfl) .trans (settleOn_only o (t0 + 2000000)) (indices 4) _
    have domain (e : Fin 4) := (settleOn_domain o (t0 + 2000000)).foldl_indices ((s.elapse dt).setOsc o .running) e
    generalize (indices 4).foldl _ _ = t at run only domain
    simp only [State.setOsc_domain] at domain
    refine ⟨t, run, ?_, fun e c hc named starting => ?_, fun e others => ?_, ?_, ?_, ?_, ?_, ?_, ?_⟩
    · rw [only]
      cases o <;> rfl
    · exact (domain e).trans (settledOn_of_starting hc ⟨(osc_eq_some_iff _ _).2 named, starting⟩ _)
    · exact (domain e).trans (settledOn_of_others
        (fun c hc on => others c hc ⟨(osc_eq_some_iff _ _).1 on.1, on.2⟩) _)
    all_goals rw [only]; cases o <;> rfl
  · have run := exec_settleWindowEnd (d := d) (dt := dt) hp
    rw [windowOver_of_some (s := s.elapse dt) hc (windowEnd_of_settling settling hw)] at run
    refine ⟨fun early => run.trans (congrArg _ (if_neg (Nat.not_le.2 early))), fun due => ?_⟩
    rw [if_pos due] at run
    simp only [← onInput_iff]
    refine ⟨fun measured running => ?_, fun measured stopped => ?_, fun unmeasured => ?_⟩
    · exact run.trans (congrArg _ (endWindow_of_running (s := s.elapse dt) measured running))
    · obtain ⟨v, ⟨itself, others, rest⟩, switched⟩ := endWindow_of_stopped (s := s.elapse dt) measured stopped
      rw [switched] at run
      refine ⟨_, _, run, (State.passEvent_domain v _ d).trans itself, rfl, fun on => ⟨if_pos on, if_pos on⟩,
        fun off => ⟨if_neg off, if_neg off⟩, fun e he => (State.passEvent_domain v _ e).trans (others e he), ?_, ?_,
        v, rfl, ?_, ?_⟩
      · rw [State.passEvent_mem, rest]; rfl
      · rw [State.passEvent_li, rest]; rfl
      all_goals rw [rest]; rfl
    · obtain ⟨v, ⟨itself, others, rest⟩, failed⟩ := endWindow_of_unmeasured (s := s.elapse dt) hc unmeasured
      rw [failed] at run
      refine ⟨_, run, (State.passEvent_domain v _ d).trans itself,
        fun e he => (State.passEvent_domain v _ e).trans (others e he), ?_, ?_, v, rfl, ?_, ?_⟩
      · rw [State.passEvent_mem, rest]; rfl
      · rw [State.passEvent_li, rest]; rfl
      all_goals rw [rest]; rfl

end Sys2Proof.Proofs
end

-- ==== Proofs of the family 04: rising edges ====
section
/-! A rising edge of a word clock input: its block, the boundaries it makes, and the measurement that the domains judge
(R91 to R94). -/

namespace Sys2Proof.Machine

variable {s u : State} {d : Fin 4} {w : Fin 2}

/-! ## Changes of the domains alone -/

/-- Nothing but the domains changes. -/
def DomainsSet (s t : State) : Prop := t = { s with cb := { s.cb with domains := t.cb.domains } }

theorem DomainsSet.trans {t u : State} (a : DomainsSet s t) (b : DomainsSet t u) : DomainsSet s u := by
  unfold DomainsSet at *
  rw [a] at b
  exact b

theorem DomainsSet.rest {t : State} (h : DomainsSet s t) : t = { s with cb := t.cb } := by
  unfold DomainsSet at h
  rw [h]

theorem DomainsSet.input {t : State} (h : DomainsSet s t) (w : Fin 2) : t.input w = s.input w := by
  unfold DomainsSet at h
  rw [h]
  rfl

/-- Each domain changed once, by a function of the time and its own record, while its record meets `P`. -/
theorem foldl_mapDomain {f : State → Fin 4 → State} {g : Nat → Domain → Domain} {P : Domain → Prop}
    (h : ∀ u e, P (u.domain e) → f u e = u.mapDomain e (g u.mclk)) :
    ∀ (l : List (Fin 4)) (s : State), l.Nodup → (∀ e ∈ l, P (s.domain e)) →
      DomainsSet s (l.foldl f s) ∧
        ∀ k, (l.foldl f s).domain k = if k ∈ l then g s.mclk (s.domain k) else s.domain k
  | [], _, _, _ => ⟨rfl, fun _ => rfl⟩
  | e :: l, s, nodup, meets => by
    obtain ⟨first, rest⟩ := List.nodup_cons.1 nodup
    have step : f s e = s.mapDomain e (g s.mclk) := h s e (meets e List.mem_cons_self)
    have others {k : Fin 4} (hk : e ≠ k) : (f s e).domain k = s.domain k := by
      rw [step]; exact State.domain_setDomain_of_ne s _ hk
    have ne {k : Fin 4} (hk : k ∈ l) : e ≠ k := fun he => first (he ▸ hk)
    obtain ⟨only, domains⟩ := foldl_mapDomain h l (f s e) rest fun k hk => by
      rw [others (ne hk)]; exact meets k (List.mem_cons_of_mem e hk)
    have only1 : DomainsSet s (f s e) := by rw [step]; rfl
    refine ⟨only1.trans only, fun k => ?_⟩
    have clock : (f s e).mclk = s.mclk := by rw [step]; rfl
    rw [List.foldl_cons, domains, clock]
    by_cases he : e = k
    · subst he
      rw [if_neg first, if_pos List.mem_cons_self, step]
      exact State.domain_setDomain_self s e _
    · simp only [List.mem_cons, Ne.symm he, false_or, others he]

theorem foldl_mapDomain_indices {f : State → Fin 4 → State} {g : Nat → Domain → Domain} {P : Domain → Prop}
    (h : ∀ u e, P (u.domain e) → f u e = u.mapDomain e (g u.mclk)) (s : State) (meets : ∀ e, P (s.domain e)) :
    DomainsSet s ((indices 4).foldl f s) ∧ ∀ k, ((indices 4).foldl f s).domain k = g s.mclk (s.domain k) := by
  obtain ⟨only, domains⟩ := foldl_mapDomain h (indices 4) s (List.nodup_finRange 4) fun e _ => meets e
  exact ⟨only, fun k => (domains k).trans (if_pos (List.mem_finRange k))⟩

theorem foldl_fixed {α : Type} {f : State → α → State} (h : ∀ a, f s a = s) : ∀ l : List α, l.foldl f s = s
  | [] => rfl
  | a :: l => by rw [List.foldl_cons, h a, foldl_fixed h l]

/-! ## Domains on an input -/

/-- The source that names an input. -/
def wordSource (w : Fin 2) : Source := if w = 0 then .wci0 else .wci1

theorem input_eq_some_iff (x : Source) (w : Fin 2) : x.input = some w ↔ x = wordSource w := by
  match w with
  | 0 | 1 => cases x <;> decide

/-- The domain is LOCKED on input `w`. -/
abbrev Domain.lockedTo (x : Domain) (w : Fin 2) : Prop := x.run = .locked ∧ x.ref = some (wordSource w)

theorem lockedOn_iff : s.lockedOn w d = true ↔ (s.domain d).lockedTo w := by
  unfold State.lockedOn Domain.lockedTo
  rw [Bool.and_eq_true, beq_iff_eq, Option.any_eq_true]
  simp only [beq_iff_eq, input_eq_some_iff]
  refine and_congr_right fun _ => ⟨fun ⟨r, hr, h⟩ => hr.trans (congrArg some h), fun h => ⟨_, h, rfl⟩⟩

theorem candidateOn_iff : s.candidateOn w d = true ↔
    ∃ c, (s.domain d).candidate = some c ∧ c.source = wordSource w := by
  unfold State.candidateOn
  simp only [Option.any_eq_true, beq_iff_eq, input_eq_some_iff]

theorem candidateOn_of_others (h : ∀ c, (s.domain d).candidate = some c → c.source ≠ wordSource w) :
    s.candidateOn w d = false :=
  Bool.eq_false_iff.2 fun on => by
    obtain ⟨c, hc, source⟩ := candidateOn_iff.1 on
    exact h c hc source

theorem edgeEndsFrame_iff (x : Domain) (t : Nat) : x.edgeEndsFrame t = true ↔
    ∀ t0, x.afterSwitch = some t0 → 100000000 ≤ 2 * rateOf x.family x.mult * (t - t0) := by
  unfold Domain.edgeEndsFrame
  cases x.afterSwitch with
  | none => simp
  | some t0 => simp

theorem edgeMakesBoundary_iff : s.edgeMakesBoundary w d = true ↔
    (s.domain d).lockedTo w ∧ (s.domain d).edgeEndsFrame s.mclk = true := by
  unfold State.edgeMakesBoundary
  rw [Bool.and_eq_true, lockedOn_iff]

/-! ## The boundaries that edges make (R94, log 10) -/

variable {order : List BoundaryPart}

theorem boundary_of_owed (hl : (s.domain d).lockedTo w) (ho : (s.domain d).edgeOwed = true) :
    s.boundary d order =
      (s.setDomain d { s.domain d with edgeOwed := false }).takeBoundary d (s.input w).lastEdge order := by
  have input : (wordSource w).input = some w := (input_eq_some_iff _ w).2 rfl
  have due : s.boundaryDue d = some ((s.input w).lastEdge, { s.domain d with edgeOwed := false }) := by
    unfold State.boundaryDue
    simp only [hl.1, hl.2, Option.bind_some, input]
    exact if_pos ho
  unfold State.boundary
  rw [due]

theorem settleEdge_of_owed (hl : (s.domain d).lockedTo w) (ho : (s.domain d).edgeOwed = true) :
    State.settleEdge w order s d =
      (s.setDomain d { s.domain d with edgeOwed := false }).takeBoundary d (s.input w).lastEdge order :=
  (if_pos ⟨lockedOn_iff.2 hl, ho⟩).trans (boundary_of_owed hl ho)

theorem settleEdge_of_settled (h : ¬ ((s.domain d).lockedTo w ∧ (s.domain d).edgeOwed = true)) :
    State.settleEdge w order s d = s := if_neg fun h' => h ⟨lockedOn_iff.1 h'.1, h'.2⟩

/-- R94: the domain owes the boundary of the edge that comes. -/
def Domain.owing (x : Domain) : Domain := { x with edgeOwed := true, afterSwitch := none }

theorem boundaryFirst_of_ends (hl : (s.domain d).lockedTo w) (he : (s.domain d).edgeEndsFrame s.mclk = true) :
    State.boundaryFirst w order s d = s.takeBoundary d s.mclk order := if_pos (edgeMakesBoundary_iff.2 ⟨hl, he⟩)

theorem oweBoundary_of_ends (hl : (s.domain d).lockedTo w) (he : (s.domain d).edgeEndsFrame s.mclk = true) :
    State.oweBoundary w s d = s.setDomain d (s.domain d).owing := if_pos (edgeMakesBoundary_iff.2 ⟨hl, he⟩)

theorem edge_of_within (h : ¬ ((s.domain d).lockedTo w ∧ (s.domain d).edgeEndsFrame s.mclk = true)) :
    State.boundaryFirst w order s d = s ∧ State.oweBoundary w s d = s :=
  ⟨if_neg (h ∘ edgeMakesBoundary_iff.1), if_neg (h ∘ edgeMakesBoundary_iff.1)⟩

/-- What an edge at time `t` makes of a domain that does not take its boundary first. -/
def Domain.edgeCome (w : Fin 2) (t : Nat) (x : Domain) : Domain :=
  if x.lockedTo w ∧ x.edgeEndsFrame t = true then x.owing else x

theorem oweBoundary_eq (s : State) (d : Fin 4) :
    State.oweBoundary w s d = s.mapDomain d (Domain.edgeCome w s.mclk) := by
  unfold State.mapDomain Domain.edgeCome
  by_cases h : (s.domain d).lockedTo w ∧ (s.domain d).edgeEndsFrame s.mclk = true
  · rw [if_pos h, oweBoundary_of_ends h.1 h.2]
  · rw [if_neg h, (edge_of_within (order := []) h).2, State.setDomain_domain]

/-! ## What a measurement is to a domain (R78, R79, R92) -/

theorem withoutCandidate_measured (h : s.candidateOn w d = false) (m : Nat) : s.measured w m d =
    if s.lockedOn w d then
      if withinTolerance (s.domain d).family (s.domain d).mult m then
        s.mapDomain d (fun x => { x with lastGood := some m })
      else s.loseReference d .outOfTolerance
    else s := by
  unfold State.measured
  simp only [h, Bool.false_eq_true, if_false]

variable {m : Nat}

theorem measured_of_elsewhere (hl : ¬ (s.domain d).lockedTo w) (h : s.candidateOn w d = false) :
    s.measured w m d = s := (withoutCandidate_measured h m).trans (if_neg (hl ∘ lockedOn_iff.1))

theorem measured_of_good (hl : (s.domain d).lockedTo w) (h : s.candidateOn w d = false)
    (hm : withinTolerance (s.domain d).family (s.domain d).mult m = true) :
    s.measured w m d = s.setDomain d { s.domain d with lastGood := some m } :=
  (withoutCandidate_measured h m).trans ((if_pos (lockedOn_iff.2 hl)).trans (if_pos hm))

theorem measured_of_bad (hl : (s.domain d).lockedTo w) (h : s.candidateOn w d = false)
    (hm : withinTolerance (s.domain d).family (s.domain d).mult m = false) :
    s.measured w m d = s.loseReference d .outOfTolerance :=
  (withoutCandidate_measured h m).trans ((if_pos (lockedOn_iff.2 hl)).trans (if_neg (Bool.eq_false_iff.1 hm)))

/-- R78: a candidate that has passed, or whose window runs to now or beyond, is still there when an edge comes. -/
theorem windowOver_of_open {c : Candidate} (hc : (s.domain d).candidate = some c) (hs : c.phase ≠ .starting)
    (h : c.phase = .passed ∨ ∃ t0, c.windowStart = some t0 ∧ s.mclk ≤ t0 + 800000 * 2 ^ c.settle) :
    s.windowOver d (s.mclk - 1) = s := by
  match hp : c.phase with
  | .starting => exact absurd hp hs
  | .passed =>
    have none : c.windowEnd = none := by
      unfold Candidate.windowEnd
      rw [hp]
      exact if_neg (by decide)
    unfold State.windowOver
    simp only [hc, none]
  | .settling =>
    obtain passed | ⟨t0, start, later⟩ := h
    · exact absurd (passed.symm.trans hp) (by decide)
    · rw [windowOver_of_some hc (windowEnd_of_settling hp start)]
      refine if_neg fun out => ?_
      have long : 0 < 800000 * 2 ^ c.settle := by positivity
      omega

theorem measured_of_candidate {c : Candidate} (hl : ¬ (s.domain d).lockedTo w) (hc : (s.domain d).candidate = some c)
    (source : c.source = wordSource w) (hw : s.windowOver d (s.mclk - 1) = s) :
    s.measured w m d = s.measureCandidate d m := by
  have on : s.candidateOn w d = true := candidateOn_iff.2 ⟨c, hc, source⟩
  unfold State.measured
  simp only [on, if_true, hw]
  rw [if_neg (hl ∘ lockedOn_iff.1)]

theorem measureCandidate_of_some {c : Candidate} (hc : (s.domain d).candidate = some c) :
    s.measureCandidate d m = if withinTolerance c.family c.mult m then
      s.setDomain d { s.domain d with candidate := some { c with latest := some m } }
      else s.failCandidate d .outOfTolerance m := by
  unfold State.measureCandidate
  rw [hc]
  rfl

/-! ## The block of an input (R92) -/

/-- R92: the edge counts in its block. -/
def WordInput.counted (x : WordInput) (now : Nat) : WordInput :=
  { x with lastEdge := now, blockEdges := x.blockEdges + 1 }

/-- R92: the edge completes a measurement. -/
def WordInput.completed (x : WordInput) (now : Nat) : WordInput :=
  { x with
    lastEdge := now, blockStart := now, blockEdges := 0, latest := some (now - x.blockStart), stale := false,
    measurements := x.measurements + 1 }

theorem countEdge_within (h : (s.input w).blockEdges + 1 < 64) :
    s.countEdge w order = s.setInput w ((s.input w).counted s.mclk) := if_pos h

theorem countEdge_completes (h : 63 ≤ (s.input w).blockEdges) : s.countEdge w order =
    (indices 4).foldl (fun u d => u.afterLoss d u.mclk order (u.measured w (s.mclk - (s.input w).blockStart) d))
      (s.setInput w ((s.input w).completed s.mclk)) := if_neg (Nat.not_lt.2 (Nat.succ_le_succ h))

/-- R92: no candidate is on the input, and a domain LOCKED on it finds the measurement inside tolerance. -/
def Domain.keepsMeasure (x : Domain) (w : Fin 2) (m : Nat) : Prop :=
  (∀ c, x.candidate = some c → c.source ≠ wordSource w) ∧ (x.lockedTo w → withinTolerance x.family x.mult m = true)

/-- R92: what a measurement inside tolerance makes of a domain. -/
def Domain.measuredWell (w : Fin 2) (m : Nat) (x : Domain) : Domain :=
  if x.lockedTo w then { x with lastGood := some m } else x

theorem afterLoss_of_kept (h : (u.domain d).run ≠ .holdover) (moment : Nat) :
    s.afterLoss d moment order u = u := if_neg fun both => h both.2

theorem measured_of_kept (h : (s.domain d).keepsMeasure w m) (moment : Nat) :
    s.afterLoss d moment order (s.measured w m d) = s.mapDomain d (Domain.measuredWell w m) := by
  obtain ⟨others, good⟩ := h
  have off := candidateOn_of_others others
  unfold State.mapDomain Domain.measuredWell
  by_cases hl : (s.domain d).lockedTo w
  · rw [measured_of_good hl off (good hl), if_pos hl, afterLoss_of_kept]
    rw [State.domain_setDomain_self]
    exact ne_of_eq_of_ne hl.1 (by decide)
  · rw [measured_of_elsewhere hl off, if_neg hl, State.setDomain_domain]
    exact if_neg fun both => absurd (both.1.symm.trans both.2) (by decide)

theorem measuredWell_of_locked {x : Domain} (h : x.lockedTo w) : x.measuredWell w m = { x with lastGood := some m } :=
  if_pos h

theorem measuredWell_of_elsewhere {x : Domain} (h : ¬ x.lockedTo w) : x.measuredWell w m = x := if_neg h

/-- R92: the 64th edge of a block, its measurement inside tolerance for every domain that judges it. -/
theorem countEdge_kept (h : 63 ≤ (s.input w).blockEdges)
    (kept : ∀ d, (s.domain d).keepsMeasure w (s.mclk - (s.input w).blockStart)) :
    DomainsSet (s.setInput w ((s.input w).completed s.mclk)) (s.countEdge w order) ∧
      ∀ k, (s.countEdge w order).domain k = (s.domain k).measuredWell w (s.mclk - (s.input w).blockStart) := by
  rw [countEdge_completes h]
  exact foldl_mapDomain_indices (g := fun _ => Domain.measuredWell w (s.mclk - (s.input w).blockStart))
    (P := fun x => x.keepsMeasure w (s.mclk - (s.input w).blockStart))
    (fun u _ good => measured_of_kept good u.mclk) _ kept

/-! ## The rising edge (R91, R92, R94) -/

section Row

variable {dt : Nat} {first : List (Fin 4)}

theorem exec_wordClockEdge (hp : s.phase ≠ .held) : exec (.wordClockEdge w dt ⟨first, order⟩) s =
    .next ((s.elapse dt).risingEdge w first order) := congrArg _ (if_neg hp)

theorem risingEdge_of_absent (h : (s.input w).present = false) : s.risingEdge w first order =
    (s.setInput w { s.input w with present := true, lastEdge := s.mclk, blockStart := s.mclk, blockEdges := 0 }).request
      (.input w) := by
  have edged : s.edgeless w (Config.absenceLimit + 1) = false := by unfold State.edgeless; rw [h]; rfl
  unfold State.risingEdge
  simp only [edged, h, Bool.false_eq_true, if_false]

theorem risingEdge_of_present (h : (s.input w).present = true) (ht : s.mclk ≤ (s.input w).lastEdge + 10000) :
    s.risingEdge w first order = s.presentEdge w first order := by
  have edged : s.edgeless w (Config.absenceLimit + 1) = false := by
    unfold State.edgeless
    rw [h, Bool.true_and]
    exact decide_eq_false (Nat.not_le.2 (Nat.lt_succ_of_le ht))
  unfold State.risingEdge
  simp only [edged, h, Bool.false_eq_true, if_false, if_true]

/-- R94: with no boundary owed and none taken first, the edge counts and each domain owes its boundary. -/
theorem presentEdge_of_settled (h : ∀ d, (s.domain d).lockedTo w → (s.domain d).edgeOwed = false) :
    s.presentEdge w [] order = (indices 4).foldl (State.oweBoundary w) (s.countEdge w order) := by
  have settled : (indices 4).foldl (State.settleEdge w order) s = s :=
    foldl_fixed (fun e => settleEdge_of_settled fun ⟨locked, owes⟩ =>
      absurd ((h e locked).symm.trans owes) (by decide)) _
  unfold State.presentEdge
  rw [settled]
  rfl

/-- R94: the domains LOCKED on the input owe the boundary of an edge that ends their frame. -/
theorem oweBoundaries (u : State) : DomainsSet u ((indices 4).foldl (State.oweBoundary w) u) ∧
    ∀ k, ((indices 4).foldl (State.oweBoundary w) u).domain k = (u.domain k).edgeCome w u.mclk :=
  foldl_mapDomain_indices (P := fun _ => True) (fun u e _ => oweBoundary_eq u e) u fun _ => trivial

theorem edgeCome_of_locked {x : Domain} (hl : x.lockedTo w) (ha : x.afterSwitch = none) (t : Nat) :
    x.edgeCome w t = x.owing :=
  if_pos ⟨hl, (edgeEndsFrame_iff x t).2 fun t0 h => absurd (ha.symm.trans h) (by simp)⟩

theorem edgeCome_of_elsewhere {x : Domain} (hl : ¬ x.lockedTo w) (t : Nat) : x.edgeCome w t = x :=
  if_neg fun both => hl both.1

end Row

end Sys2Proof.Machine

namespace Sys2Proof.Proofs

open Sys2Proof.Machine

/-- Settles O47: an edge by the input and its block, the boundaries it makes domain by domain, and a measurement by what
the domain has on the input. -/
theorem risingEdgesAreJudged : Obligations.RisingEdgesAreJudged := by
  refine ⟨fun w dt first order s hp => ?_, fun s w order => ⟨fun within => countEdge_within within, fun full => ?_⟩,
    fun s w m d => ⟨fun elsewhere others => ?_, fun locked others => ⟨fun good => ?_, fun bad => ?_⟩,
      fun c elsewhere hc source still up => ⟨fun good => ?_, fun bad => ?_⟩⟩⟩
  · have run := exec_wordClockEdge (w := w) (dt := dt) (first := first) (order := order) hp
    refine ⟨fun absent => ?_, fun present soon => ?_, fun u d => ⟨?_, ?_, ?_, ?_⟩,
      fun present soon within none settled => ?_, fun present soon full none others settled => ?_⟩
    · exact run.trans (congrArg _ (risingEdge_of_absent (s := s.elapse dt) absent))
    · exact run.trans (congrArg _ (risingEdge_of_present (s := s.elapse dt) present soon))
    · exact fun locked owed => settleEdge_of_owed locked owed
    · exact fun settled => settleEdge_of_settled settled
    · intro locked ends
      have ends' := (edgeEndsFrame_iff _ _).2 ends
      exact ⟨boundaryFirst_of_ends locked ends', oweBoundary_of_ends locked ends'⟩
    · exact fun within => edge_of_within fun both => within ⟨both.1, (edgeEndsFrame_iff _ _).1 both.2⟩
    all_goals
      subst none
      rw [risingEdge_of_present (s := s.elapse dt) present soon,
        presentEdge_of_settled (s := s.elapse dt) fun d locked => (settled d locked).1] at run
    · rw [countEdge_within (s := s.elapse dt) within] at run
      obtain ⟨only, domains⟩ := oweBoundaries (w := w) ((s.elapse dt).setInput w ((s.input w).counted (s.mclk + dt)))
      refine ⟨_, run, ?_, ?_, fun d => ⟨fun locked => ?_, fun elsewhere => ?_⟩⟩
      · exact only.rest
      · exact (only.input w).trans (State.input_setInput_self _ w _)
      · exact (domains d).trans (edgeCome_of_locked locked (settled d locked).2 _)
      · exact (domains d).trans (edgeCome_of_elsewhere elsewhere _)
    · obtain ⟨counted, measured⟩ := countEdge_kept (s := s.elapse dt) (order := order) full
        fun d => ⟨others d, fun locked => (settled d locked).2.2⟩
      obtain ⟨only, domains⟩ := oweBoundaries (w := w) ((s.elapse dt).countEdge w order)
      refine ⟨_, run, ?_, ?_, fun d => ⟨fun locked => ?_, fun elsewhere => ?_⟩⟩
      · exact (counted.trans only).rest
      · exact ((counted.trans only).input w).trans (State.input_setInput_self _ w _)
      · rw [domains, measured, measuredWell_of_locked (x := (s.elapse dt).domain d) locked]
        exact edgeCome_of_locked (x := { s.domain d with lastGood := some (s.mclk + dt - (s.input w).blockStart) })
          locked (settled d locked).2.1 _
      · rw [domains, measured, measuredWell_of_elsewhere (x := (s.elapse dt).domain d) elsewhere]
        exact edgeCome_of_elsewhere elsewhere _
  · rw [countEdge_completes full]
    rfl
  · exact measured_of_elsewhere elsewhere (candidateOn_of_others others)
  · exact measured_of_good locked (candidateOn_of_others others) good
  · exact measured_of_bad locked (candidateOn_of_others others) bad
  all_goals
    rw [measured_of_candidate elsewhere hc source (windowOver_of_open hc up still), measureCandidate_of_some hc]
  · exact if_pos good
  · exact if_neg (Bool.eq_false_iff.1 bad)

end Sys2Proof.Proofs
end

-- ==== Proofs of the family 04: the loss of a reference ====
section
/-! The absence of an input, the loss of a domain's reference, and the boundaries that holdover timing places up to it
(R79, R82 to R84, R91). -/

namespace Sys2Proof.Machine

variable {s t u : State} {d : Fin 4} {w : Fin 2} {order : List BoundaryPart}

/-! ## Holdover timing stands until the domain leaves HOLDOVER (R72, R83) -/

/-- Where `y` is in HOLDOVER, `x` was, with the same timing. -/
def Domain.TimedAs (x y : Domain) : Prop := y.run = .holdover →
  x.run = .holdover ∧ y.lastGood = x.lastGood ∧ y.holdStart = x.holdStart ∧ y.holdIndex = x.holdIndex

/-- Each domain that is in HOLDOVER in `t` was so in `s`, with the same timing. -/
def TimingStands (s t : State) : Prop := ∀ d, (s.domain d).TimedAs (t.domain d)

theorem TimingStands.of_domains (h : ∀ d, t.domain d = s.domain d) : TimingStands s t := fun d hold => by
  rw [h d] at hold ⊢
  exact ⟨hold, rfl, rfl, rfl⟩

theorem TimingStands.refl (s : State) : TimingStands s s := .of_domains fun _ => rfl

theorem TimingStands.trans (a : TimingStands s t) (b : TimingStands t u) : TimingStands s u := fun d hold => by
  obtain ⟨run, good, start, index⟩ := b d hold
  obtain ⟨run', good', start', index'⟩ := a d run
  exact ⟨run', good.trans good', start.trans start', index.trans index'⟩

theorem TimingStands.of_domain (itself : (s.domain d).TimedAs (t.domain d))
    (others : ∀ e, e ≠ d → t.domain e = s.domain e) : TimingStands s t := fun e => by
  by_cases he : e = d
  · subst he; exact itself
  · rw [others e he]; exact fun hold => ⟨hold, rfl, rfl, rfl⟩

theorem TimingStands.setDomain (s : State) {x : Domain} (h : (s.domain d).TimedAs x) :
    TimingStands s (s.setDomain d x) :=
  .of_domain (d := d) (by rw [State.domain_setDomain_self]; exact h)
    fun _ he => State.domain_setDomain_of_ne s x he.symm

theorem TimingStands.foldl {α : Type} {f : State → α → State} (h : ∀ s a, TimingStands s (f s a)) (l : List α)
    (s : State) : TimingStands s (l.foldl f s) := foldl_related .refl .trans h l s

theorem failCandidate_timing (s : State) (d : Fin 4) (cause : ClockCause) (m : Nat) :
    TimingStands s (s.failCandidate d cause m) := by
  have gone := failCandidate_gone s d cause m
  refine .of_domain ?_ gone.others
  rw [gone.itself]
  exact fun hold => ⟨hold, rfl, rfl, rfl⟩

theorem createCandidate_timing (s : State) (d : Fin 4) (c : Candidate) : TimingStands s (s.createCandidate d c) := by
  have placed (c' : Candidate) : TimingStands s (s.setDomain d { s.domain d with candidate := some c' }) :=
    .setDomain s fun hold => ⟨hold, rfl, rfl, rfl⟩
  have asked {u : State} (h : TimingStands s u) : TimingStands s (u.request (.domain d)) :=
    h.trans (.of_domains (State.request_domain u _))
  unfold State.createCandidate
  dsimp only
  split
  · exact asked ((placed _).trans (.of_domains (tendOscs_domain _)))
  · split
    · exact asked (placed _)
    · split
      · exact asked (placed _)
      · exact (asked (placed _)).trans (failCandidate_timing _ _ _ _)

theorem recordRead_timing (s : State) : TimingStands s s.recordRead := .of_domains (State.recordRead_domain s)

theorem applySwitch_timing (s : State) (d : Fin 4) : TimingStands s (s.applySwitch d).state := by
  unfold State.applySwitch
  dsimp only
  repeat' split
  all_goals try exact recordRead_timing s
  exact (recordRead_timing s).trans (createCandidate_timing _ d _)

theorem applyRate_timing (s : State) (d : Fin 4) : TimingStands s (s.applyRate d).state := by
  have changed (m : Factor) (k : Nat) (r : Option RateChange) : TimingStands s.recordRead
      (s.recordRead.setDomain d { s.recordRead.domain d with mult := m, tickExp := k, rateChange := r }) :=
    .setDomain _ fun hold => ⟨hold, rfl, rfl, rfl⟩
  unfold State.applyRate
  dsimp only
  repeat' split
  all_goals try exact recordRead_timing s
  · exact (recordRead_timing s).trans (changed _ _ _)
  · exact (recordRead_timing s).trans ((changed _ _ _).trans (.of_domains (State.request_domain _ _)))

theorem applyStopDomain_timing (s : State) (d : Fin 4) : TimingStands s (s.applyStopDomain d).state := by
  unfold State.applyStopDomain
  dsimp only
  split
  · exact .refl s
  · have failed := failCandidate_timing s d .cancelled 0
    split
    · generalize s.failCandidate d .cancelled 0 = t at failed
      have stopped : TimingStands t (t.setDomain d { t.domain d with
          run := .stopped, afterSwitch := none, edgeOwed := false }) := .setDomain t fun hold => by cases hold
      refine failed.trans (stopped.trans (.of_domains fun e => ?_))
      dsimp only [Outcome.state]
      rw [State.request_domain, stopOutputs_domain, retrainLanes_domain, tendOscs_domain]
      rfl
    · exact failed

theorem timing_onTarget {n : Nat} (o : Option (Fin n)) {f : Fin n → Outcome} (hf : ∀ x, TimingStands s (f x).state) :
    TimingStands s (onTarget s o f).state := by
  unfold onTarget
  split
  · exact .refl s
  · exact hf _

theorem handOver_timing (s : State) (c : Cue) : TimingStands s (s.handOver c).state := by
  obtain ⟨v, b⟩ := c
  cases v with
  | startStream => exact timing_onTarget _ fun i => .of_domains (applyStart_domain s i)
  | stopStream =>
    refine timing_onTarget _ fun i => .of_domains fun d => ?_
    exact (engine_domain (engine_applyStop _ i _ _) d).trans (cancelStart_domain s i _ d)
  | swapRing => exact timing_onTarget _ fun i => .of_domains (applySwap_domain s i)
  | switchReference => exact timing_onTarget _ (applySwitch_timing s)
  | setRate => exact timing_onTarget _ (applyRate_timing s)
  | stopDomain => exact timing_onTarget _ (applyStopDomain_timing s)
  | assignLane =>
    refine timing_onTarget _ fun l => ?_
    split
    · exact .refl s
    · exact .of_domains (applyAssign_domain s l _)
  | laneCommand => exact timing_onTarget _ fun l => .of_domains (applyCommand_domain s l _)
  | setOutput => exact timing_onTarget _ fun o => .of_domains (applySetOutput_domain s o)
  | motorTarget => exact .of_domains (motorCue_domain s b fun x f => x.motorTo f (b.arg2.extractLsb' 0 10))
  | motorFree => exact .of_domains (motorCue_domain s b Port.motorFree)
  | mark => exact .refl s

theorem applyCue_timing (s : State) (c : Cue) : TimingStands s (s.applyCue c) := by
  cases hk : s.applicationCheck c with
  | false => rw [applyCue_of_mismatch hk]; exact .of_domains (afterCue_domain s s c _)
  | true =>
    rw [applyCue_of_check hk]
    refine (handOver_timing s c).trans (.of_domains fun d => ?_)
    cases s.handOver c <;> exact afterCue_domain _ _ _ _ _

theorem applyCues_timing (d : Fin 4) : ∀ (n room : Nat) (s : State), TimingStands s (s.applyCues d n room)
  | 0, _, s => .refl s
  | n + 1, room, s => by
    unfold State.applyCues
    split
    · exact .refl s
    · split
      · exact .refl s
      · exact (applyCue_timing s _).trans (applyCues_timing d n _ _)

theorem boundaryPart_timing (d : Fin 4) (ticks : Bool) (s : State) (p : BoundaryPart) :
    TimingStands s (s.boundaryPart d ticks p) := by
  cases p with
  | lane l => exact .of_domains (takeLane_domain s d l)
  | cues => exact applyCues_timing d _ _ s
  | output o =>
    show TimingStands s (if (s.domain d).running then s.outputBoundary d o else s)
    split
    · exact .of_domains (beside_outputBoundary (l := 0) (.refl s) d o).domains
    · exact .refl s
  | tick =>
    show TimingStands s (if ticks ∧ (s.domain d).running then s.tick d else s)
    split
    · exact .of_domains (beside_tick (l := 0) (.refl s) d).domains
    · exact .refl s

theorem partsTaken_timing (s : State) (d : Fin 4) (order : List BoundaryPart) :
    TimingStands s (s.partsTaken d order) := by
  have start : TimingStands s { s with li := { s.li with atBoundary := s.lanesOf d } } := .of_domains fun _ => rfl
  exact start.trans (.foldl (boundaryPart_timing d _) _ _)

theorem rateAtBoundary_timing (s : State) (d : Fin 4) : (s.domain d).TimedAs ((s.rateAtBoundary d).domain d) := by
  match h : (s.domain d).rateChange with
  | none => rw [rateAtBoundary_of_none h]; exact TimingStands.refl s d
  | some r => rw [rateAtBoundary_domain h]; exact fun hold => ⟨hold, rfl, rfl, rfl⟩

theorem switchAtBoundary_timing (s : State) (d : Fin 4) (t : Nat) :
    (s.domain d).TimedAs ((s.switchAtBoundary d t).domain d) := by
  by_cases h : ∃ c, (s.domain d).candidate = some c ∧ c.phase = .passed
  · obtain ⟨c, hc, passed⟩ := h
    rw [switchAtBoundary_domain hc passed]
    exact fun hold => by cases hold
  · rw [switchAtBoundary_waits fun c hc passed => h ⟨c, hc, passed⟩]
    exact TimingStands.refl s d

/-- R83: a boundary moves holdover timing by one frame, or the domain leaves HOLDOVER. -/
theorem takeBoundary_timing (s : State) (d : Fin 4) (t : Nat) (order : List BoundaryPart) :
    ((s.domain d).count1 d t).TimedAs ((s.takeBoundary d t order).domain d) := by
  rw [takeBoundary_eq]
  intro hold
  have parts := partsTaken_timing
    (((s.setDomain d ((s.domain d).count1 d t)).rateAtBoundary d).switchAtBoundary d t) d order d hold
  have switch := switchAtBoundary_timing ((s.setDomain d ((s.domain d).count1 d t)).rateAtBoundary d) d t parts.1
  have rate := rateAtBoundary_timing (s.setDomain d ((s.domain d).count1 d t)) d switch.1
  rw [State.domain_setDomain_self] at rate
  obtain ⟨-, good3, start3, index3⟩ := parts
  obtain ⟨-, good2, start2, index2⟩ := switch
  obtain ⟨run, good1, start1, index1⟩ := rate
  exact ⟨run, good3.trans (good2.trans good1), start3.trans (start2.trans start1), index3.trans (index2.trans index1)⟩

/-! ## The catch-up ends (R83) -/

theorem runCycles_of_good {x : Domain} {m : Nat} (h : x.lastGood = some m) (d : Fin 4) : x.runCycles d = m := by
  unfold Domain.runCycles
  rw [h]
  rfl

theorem holdoverDue_of_good {x : Domain} {m : Nat} (h : x.lastGood = some m) (d : Fin 4) :
    x.holdoverDue d = x.holdStart + (x.holdIndex + 1) * m / 64 := by
  unfold Domain.holdoverDue
  rw [runCycles_of_good h]
  rfl

section CatchUp

variable {limit : Nat}

theorem catchUp_takes (hr : (s.domain d).run = .holdover) (due : (s.domain d).holdoverDue d ≤ limit) (n : Nat) :
    s.catchUp d limit order (n + 1) = (s.takeBoundary d limit order).catchUp d limit order n := if_pos ⟨hr, due⟩

theorem catchUp_of_later (later : limit < (s.domain d).holdoverDue d) : ∀ n, s.catchUp d limit order n = s
  | 0 => rfl
  | _ + 1 => if_neg fun due => Nat.not_le.2 later due.2

end CatchUp

/-- R83: the frames of a run from `start` that end by `limit`, at most. -/
def framesBy (limit start m : Nat) : Nat := 64 * (limit - start) / m + 1

theorem index_lt_framesBy {limit start index m : Nat} (hm : 64 ≤ m) (due : start + (index + 1) * m / 64 ≤ limit) :
    index < framesBy limit start m := by
  have split : (index + 1) * m = index * m + m := Nat.succ_mul _ _
  have fits : index * m ≤ 64 * (limit - start) := by omega
  exact Nat.lt_succ_of_le ((Nat.le_div_iff_mul_le (by omega)).2 fits)

theorem framesBy_next {limit start m : Nat} (hm : 64 ≤ m) (h : start + m ≤ limit) :
    framesBy limit (start + m) m + 64 = framesBy limit start m := by
  have split : 64 * (limit - start) = 64 * (limit - (start + m)) + m * 64 := by omega
  unfold framesBy
  rw [split, Nat.add_mul_div_left _ _ (by omega)]

/-- R83: the frames that the catch-up has still to take, at most. -/
def Domain.framesLeft (x : Domain) (limit m : Nat) : Nat := framesBy limit x.holdStart m - min x.holdIndex 63

/-- R83: a boundary that is due takes one of them. -/
theorem framesLeft_count1 {x : Domain} {limit m : Nat} (hr : x.run = .holdover) (hg : x.lastGood = some m) (hm : 64 ≤ m)
    (due : x.holdoverDue d ≤ limit) (t : Nat) : (x.count1 d t).framesLeft limit m < x.framesLeft limit m := by
  rw [holdoverDue_of_good hg] at due
  have started := index_lt_framesBy hm due
  unfold Domain.framesLeft
  by_cases within : x.holdIndex + 1 < 64
  · rw [count1_within hr within]
    dsimp only
    omega
  · have full : 64 * m ≤ (x.holdIndex + 1) * m := Nat.mul_le_mul_right m (Nat.not_lt.1 within)
    have next := framesBy_next hm (show x.holdStart + m ≤ limit by omega)
    rw [count1_ends hr (Nat.not_lt.1 within) hg]
    dsimp only
    omega

/-- R83: the domain has left HOLDOVER, or its next boundary falls after `limit`. -/
def Domain.caughtUp (x : Domain) (limit m : Nat) : Prop :=
  x.run ≠ .holdover ∨ (x.lastGood = some m ∧ limit < x.holdStart + (x.holdIndex + 1) * m / 64)

theorem catchUp_caughtUp {limit m : Nat} (hm : 64 ≤ m) : ∀ (n : Nat) (s : State), (s.domain d).lastGood = some m →
    (s.domain d).framesLeft limit m ≤ n → ((s.catchUp d limit order n).domain d).caughtUp limit m
  | n, s, hg, hn => by
    by_cases hr : (s.domain d).run = .holdover
    · by_cases due : (s.domain d).holdoverDue d ≤ limit
      · have less := framesLeft_count1 hr hg hm due limit
        match n with
        | 0 => omega
        | n + 1 =>
          rw [catchUp_takes hr due]
          have timing := takeBoundary_timing s d limit order
          generalize s.takeBoundary d limit order = t at timing
          by_cases held : (t.domain d).run = .holdover
          · obtain ⟨-, good, start, index⟩ := timing held
            have frame := count1_frame (s.domain d) d limit
            refine catchUp_caughtUp hm n t ?_ ?_
            · rw [good, frame]; exact hg
            · unfold Domain.framesLeft at *
              rw [start, index]
              omega
          · rw [catchUp_of_left held]
            exact .inl held
      · rw [catchUp_of_later (Nat.not_le.1 due)]
        rw [holdoverDue_of_good hg] at due
        exact .inr ⟨hg, Nat.not_le.1 due⟩
    · rw [catchUp_of_left hr]
      exact .inl hr

/-! ## The loss of a reference (R82, R84) -/

/-- R82: the domain goes on in HOLDOVER from its last boundary. -/
def Domain.lost (x : Domain) : Domain :=
  { x with run := .holdover, holdStart := x.lastBoundary, holdIndex := 0, afterSwitch := none, edgeOwed := false }

/-- R82, R87: REFERENCE_LOST; its flag says that the fallback becomes a candidate. -/
def State.lostEvent (s : State) (d : Fin 4) (cause : ClockCause) (taken : Bool) : Event :=
  { kind := .referenceLost, source := d.val, stampDomain := some d, stampCount := (s.domain d).count,
    d0 := fields [(0, refCode (s.domain d).ref), (8, cause.code)], d1 := nat32 ((s.domain d).lastGood.getD 0),
    flagA := taken, flagB := false }

/-- R82: the domain in HOLDOVER and its report. -/
def State.goesHolding (s : State) (d : Fin 4) (cause : ClockCause) (taken : Bool) : State :=
  ((s.setDomain d (s.domain d).lost).request (.domain d)).passEvent (s.lostEvent d cause taken)

theorem goesHolding_of_value (s : State) (d : Fin 4) (cause : ClockCause) (taken : Bool) {n : Nat}
    (h : (s.domain d).lastGood.getD 0 = n) : s.goesHolding d cause taken =
      ((s.setDomain d (s.domain d).lost).request (.domain d)).passEvent
        { s.lostEvent d cause taken with d1 := nat32 n } := by
  subst h
  rfl

/-- R84: the candidate that the fallback becomes. -/
def Domain.fallbackCandidate (x : Domain) (f : Source) : Candidate :=
  { source := f, family := x.family, mult := x.mult, tickExp := x.tickExp, settle := x.settle, fallback := some f,
    origin := .fallback, phase := .starting, windowStart := none, latest := none }

theorem goesHolding_eq (s : State) (d : Fin 4) (cause : ClockCause) (taken : Bool) :
    (s.setDomain d (s.domain d).lost).reportDomain d
      { (s.setDomain d (s.domain d).lost).domainEvent .referenceLost d
          (fields [(0, refCode (s.domain d).ref), (8, cause.code)]) (nat32 ((s.domain d).lastGood.getD 0)) with
        flagA := taken } = s.goesHolding d cause taken := by
  have itself : (s.setDomain d (s.domain d).lost).domain d = (s.domain d).lost := State.domain_setDomain_self s d _
  have stamp : (s.setDomain d (s.domain d).lost).stampOf d = (some d, (s.domain d).count) := by
    rw [stampOf_of_running (by rw [itself]; exact fun stopped => by cases stopped), itself]
    rfl
  unfold State.reportDomain State.domainEvent
  rw [stamp]
  rfl

theorem loseReference_holds (h : (s.domain d).candidate ≠ none ∨ (s.domain d).fallback = none) (cause : ClockCause) :
    s.loseReference d cause = s.goesHolding d cause false := by
  have none : ((s.domain d).candidate.isNone && (s.domain d).fallback.isSome) = false := by
    rcases h with h | h
    · rw [Option.isNone_eq_false_iff.2 (Option.isSome_iff_ne_none.2 h), Bool.false_and]
    · rw [h, Option.isSome_none, Bool.and_false]
  have held := goesHolding_eq s d cause false
  rw [← none] at held
  unfold State.loseReference
  dsimp only
  split
  · next f hc hf => exact absurd hf (h.resolve_left (not_not.2 hc) ▸ Option.some_ne_none f ∘ Eq.symm)
  · exact held.trans (congrArg _ none)

theorem loseReference_falls {f : Source} (hc : (s.domain d).candidate = none) (hf : (s.domain d).fallback = some f)
    (cause : ClockCause) : s.loseReference d cause =
      (s.goesHolding d cause true).createCandidate d ((s.domain d).fallbackCandidate f) := by
  have taken : ((s.domain d).candidate.isNone && (s.domain d).fallback.isSome) = true := by rw [hc, hf]; rfl
  have held := goesHolding_eq s d cause true
  rw [← taken] at held
  unfold State.loseReference
  dsimp only
  split
  · next g _ hg =>
    obtain rfl : f = g := Option.some.inj (hf.symm.trans hg)
    rw [Domain.fallbackCandidate, ← hf, ← taken, ← held]
    rfl
  · next none => exact absurd hf (none f hc)

/-! ## The absence of an input (R79, R82, R91) -/

theorem inputLost_eq (s : State) (w : Fin 2) (d : Fin 4) : s.inputLost w d =
    if s.candidateOn w d then (if s.lockedOn w d then s.loseReference d .absent else s).failCandidate d .absent 0
    else if s.lockedOn w d then s.loseReference d .absent else s := rfl

theorem settleEdge_input (s : State) (d : Fin 4) (w' : Fin 2) :
    (State.settleEdge w order s d).input w' = s.input w' := by
  by_cases h : (s.domain d).lockedTo w ∧ (s.domain d).edgeOwed = true
  · rw [settleEdge_of_owed h.1 h.2, takeBoundary_input]
    rfl
  · rw [settleEdge_of_settled h]

theorem settleEdges_input (w' : Fin 2) : ∀ (l : List (Fin 4)) (s : State),
    (l.foldl (State.settleEdge w order) s).input w' = s.input w'
  | [], _ => rfl
  | d :: l, s => (settleEdges_input w' l _).trans (settleEdge_input s d w')

theorem exec_inputAbsent {dt : Nat} (hp : s.phase ≠ .held) : exec (.inputAbsent w dt order) s =
    .next (if (s.elapse dt).edgeless w 10000 then (s.elapse dt).goAbsent w order else s.elapse dt) :=
  congrArg _ (if_neg hp)

theorem edgeless_iff (limit : Nat) :
    s.edgeless w limit = true ↔ (s.input w).present = true ∧ (s.input w).lastEdge + limit ≤ s.mclk := by
  unfold State.edgeless
  rw [Bool.and_eq_true, decide_eq_true_eq]

/-- R91: the input after its absence. -/
def WordInput.gone (x : WordInput) : WordInput :=
  { x with present := false, absences := satInc x.absences, stale := x.latest.isSome, blockEdges := 0 }

theorem goAbsent_eq (s : State) (w : Fin 2) (order : List BoundaryPart) : s.goAbsent w order =
    (indices 4).foldl (fun u d => u.afterLoss d ((s.input w).lastEdge + 10000) order (u.inputLost w d))
      ((((indices 4).foldl (State.settleEdge w order) s).setInput w (s.input w).gone).request (.input w)) := by
  unfold State.goAbsent
  dsimp only
  rw [settleEdges_input]
  rfl

end Sys2Proof.Machine

namespace Sys2Proof.Proofs

open Sys2Proof.Machine

/-- Settles O48: the absence by the domains' shares of it, the loss by the candidate and the fallback, and the catch-up by
the frames that are left to it. -/
theorem lossStartsHoldover : Obligations.LossStartsHoldover := by
  refine ⟨fun w dt order s hp => ⟨fun there => ?_, fun present silent => ?_, fun u d => ?_⟩,
    fun s d cause => ⟨fun holds => ?_, fun f hc hf => ?_⟩,
    fun s d limit fuel m order hr hg => ⟨fun due => ?_, fun later => ?_⟩,
    fun s d limit fuel order hr => catchUp_of_left hr limit order fuel,
    fun s d limit m order hr hg hm => ?_⟩
  · rw [exec_inputAbsent hp, if_neg fun gone => ?_]
    · rfl
    · obtain ⟨present, silent⟩ := (edgeless_iff _).1 gone
      exact there.elim (fun absent => absurd (absent.symm.trans present) (by decide)) (Nat.not_lt.2 silent)
  · rw [exec_inputAbsent hp, if_pos ((edgeless_iff (s := s.elapse dt) _).2 ⟨present, silent⟩), goAbsent_eq]
    rfl
  · dsimp only
    rw [inputLost_eq]
    refine ⟨fun off away => ?_, fun on away => ?_, fun off waits => ?_, fun on waits => ?_⟩
    · rw [if_neg (away ∘ candidateOn_iff.1), if_neg (off ∘ lockedOn_iff.1)]
    · rw [if_neg (away ∘ candidateOn_iff.1), if_pos (lockedOn_iff.2 on)]
    · rw [if_pos (candidateOn_iff.2 waits), if_neg (off ∘ lockedOn_iff.1)]
    · rw [if_pos (candidateOn_iff.2 waits), if_pos (lockedOn_iff.2 on)]
  · rw [loseReference_holds holds]
    exact goesHolding_of_value s d cause false (by cases (s.domain d).lastGood <;> rfl)
  · rw [loseReference_falls hc hf]
    refine congrArg (fun u => State.createCandidate u d _) ?_
    exact goesHolding_of_value s d cause true (by cases (s.domain d).lastGood <;> rfl)
  · exact catchUp_takes hr ((holdoverDue_of_good hg d).trans_le due) fuel
  · exact catchUp_of_later (later.trans_eq (holdoverDue_of_good hg d).symm) _
  · refine catchUp_caughtUp hm _ s hg ?_
    unfold State.catchUpFuel
    dsimp only
    rw [runCycles_of_good hg]
    exact Nat.sub_le _ _

end Sys2Proof.Proofs
end

-- ==== Proofs of the family 05: the tolerance of a measurement ====

section
/-! The tolerance of a measurement (R71, R93). -/

namespace Sys2Proof.Machine

variable {f : Family} {k : Factor} {m : Nat}

theorem rateOf_pos (f : Family) (k : Factor) : 0 < rateOf f k := by cases f <;> cases k <;> decide

/-- R93: the comparison of the model, cleared of fractions. -/
theorem withinTolerance_iff : withinTolerance f k m = true ↔
    6400000000 * 999500 ≤ m * rateOf f k * 1000000 ∧ m * rateOf f k * 1000000 ≤ 6400000000 * 1000500 := by
  unfold withinTolerance
  rw [Bool.and_eq_true, decide_eq_true_eq, decide_eq_true_eq]

/-- R93: 500 parts per million of `n / r`, once with `r` divided out and once with it multiplied in. -/
theorem deviation_le_iff {r n : ℚ} (hr : 0 < r) (x c : ℚ) :
    |x - n / r| ≤ c * (n / r) ↔ n * (1 - c) ≤ x * r ∧ x * r ≤ n * (1 + c) := by
  have scaled : x - n / r = (x * r - n) / r := by rw [sub_div, mul_div_cancel_right₀ _ hr.ne']
  rw [scaled, abs_div, abs_of_pos hr, ← mul_div_assoc, div_le_div_iff_of_pos_right hr, abs_le]
  constructor <;> rintro ⟨low, high⟩ <;> constructor <;> linarith

theorem withinTolerance_iff_deviation : withinTolerance f k m = true ↔
    |(m : ℚ) - 64 * 100000000 / (rateOf f k : ℚ)| ≤ 500 / 1000000 * (64 * 100000000 / (rateOf f k : ℚ)) := by
  rw [withinTolerance_iff, deviation_le_iff (Nat.cast_pos.2 (rateOf_pos f k)), ← Nat.cast_mul]
  generalize m * rateOf f k = x
  rw [← Nat.cast_le (α := ℚ), ← Nat.cast_le (α := ℚ)]
  push_cast
  constructor <;> rintro ⟨low, high⟩ <;> constructor <;> linarith

end Sys2Proof.Machine

namespace Sys2Proof.Proofs

open Sys2Proof.Machine

/-- Settles O42: the comparison cleared of fractions, at each of the six rates. -/
theorem toleranceIsTheTable : Obligations.ToleranceIsTheTable := by
  refine ⟨fun f k m => withinTolerance_iff_deviation, rfl, rfl, rfl, rfl, rfl, rfl, fun m => ?_⟩
  simp only [withinTolerance_iff, rateOf, Family.base, Factor.value]
  and_intros <;> omega

end Sys2Proof.Proofs
end

-- ==== Proofs of the family 05: SET_OUTPUT ====

section
/-! SET_OUTPUT: the stage of an output, and what it makes of the output (R96, R98, R188). -/

namespace Sys2Proof.Machine

variable {s : State} {o : Fin 4} {c : CueBody}

/-! ## The stage (R96, R188) -/

theorem factorOfValue_iff_value {b : Byte} {k : Factor} : Factor.ofValue b = some k ↔ b.toNat = k.value := by
  rw [factorOfValue_iff]
  cases k <;> simp [Factor.value, ← BitVec.toNat_inj]

section Stage

variable {w : Word} (hw : s.mem.readWord (s.base + 0x2440 + 16 * o.val) = w)
include hw

theorem outputStage_of_clear (clear : w.getLsbD 0 = false) : s.outputStage o = .disable := by
  subst hw
  exact if_neg (Bool.eq_false_iff.1 clear)

theorem outputStage_of_set (set : w.getLsbD 0 = true) : s.outputStage o =
    match domainOf (w.extractLsb' 8 8), Factor.ofValue (w.extractLsb' 16 8) with
    | some d, some k => .settings ⟨true, d, k⟩
    | _, _ => .invalid := by
  subst hw
  exact if_pos set

theorem outputStage_of_settings {d : Fin 4} {k : Factor} (set : w.getLsbD 0 = true)
    (hd : (w.extractLsb' 8 8).toNat = d.val) (hk : (w.extractLsb' 16 8).toNat = k.value) :
    s.outputStage o = .settings ⟨true, d, k⟩ := by
  rw [outputStage_of_set hw set, domainOf_eq_some_iff.2 hd, factorOfValue_iff_value.2 hk]

theorem outputStage_of_invalid (set : w.getLsbD 0 = true) (none : ∀ (d : Fin 4) (k : Factor),
    ¬ ((w.extractLsb' 8 8).toNat = d.val ∧ (w.extractLsb' 16 8).toNat = k.value)) : s.outputStage o = .invalid := by
  rw [outputStage_of_set hw set]
  split
  · next d k hd hk => exact absurd ⟨domainOf_eq_some_iff.1 hd, factorOfValue_iff_value.1 hk⟩ (none d k)
  · rfl

end Stage

/-! ## The row (R62, R98) -/

/-- R98, R100: the settings of the stage given to the output, and its record where they stand as pending settings. -/
def State.settingsGiven (s : State) (o : Fin 4) (p : OutputSettings) : State :=
  let y := (s.output o).enableWith p
  if y.pendingSettings.isSome then (s.putOutput o y).request (.output o) else s.putOutput o y

theorem applyOutputStage_eq (s : State) (o : Fin 4) : s.applyOutputStage o =
    match s.outputStage o with
    | .invalid => none
    | .disable => some ((s.overdueEdges o).putOutput o ((s.overdueEdges o).output o).disable)
    | .settings p => some ((s.overdueEdges o).settingsGiven o p) := rfl

theorem handOver_setOutput (h : c.target.toNat = o.val) : s.handOver ⟨.setOutput, c⟩ = s.applySetOutput o := by
  unfold State.handOver
  dsimp only
  rw [outputOf, domainOf_eq_some_iff.2 h, onTarget]

section Row

variable (hp : s.phase ≠ .held) (hd : s.dueNow c) (ht : c.target.toNat = o.val)
include hp hd ht

theorem exec_setOutput_done {t : State} (h : s.recordRead.applyOutputStage o = some t) :
    exec (.setOutput c) s = .next (s.afterCue t ⟨.setOutput, c⟩ none) := by
  refine (exec_verbRow_now (v := .setOutput) (by simp) (by simp) 0 hp hd).trans (congrArg _ (applyCue_of_done rfl ?_))
  rw [handOver_setOutput ht, State.applySetOutput, h]

theorem exec_setOutput_refused (h : s.recordRead.applyOutputStage o = none) :
    exec (.setOutput c) s = .next (s.afterCue s.recordRead ⟨.setOutput, c⟩ (some .badStage)) := by
  refine (exec_verbRow_now (v := .setOutput) (by simp) (by simp) 0 hp hd).trans
    (congrArg _ (applyCue_of_refused rfl ?_))
  rw [handOver_setOutput ht, State.applySetOutput, h]

end Row

/-! ## What a stage makes of an output (R98) -/

section Given

variable {x : WordOutput}

theorem disable_of_off (h : x.state = .off) : x.disable = x := by simp only [WordOutput.disable, h]

theorem disable_of_waiting (h : x.state = .waiting) : x.disable = { x with
    settings := { x.settings with enable := false }, pendingSettings := none, state := .off } := by
  simp only [WordOutput.disable, h]

theorem disable_of_high (h : x.state = .running) (hl : x.line = true) : x.disable = { x with
    settings := { x.settings with enable := false }, pendingSettings := none, state := .ending } := by
  simp only [WordOutput.disable, h, hl, if_true]

theorem disable_of_low (h : x.state = .running) (hl : x.line = false) : x.disable = { x with
    settings := { x.settings with enable := false }, pendingSettings := none, state := .off, riseAt := none } := by
  simp only [WordOutput.disable, h, hl, Bool.false_eq_true, if_false]

theorem disable_of_ending (h : x.state = .ending) : x.disable = { x with
    settings := { x.settings with enable := false }, pendingSettings := none } := by
  simp only [WordOutput.disable, h]

variable {p : OutputSettings}

theorem enableWith_of_off (h : x.state = .off) : x.enableWith p = { x with settings := p, state := .waiting } := by
  simp only [WordOutput.enableWith, h]

theorem enableWith_of_waiting (h : x.state = .waiting) : x.enableWith p = { x with settings := p } := by
  simp only [WordOutput.enableWith, h]

theorem enableWith_of_cycling (h : x.state = .running ∨ x.state = .ending) :
    x.enableWith p = { x with pendingSettings := if p = x.settings then none else some p } := by
  rcases h with h | h <;> simp only [WordOutput.enableWith, h]

end Given

end Sys2Proof.Machine

namespace Sys2Proof.Proofs

open Sys2Proof.Machine

/-- Settles O31: the row by the stage, the output by its state, and the stage by its word. -/
theorem setOutputFollowsItsTable : Obligations.SetOutputFollowsItsTable := by
  refine ⟨fun s c o hp hd ht => ⟨fun h => ?_, fun h => ?_, fun p h => ?_⟩,
    fun x p => ⟨fun h => ⟨disable_of_off h, enableWith_of_off h⟩,
      fun h => ⟨disable_of_waiting h, enableWith_of_waiting h⟩, disable_of_high, disable_of_low, disable_of_ending,
      fun h same => ?_, fun h other => ?_⟩,
    fun s o => ⟨outputStage_of_clear rfl, fun d k set names => outputStage_of_settings rfl set names.1 names.2,
      outputStage_of_invalid rfl⟩⟩
  · exact exec_setOutput_refused hp hd ht (by rw [applyOutputStage_eq, h])
  · exact exec_setOutput_done hp hd ht (by rw [applyOutputStage_eq, h])
  · exact exec_setOutput_done hp hd ht (by rw [applyOutputStage_eq, h]; rfl)
  · rw [enableWith_of_cycling h, if_pos same]
  · rw [enableWith_of_cycling h, if_neg other]

end Sys2Proof.Proofs
end

-- ==== Proofs of the family 05: the cycles of an output ====

section
/-! The word clock outputs: the edges of the line, the cycles that boundaries begin, and the stop of a domain (R97 to
R100). -/

namespace Sys2Proof.Machine

variable {s : State} {o d : Fin 4} {x : WordOutput} {t limit dt : Nat}

/-! ## The output's record (R100) -/

theorem putOutput_of_changed (h : (s.output o).state ≠ x.state ∨ (s.output o).pendingSettings ≠ x.pendingSettings) :
    s.putOutput o x = (s.setOutput o x).request (.output o) := if_pos h

theorem putOutput_of_same (hs : (s.output o).state = x.state) (hp : (s.output o).pendingSettings = x.pendingSettings) :
    s.putOutput o x = s.setOutput o x := if_neg (by simp [hs, hp])

theorem putOutput_itself (s : State) (o : Fin 4) : s.putOutput o (s.output o) = s :=
  (putOutput_of_same rfl rfl).trans (State.setOutput_output s o)

/-! ## The edges of the line (R97, R98) -/

/-- R98: the settings staged for the output, or those in force. -/
def WordOutput.nextSettings (x : WordOutput) : OutputSettings :=
  match x.pendingSettings with
  | none => x.settings
  | some p => p

theorem getD_pendingSettings (x : WordOutput) : x.pendingSettings.getD x.settings = x.nextSettings := by
  unfold WordOutput.nextSettings
  cases x.pendingSettings <;> rfl

/-- R97: the line has fallen at time `t`. -/
def WordOutput.low (x : WordOutput) (t : Nat) : WordOutput :=
  { x with line := false, fallAt := none, lastFall := t, lastHalf := some x.half }

theorem fall_of_going (h : x.state ≠ .ending) : x.fall t = x.low t := if_neg h

theorem fall_of_ending (h : x.state = .ending) : x.fall t = { x.low t with
    settings := x.nextSettings, pendingSettings := none,
    state := if x.nextSettings.enable then .waiting else .off } := by
  rw [← getD_pendingSettings]
  exact if_pos h

/-- What a scheduled edge makes, where its time is at most `limit`. -/
def whenDue {α : Type} (edge : Option Nat) (limit : Nat) (stays : α) (made : Nat → α) : α :=
  match edge with
  | none => stays
  | some t => if t ≤ limit then made t else stays

section Due

variable {α : Type} {edge : Option Nat} {stays : α} {made : Nat → α}

theorem whenDue_of_due (h : edge = some t) (ht : t ≤ limit) : whenDue edge limit stays made = made t := by
  subst h
  exact if_pos ht

theorem whenDue_of_waits (h : ¬ ∃ n, edge = some n ∧ n ≤ limit) : whenDue edge limit stays made = stays := by
  unfold whenDue
  split
  · rfl
  · next t => exact if_neg fun due => h ⟨t, rfl, due⟩

end Due

/-- The output with a rise due by `limit` made. -/
def WordOutput.risenBy (x : WordOutput) (limit : Nat) : WordOutput := whenDue x.riseAt limit x x.rise

/-- The output with a fall due by `limit` made. -/
def WordOutput.fallenBy (x : WordOutput) (limit : Nat) : WordOutput := whenDue x.fallAt limit x x.fall

theorem runEdges_eq (s : State) (o : Fin 4) (limit : Nat) :
    s.runEdges o limit = s.putOutput o (((s.output o).risenBy limit).fallenBy limit) := rfl

theorem runEdges_of_waits (hr : ¬ ∃ n, (s.output o).riseAt = some n ∧ n ≤ limit)
    (hf : ¬ ∃ n, (s.output o).fallAt = some n ∧ n ≤ limit) : s.runEdges o limit = s := by
  have low : (s.output o).risenBy limit = s.output o := whenDue_of_waits hr
  have high : (s.output o).fallenBy limit = s.output o := whenDue_of_waits hf
  rw [runEdges_eq, low, high, putOutput_itself]

theorem edgesBefore_zero (s : State) (o : Fin 4) : s.edgesBefore o 0 = s := rfl

theorem edgesBefore_of_pos (h : t ≠ 0) : s.edgesBefore o t = s.runEdges o (t - 1) := if_neg h

theorem not_due_of_later {a : Option Nat} (ht : t ≠ 0) (h : ∀ n, a = some n → t ≤ n) :
    ¬ ∃ n, a = some n ∧ n ≤ t - 1 := by
  rintro ⟨n, hn, due⟩
  have := h n hn
  omega

theorem edgesBefore_of_later (hr : ∀ a, (s.output o).riseAt = some a → t ≤ a)
    (hf : ∀ a, (s.output o).fallAt = some a → t ≤ a) : s.edgesBefore o t = s := by
  by_cases ht : t = 0
  · subst ht
    exact edgesBefore_zero s o
  · rw [edgesBefore_of_pos ht, runEdges_of_waits (not_due_of_later ht hr) (not_due_of_later ht hf)]

theorem edgesBefore_output_of_fall {a : Nat} (hr : (s.output o).riseAt = none) (hf : (s.output o).fallAt = some a)
    (due : a < t) (hs : (s.output o).state ≠ .ending) : (s.edgesBefore o t).output o = (s.output o).low a := by
  have still : (s.output o).risenBy (t - 1) = s.output o := whenDue_of_waits (by simp [hr])
  have fallen : (s.output o).fallenBy (t - 1) = (s.output o).fall a := whenDue_of_due hf (Nat.le_sub_one_of_lt due)
  rw [edgesBefore_of_pos (by omega), runEdges_eq, still, fallen, fall_of_going hs, putOutput_output_self]

theorem edgesBefore_domain (s : State) (o : Fin 4) (t : Nat) (d : Fin 4) : (s.edgesBefore o t).domain d = s.domain d := by
  unfold State.edgesBefore
  split
  · rfl
  · exact putOutput_domain s o _ d

/-! ## OUTPUT_RISE and OUTPUT_FALL -/

section Rows

variable (hp : s.phase ≠ .held)
include hp

theorem exec_outputRise : exec (.outputRise o dt) s = .next (whenDue (s.output o).riseAt (s.mclk + dt) (s.elapse dt)
    (fun t => (s.elapse dt).putOutput o ((s.output o).rise t))) := congrArg _ (if_neg hp)

theorem exec_outputFall : exec (.outputFall o dt) s = .next (whenDue (s.output o).fallAt (s.mclk + dt) (s.elapse dt)
    (fun t => (s.elapse dt).putOutput o ((s.output o).fall t))) := congrArg _ (if_neg hp)

theorem exec_outputRise_waits (h : ¬ ∃ n, (s.output o).riseAt = some n ∧ n ≤ s.mclk + dt) :
    exec (.outputRise o dt) s = .next (s.elapse dt) := by rw [exec_outputRise hp, whenDue_of_waits h]

theorem exec_outputFall_waits (h : ¬ ∃ n, (s.output o).fallAt = some n ∧ n ≤ s.mclk + dt) :
    exec (.outputFall o dt) s = .next (s.elapse dt) := by rw [exec_outputFall hp, whenDue_of_waits h]

theorem exec_outputRise_due (h : (s.output o).riseAt = some t) (ht : t ≤ s.mclk + dt) :
    exec (.outputRise o dt) s = .next ((s.elapse dt).setOutput o ((s.output o).rise t)) := by
  rw [exec_outputRise hp, whenDue_of_due h ht]
  exact congrArg _ (putOutput_of_same rfl rfl)

theorem exec_outputFall_due (h : (s.output o).fallAt = some t) (ht : t ≤ s.mclk + dt) :
    exec (.outputFall o dt) s = .next ((s.elapse dt).putOutput o ((s.output o).fall t)) := by
  rw [exec_outputFall hp, whenDue_of_due h ht]

theorem exec_outputFall_going (h : (s.output o).fallAt = some t) (ht : t ≤ s.mclk + dt)
    (hs : (s.output o).state ≠ .ending) :
    exec (.outputFall o dt) s = .next ((s.elapse dt).setOutput o ((s.output o).low t)) := by
  rw [exec_outputFall_due hp h ht, fall_of_going hs]
  exact congrArg _ (putOutput_of_same rfl rfl)

theorem exec_outputFall_ending (h : (s.output o).fallAt = some t) (ht : t ≤ s.mclk + dt)
    (hs : (s.output o).state = .ending) {y : OutputState}
    (hy : (if (s.output o).nextSettings.enable then OutputState.waiting else .off) = y) :
    exec (.outputFall o dt) s = .next (((s.elapse dt).setOutput o { (s.output o).low t with
      settings := (s.output o).nextSettings, pendingSettings := none, state := y }).request (.output o)) := by
  have left : (s.output o).state ≠ y := by rw [hs, ← hy]; split <;> simp
  rw [exec_outputFall_due hp h ht, fall_of_ending hs, hy]
  exact congrArg _ (putOutput_of_changed (.inl left))

end Rows

/-! ## The cycles (R97) -/

theorem halfPeriod_of_osc {k : Factor} (hr : (s.domain d).run = .locked)
    (h : (s.domain d).ref = some .int44 ∨ (s.domain d).ref = some .int48) :
    s.halfPeriod d k = k.value * 100000000 / (2 * rateOf (s.domain d).family (s.domain d).mult) := by
  rcases h with h | h <;> simp only [State.halfPeriod, hr, h]

theorem halfPeriod_of_good {k : Factor} {m : Nat} (hg : (s.domain d).lastGood = some m)
    (h : (s.domain d).run = .holdover ∨ (s.domain d).ref = some .wci0 ∨ (s.domain d).ref = some .wci1) :
    s.halfPeriod d k = k.value * m / 128 := by
  unfold State.halfPeriod
  dsimp only
  rcases h with h | h | h
  · simp only [h, hg, Option.getD_some]
  all_goals
    rw [h, hg]
    cases (s.domain d).run <;> rfl

/-- R97: the guard of a cycle of half-period `h`: the shorter of it and the last one. -/
def WordOutput.guard (x : WordOutput) (h : Nat) : Nat :=
  match x.lastHalf with
  | none => h
  | some k => min k h

theorem beginCycle_at_once {h : Nat} (low : x.lastFall + x.guard h ≤ t) : x.beginCycle t h = { x with
    state := .running, half := h, line := true, riseAt := none, fallAt := some (t + h) } := if_pos low

theorem beginCycle_waits {h : Nat} (early : t < x.lastFall + x.guard h) : x.beginCycle t h = { x with
    state := .running, half := h, riseAt := some (x.lastFall + x.guard h) } := if_neg (Nat.not_le.2 early)

/-! ## Aligned boundaries (R97, R98) -/

section Aligned

variable {c : Word}

theorem alignedBoundary_of_off (h : (s.output o).state = .off) : s.alignedBoundary o d c t = s.output o := by
  simp only [State.alignedBoundary, h]

theorem alignedBoundary_of_ending (h : (s.output o).state = .ending) :
    s.alignedBoundary o d c t = (s.output o).passOver := by simp only [State.alignedBoundary, h]

theorem alignedBoundary_of_waiting (h : (s.output o).state = .waiting) : s.alignedBoundary o d c t =
    (s.output o).beginCycle t (s.halfPeriod d (s.output o).settings.divider) := by
  simp only [State.alignedBoundary, h]

variable (h : (s.output o).state = .running)
include h

theorem alignedBoundary_of_busy (hq : ¬ ((s.output o).line = false ∧ (s.output o).riseAt = none)) :
    s.alignedBoundary o d c t = (s.output o).passOver := by
  simp only [State.alignedBoundary, h]
  refine if_pos ?_
  rwa [← Bool.not_eq_false, Option.isSome_iff_ne_none, ← not_and_or]

variable (hl : (s.output o).line = false) (hr : (s.output o).riseAt = none)
include hl hr

theorem alignedBoundary_of_settled (hp : (s.output o).pendingSettings = none) : s.alignedBoundary o d c t =
    (s.output o).beginCycle t (s.halfPeriod d (s.output o).settings.divider) := by
  simp [State.alignedBoundary, h, hl, hr, hp]

theorem alignedBoundary_of_pending {p : OutputSettings} (hp : (s.output o).pendingSettings = some p) :
    s.alignedBoundary o d c t = if p.domain = d ∧ c.toNat % p.divider.value = 0
      then ({ s.output o with settings := p, pendingSettings := none } : WordOutput).beginCycle t (s.halfPeriod d p.divider)
      else { s.output o with settings := p, pendingSettings := none, state := .waiting } := by
  simp [State.alignedBoundary, h, hl, hr, hp]

end Aligned

theorem outputBoundary_eq (s : State) (d o : Fin 4) : s.outputBoundary d o =
    let u := s.edgesBefore o (s.domain d).lastBoundary
    if (u.output o).settings.domain = d ∧ (s.domain d).count.toNat % (u.output o).settings.divider.value = 0
      then u.putOutput o (u.alignedBoundary o d (s.domain d).count (s.domain d).lastBoundary) else u := by
  unfold State.outputBoundary
  dsimp only
  rw [edgesBefore_domain]

/-! ## The stop of the domain (R99) -/

theorem domainStopped_of_high (h : x.state = .running) (hl : x.line = true) :
    x.domainStopped = { x with state := .ending } := by simp only [WordOutput.domainStopped, h, hl, if_true]

theorem domainStopped_of_low (h : x.state = .running) (hl : x.line = false) : x.domainStopped = { x with
    state := .waiting, riseAt := none, pendingSettings := none, settings := x.nextSettings } := by
  simp only [WordOutput.domainStopped, h, hl, Bool.false_eq_true, if_false, getD_pendingSettings]

theorem domainStopped_of_other (h : x.state ≠ .running) : x.domainStopped = x := by
  unfold WordOutput.domainStopped
  split
  · next running => exact absurd running h
  · rfl

end Sys2Proof.Machine

namespace Sys2Proof.Proofs

open Sys2Proof.Machine

/-- Settles O52: the rows by the time of the edge, the cycle by the guard, the boundary by the output's state, and the
edges made before a moment. -/
theorem outputsFollowTheirCycles : Obligations.OutputsFollowTheirCycles := by
  refine ⟨fun s o dt hp => ⟨fun h => ?_, fun t h early => ?_, fun t => exec_outputRise_due hp, fun h => ?_,
      fun t h early => ?_, fun t h ht => ⟨exec_outputFall_going hp h ht, fun hs on => ?_, fun hs off => ?_⟩⟩,
    ⟨fun s d k => halfPeriod_of_osc, fun s d k m => halfPeriod_of_good, rfl, rfl, rfl, rfl, rfl, rfl⟩,
    fun s o d c t => ⟨alignedBoundary_of_off, alignedBoundary_of_ending, alignedBoundary_of_waiting,
      alignedBoundary_of_busy, fun h quiet => alignedBoundary_of_settled h quiet.1 quiet.2, fun p h quiet pending => ?_,
      fun y h => ⟨beginCycle_at_once, beginCycle_waits⟩⟩,
    fun s o d => ⟨fun aligned => ?_, fun other => ?_, fun now => ?_, edgesBefore_of_pos, rfl, edgesBefore_of_later,
      fun a hr hf due hs => edgesBefore_output_of_fall hr hf due (by simp [hs])⟩,
    fun x => ⟨domainStopped_of_high, domainStopped_of_low, domainStopped_of_other⟩,
    fun s o y limit => ⟨putOutput_of_changed, putOutput_of_same, (s.output o).risenBy limit,
      ((s.output o).risenBy limit).fallenBy limit, whenDue_of_waits, fun a h ha => whenDue_of_due h ha,
      whenDue_of_waits, fun a h ha => ⟨fun hs => ?_, fun hs => ?_⟩, runEdges_eq s o limit⟩⟩
  · exact exec_outputRise_waits hp (by simp [h])
  · exact exec_outputRise_waits hp (by simpa [h] using early)
  · exact exec_outputFall_waits hp (by simp [h])
  · exact exec_outputFall_waits hp (by simpa [h] using early)
  · exact exec_outputFall_ending hp h ht hs (if_pos on)
  · exact exec_outputFall_ending hp h ht hs (if_neg (Bool.eq_false_iff.1 off))
  · dsimp only
    rw [alignedBoundary_of_pending h quiet.1 quiet.2 pending]
    exact ⟨fun domain aligned => if_pos ⟨domain, aligned⟩, fun other => if_neg other⟩
  · rw [outputBoundary_eq]
    exact if_pos aligned
  · rw [outputBoundary_eq]
    exact if_neg other
  · rw [now, edgesBefore_zero]
  · exact (whenDue_of_due h ha).trans (fall_of_going hs)
  · exact (whenDue_of_due h ha).trans (fall_of_ending hs)

end Sys2Proof.Proofs
end

-- ==== Proofs of the family 05: the requests of the Record order ====

section
/-! How a request joins the Record order, and what the order then asks for (R131, R149, R165, R166). -/

namespace Sys2Proof.Machine

variable {s : State}

/-! ## The first request that waits (R165) -/

/-- The first request of which `p` holds is changed by `f`; `none` where there is none. -/
def changeFirst (p : RecordItem → Prop) [DecidablePred p] (f : RecordItem → RecordItem) :
    List RecordItem → Option (List RecordItem)
  | [] => none
  | it :: rest => if p it then some (f it :: rest) else (changeFirst p f rest).map (it :: ·)

section First

variable {p : RecordItem → Prop} [DecidablePred p] {f : RecordItem → RecordItem} {it : RecordItem} {b : List RecordItem}

theorem changeFirst_of_first (hit : p it) : ∀ {a : List RecordItem}, (∀ x ∈ a, ¬ p x) →
    changeFirst p f (a ++ it :: b) = some (a ++ f it :: b)
  | [], _ => if_pos hit
  | x :: a, ha => by
    obtain ⟨hx, rest⟩ := List.forall_mem_cons.1 ha
    rw [List.cons_append, changeFirst, if_neg hx, changeFirst_of_first hit rest, Option.map_some, List.cons_append]

theorem changeFirst_of_none : ∀ {l : List RecordItem}, (∀ x ∈ l, ¬ p x) → changeFirst p f l = none
  | [], _ => rfl
  | x :: l, h => by
    obtain ⟨hx, rest⟩ := List.forall_mem_cons.1 h
    rw [changeFirst, if_neg hx, changeFirst_of_none rest, Option.map_none]

/-- Either nothing has the property, or there is a first thing that has it. -/
theorem none_or_first (p : RecordItem → Prop) : ∀ l : List RecordItem, (∀ x ∈ l, ¬ p x) ∨
    ∃ a it b, l = a ++ it :: b ∧ p it ∧ ∀ x ∈ a, ¬ p x
  | [] => .inl (List.forall_mem_nil _)
  | x :: l => by
    by_cases hx : p x
    · exact .inr ⟨[], x, l, rfl, hx, List.forall_mem_nil _⟩
    · rcases none_or_first p l with none | ⟨a, it, b, rfl, hit, ha⟩
      · exact .inl (List.forall_mem_cons.2 ⟨hx, none⟩)
      · exact .inr ⟨x :: a, it, b, rfl, hit, List.forall_mem_cons.2 ⟨hx, ha⟩⟩

end First

/-- The request is for `w`, and its write has not begun. -/
abbrev RecordItem.waits (w : RecordWork) (x : RecordItem) : Prop := x.work = w ∧ x.begun = false

theorem replacePending_eq (id : RecordId) (ws : List MemWrite) : ∀ l : List RecordItem, replacePending id ws l =
    changeFirst (·.waits (.status id)) (fun it => { it with writes := ws }) l
  | [] => rfl
  | it :: rest => by rw [replacePending, changeFirst, replacePending_eq id ws rest]

theorem joinPending_eq (w : RecordWork) (es : List Event) : ∀ l : List RecordItem, joinPending w es l =
    changeFirst (·.waits w) (fun it => { it with events := it.events ++ es }) l
  | [] => rfl
  | it :: rest => by rw [joinPending, changeFirst, joinPending_eq w es rest]

/-! ## A request asked for (R131, R149, R165) -/

/-- The Record order as given, and nothing else changed. -/
def State.withRecords (s : State) (l : List RecordItem) : State := { s with mc := { s.mc with records := l } }

section Asked

variable {id : RecordId} {p : Fin 2} {l : Fin 8} {es : List Event} {a b : List RecordItem} {it : RecordItem}

theorem request_of_held (h : s.phase.holdsWrites = true) : s.request id = s := if_pos h

theorem requestImage_of_held (h : s.phase.holdsWrites = true) : s.requestImage p es = s := if_pos h

theorem requestMeter_of_held (h : s.phase.holdsWrites = true) : s.requestMeter l = s := if_pos (.inl h)

theorem requestMeter_of_none (h : (s.window l).table = none) : s.requestMeter l = s := if_pos (.inr h)

variable (h : s.phase.holdsWrites = false)
include h

theorem request_of_waiting (hr : s.mc.records = a ++ it :: b) (hit : it.waits (.status id))
    (ha : ∀ x ∈ a, ¬ x.waits (.status id)) :
    s.request id = s.withRecords (a ++ { it with writes := s.recordWrites id } :: b) := by
  have first : replacePending id (s.recordWrites id) s.mc.records =
      some (a ++ { it with writes := s.recordWrites id } :: b) := by
    rw [replacePending_eq, hr]
    exact changeFirst_of_first hit ha
  rw [State.request, if_neg (Bool.eq_false_iff.1 h)]
  simp only [first]
  rfl

theorem request_of_new (hr : ∀ x ∈ s.mc.records, ¬ x.waits (.status id)) :
    s.request id = s.withRecords (s.mc.records ++ [⟨.status id, false, s.recordWrites id, []⟩]) := by
  have none : replacePending id (s.recordWrites id) s.mc.records = none := by
    rw [replacePending_eq]
    exact changeFirst_of_none hr
  rw [State.request, if_neg (Bool.eq_false_iff.1 h)]
  simp only [none]
  rfl

theorem requestImage_of_waiting (hr : s.mc.records = a ++ it :: b) (hit : it.waits (.image p))
    (ha : ∀ x ∈ a, ¬ x.waits (.image p)) :
    s.requestImage p es = s.withRecords (a ++ { it with events := it.events ++ s.heldEvents es } :: b) := by
  have first : joinPending (.image p) (s.heldEvents es) s.mc.records =
      some (a ++ { it with events := it.events ++ s.heldEvents es } :: b) := by
    rw [joinPending_eq, hr]
    exact changeFirst_of_first hit ha
  rw [State.requestImage, if_neg (Bool.eq_false_iff.1 h)]
  simp only [first]
  rfl

theorem requestImage_of_new (hr : ∀ x ∈ s.mc.records, ¬ x.waits (.image p)) :
    s.requestImage p es = s.withRecords (s.mc.records ++ [⟨.image p, false, [], s.heldEvents es⟩]) := by
  have none : joinPending (.image p) (s.heldEvents es) s.mc.records = none := by
    rw [joinPending_eq]
    exact changeFirst_of_none hr
  rw [State.requestImage, if_neg (Bool.eq_false_iff.1 h)]
  simp only [none]
  rfl

omit h in
theorem requestMeter_of_waiting (hr : ∃ x ∈ s.mc.records, x.waits (.meterTable l)) : s.requestMeter l = s := by
  rcases none_or_first (RecordItem.waits (.meterTable l)) s.mc.records with none | ⟨a, it, b, e, hit, ha⟩
  · obtain ⟨x, hx, waits⟩ := hr
    exact absurd waits (none x hx)
  · have first : joinPending (.meterTable l) [] s.mc.records = some (a ++ { it with events := it.events ++ [] } :: b) := by
      rw [joinPending_eq, e]
      exact changeFirst_of_first hit ha
    unfold State.requestMeter
    simp only [first, ite_self]

theorem requestMeter_of_new (ht : (s.window l).table ≠ none) (hr : ∀ x ∈ s.mc.records, ¬ x.waits (.meterTable l)) :
    s.requestMeter l = s.withRecords (s.mc.records ++ [⟨.meterTable l, false, [], []⟩]) := by
  have none : joinPending (.meterTable l) [] s.mc.records = none := by
    rw [joinPending_eq]
    exact changeFirst_of_none hr
  rw [State.requestMeter, if_neg (not_or.2 ⟨Bool.eq_false_iff.1 h, ht⟩)]
  simp only [none]
  rfl

end Asked

/-! ## Nothing but the Record order changes -/

/-- `t` is `s` but for the Record order. -/
def OrderOnly (s t : State) : Prop := ∃ l, t = s.withRecords l

theorem OrderOnly.refl (s : State) : OrderOnly s s := ⟨s.mc.records, rfl⟩

theorem OrderOnly.trans {s t u : State} : OrderOnly s t → OrderOnly t u → OrderOnly s u := by
  rintro ⟨l, rfl⟩ ⟨m, rfl⟩
  exact ⟨m, rfl⟩

theorem request_order (s : State) (id : RecordId) : OrderOnly s (s.request id) := by
  unfold State.request
  split
  · exact .refl s
  · dsimp only
    split <;> exact ⟨_, rfl⟩

theorem requestImage_order (s : State) (p : Fin 2) (es : List Event) : OrderOnly s (s.requestImage p es) := by
  unfold State.requestImage
  split
  · exact .refl s
  · split <;> exact ⟨_, rfl⟩

theorem requestMeter_order (s : State) (l : Fin 8) : OrderOnly s (s.requestMeter l) := by
  unfold State.requestMeter
  split
  · exact .refl s
  · split
    · exact .refl s
    · exact ⟨_, rfl⟩

theorem requestAll_order (s : State) (ids : List RecordId) : OrderOnly s (s.requestAll ids) :=
  foldl_related OrderOnly.refl OrderOnly.trans request_order ids s

theorem restoreMeters_order (s : State) : OrderOnly s s.restoreMeters :=
  foldl_related OrderOnly.refl OrderOnly.trans requestMeter_order (indices 8) s

/-! ## What the order asks for (R144, R155, R166) -/

theorem not_waits_of_new {w : RecordWork} (hn : w ∉ s.recordWorks) : ∀ x ∈ s.mc.records, ¬ x.waits w :=
  fun x hx waits => hn (List.mem_map.2 ⟨x, hx, waits.1⟩)

theorem withRecords_works (s : State) (it : RecordItem) :
    (s.withRecords (s.mc.records ++ [it])).recordWorks = s.recordWorks ++ [it.work] :=
  List.map_append

section Works

variable (h : s.phase.holdsWrites = false)
include h

theorem request_works {id : RecordId} (hn : .status id ∉ s.recordWorks) :
    (s.request id).recordWorks = s.recordWorks ++ [.status id] := by
  rw [request_of_new h (not_waits_of_new hn), withRecords_works]

theorem requestImage_works {p : Fin 2} (es : List Event) (hn : .image p ∉ s.recordWorks) :
    (s.requestImage p es).recordWorks = s.recordWorks ++ [.image p] := by
  rw [requestImage_of_new h (not_waits_of_new hn), withRecords_works]

theorem requestMeter_works {l : Fin 8} (hn : .meterTable l ∉ s.recordWorks) : (s.requestMeter l).recordWorks =
    s.recordWorks ++ ([l].filter (fun l => (s.window l).table.isSome)).map .meterTable := by
  cases ht : (s.window l).table with
  | none => simp [requestMeter_of_none ht, ht]
  | some x =>
    rw [requestMeter_of_new h (by simp [ht]) (not_waits_of_new hn), withRecords_works]
    simp [ht]

end Works

theorem requestAll_works : ∀ (ids : List RecordId) {s : State}, s.phase.holdsWrites = false → ids.Nodup →
    (∀ id ∈ ids, .status id ∉ s.recordWorks) → (s.requestAll ids).recordWorks = s.recordWorks ++ ids.map .status
  | [], s, _, _, _ => (List.append_nil _).symm
  | id :: ids, s, h, hd, hn => by
    obtain ⟨once, later⟩ := List.nodup_cons.1 hd
    obtain ⟨new, rest⟩ := List.forall_mem_cons.1 hn
    have one := request_works h new
    have still : ∀ x ∈ ids, .status x ∉ (s.request id).recordWorks := fun x hx => by
      rw [one, List.mem_append, List.mem_singleton]
      exact not_or.2 ⟨rest x hx, fun e => once (by cases e; exact hx)⟩
    show ((s.request id).requestAll ids).recordWorks = _
    rw [requestAll_works ids ((s.request_phase id).symm ▸ h) later still, one, List.append_assoc]
    rfl

theorem requestMeters_works : ∀ (ls : List (Fin 8)) {s : State}, s.phase.holdsWrites = false → ls.Nodup →
    (∀ l ∈ ls, .meterTable l ∉ s.recordWorks) → (ls.foldl State.requestMeter s).recordWorks =
      s.recordWorks ++ (ls.filter (fun l => (s.window l).table.isSome)).map .meterTable
  | [], s, _, _, _ => (List.append_nil _).symm
  | l :: ls, s, h, hd, hn => by
    obtain ⟨once, later⟩ := List.nodup_cons.1 hd
    obtain ⟨new, rest⟩ := List.forall_mem_cons.1 hn
    have one := requestMeter_works h new
    have still : ∀ x ∈ ls, .meterTable x ∉ (s.requestMeter l).recordWorks := fun x hx hm => by
      rw [one, List.mem_append, List.mem_map] at hm
      rcases hm with old | ⟨y, hy, e⟩
      · exact rest x hx old
      · cases e
        exact once (List.mem_singleton.1 (List.mem_of_mem_filter hy) ▸ hx)
    rw [List.foldl_cons, requestMeters_works ls ((s.requestMeter_phase l).symm ▸ h) later still, one,
      List.append_assoc, ← List.map_append]
    simp only [State.requestMeter_window]
    rw [← List.filter_append]
    rfl

end Sys2Proof.Machine
end

-- ==== Proofs of the family 05: start-up and the end of a scrub ====

section
/-! PORN_RELEASE, SDRAM_BRING_UP and the ends of the two scrubs (R144, R155, R166, R174, R177, R179, R181). -/

namespace Sys2Proof.Machine

variable {s : State}

/-! ## The release and the bring-up (R174, R177, R179) -/

theorem exec_sdramBringUp {dt : Nat} (h : s.phase = .bringUp) (due : s.mc.releasedAt + 20000 ≤ s.mclk + dt) :
    exec (.sdramBringUp dt) s = .next { s.elapse dt with
      phase := .scrub,
      mc := { s.mc with refreshTimer := some (s.mclk + dt), refreshPending := 0, scrubNext := some 0 } } := by
  have powered : (s.elapse dt).phase ≠ .held := by simp [State.elapse, h]
  exact congrArg _ ((if_neg powered).trans (if_pos ⟨h, due⟩))

/-! ## The marks on a port (R129, R144) -/

theorem mark_frame (x : Port) (k : Fin 48) (m : DirtyMark) : x.mark k m = { x with dirty := (x.mark k m).dirty } := by
  unfold Port.mark
  split <;> rfl

theorem mark_dirty (x : Port) (j k : Fin 48) (m : DirtyMark) :
    (x.mark j m).dirty[k] = if x.up = true ∧ j = k then m else x.dirty[k] := by
  unfold Port.mark
  split
  · next up => simp [up, Vector.getElem_set, Fin.val_inj]
  · next down => simp [down]

/-- The marks on the items below a count whose index is in `l`. -/
def Port.markAmong (x : Port) (item : Fin 16 → Fin 48) (n : Nat) (l : List (Fin 16)) : Port :=
  l.foldl (fun x i => if i.val < n then x.mark (item i) .dirty else x) x

theorem markAmong_frame (item : Fin 16 → Fin 48) (n : Nat) : ∀ (l : List (Fin 16)) (x : Port),
    x.markAmong item n l = { x with dirty := (x.markAmong item n l).dirty }
  | [], _ => rfl
  | i :: l, x => by
    have step : x.markAmong item n (i :: l) = Port.markAmong (if i.val < n then x.mark (item i) .dirty else x) item n l :=
      rfl
    rw [step]
    split
    · rw [markAmong_frame item n l, mark_frame]
    · exact markAmong_frame item n l x

theorem markAmong_dirty (item : Fin 16 → Fin 48) (n : Nat) (k : Fin 48) : ∀ (l : List (Fin 16)) (x : Port),
    (x.markAmong item n l).dirty[k] =
      if x.up = true ∧ ∃ i ∈ l, i.val < n ∧ item i = k then .dirty else x.dirty[k]
  | [], x => by simp [Port.markAmong]
  | i :: l, x => by
    have step : x.markAmong item n (i :: l) = Port.markAmong (if i.val < n then x.mark (item i) .dirty else x) item n l :=
      rfl
    rw [step]
    by_cases hi : i.val < n
    · rw [if_pos hi, markAmong_dirty item n k l, mark_up, mark_dirty]
      by_cases up : x.up = true <;> by_cases hk : item i = k <;> simp [up, hk, hi]
    · rw [if_neg hi, markAmong_dirty item n k l]
      simp [hi]

theorem markBelow_frame (x : Port) (item : Fin 16 → Fin 48) (n : Nat) :
    x.markBelow item n = { x with dirty := (x.markBelow item n).dirty } := markAmong_frame item n (indices 16) x

theorem markBelow_dirty (x : Port) (item : Fin 16 → Fin 48) (n : Nat) (k : Fin 48) : (x.markBelow item n).dirty[k] =
    if x.up = true ∧ ∃ i : Fin 16, i.val < n ∧ item i = k then .dirty else x.dirty[k] := by
  have all (i : Fin 16) : i ∈ indices 16 := List.mem_finRange i
  refine (markAmong_dirty item n k (indices 16) x).trans ?_
  simp only [all, true_and]

theorem lampItem_inj {i j : Fin 16} (h : lampItem i = lampItem j) : i = j := by
  have := congrArg Fin.val h
  simp only [lampItem] at this
  omega

theorem ladderItem_inj {i j : Fin 16} (h : ladderItem i = ladderItem j) : i = j := by
  have := congrArg Fin.val h
  simp only [ladderItem] at this
  omega

theorem lamp_ne_ladder (i j : Fin 16) : lampItem i ≠ ladderItem j := by
  intro h
  have := congrArg Fin.val h
  simp only [lampItem, ladderItem] at this
  omega

section Marked

variable (x : Port) {item : Fin 16 → Fin 48} (n : Nat)

theorem markBelow_dirty_item (inj : ∀ {i j : Fin 16}, item i = item j → i = j) (i : Fin 16) :
    (x.markBelow item n).dirty[item i] = if x.up = true ∧ i.val < n then .dirty else x.dirty[item i] := by
  have one : (∃ j : Fin 16, j.val < n ∧ item j = item i) ↔ i.val < n :=
    ⟨fun ⟨j, below, e⟩ => inj e ▸ below, fun below => ⟨i, below, rfl⟩⟩
  rw [markBelow_dirty]
  simp only [one]

theorem markBelow_dirty_other {k : Fin 48} (h : ∀ i, item i ≠ k) : (x.markBelow item n).dirty[k] = x.dirty[k] := by
  rw [markBelow_dirty, if_neg fun ⟨_, i, _, e⟩ => h i e]

end Marked

/-- R144, R181 step 2: the port with the marks that show it to its surface again. -/
def Port.restored (x : Port) : Port :=
  (x.markBelow lampItem x.announced.groups).markBelow ladderItem x.announced.ladders

theorem restored_frame (x : Port) : x.restored = { x with dirty := x.restored.dirty } := by
  unfold Port.restored
  rw [markBelow_frame _ ladderItem, markBelow_frame x lampItem]

theorem restored_lamp (x : Port) (i : Fin 16) : x.restored.dirty[lampItem i] =
    if x.up = true ∧ i.val < x.announced.groups then .dirty else x.dirty[lampItem i] := by
  unfold Port.restored
  rw [markBelow_dirty_other _ _ fun j => (lamp_ne_ladder i j).symm, markBelow_dirty_item x _ lampItem_inj]

theorem restored_ladder (x : Port) (i : Fin 16) : x.restored.dirty[ladderItem i] =
    if x.up = true ∧ i.val < x.announced.ladders then .dirty else x.dirty[ladderItem i] := by
  have up : (x.markBelow lampItem x.announced.groups).up = x.up := by rw [markBelow_frame]
  unfold Port.restored
  rw [markBelow_dirty_item _ _ ladderItem_inj, up, markBelow_dirty_other x _ fun j => lamp_ne_ladder j i]

theorem restored_motor (x : Port) (i : Fin 16) : x.restored.dirty[motorItem i] = x.dirty[motorItem i] := by
  unfold Port.restored
  rw [markBelow_dirty_other _ _ fun j => ladder_ne_motor j i, markBelow_dirty_other x _ fun j => lamp_ne_motor j i]

/-! ## The scrub (R166, R179, R181) -/

theorem scrubbed_readByte {p : Phase} (a : s.Sound) (n : Nat) : (s.scrubbed p).mem.readByte n =
    if s.base ≤ n ∧ n < s.mc.size.bytes then 0 else s.mem.readByte n :=
  Memory.readByte_clear a.memory _ _ n

theorem scrubbed_inside {p : Phase} (a : s.Sound) (n : Nat) (low : s.base ≤ n) (high : n < s.mc.size.bytes) :
    (s.scrubbed p).mem.readByte n = 0 := (scrubbed_readByte a n).trans (if_pos ⟨low, high⟩)

theorem scrubbed_outside {p : Phase} (a : s.Sound) (n : Nat) (h : n < s.base ∨ s.mc.size.bytes ≤ n) :
    (s.scrubbed p).mem.readByte n = s.mem.readByte n := (scrubbed_readByte a n).trans (if_neg (by omega))

theorem rewriteOrder_eq : rewriteOrder = statusOrder := by decide

theorem statusOrder_nodup : statusOrder.Nodup := by decide

/-- R166: the records of the rewrite join an order that asks for none of them. -/
theorem rewrite_works (h : s.phase.holdsWrites = false) (hn : ∀ id, .status id ∉ s.recordWorks) :
    (s.requestAll rewriteOrder).recordWorks = s.recordWorks ++ statusOrder.map .status := by
  rw [rewriteOrder_eq]
  exact requestAll_works statusOrder h statusOrder_nodup fun id _ => hn id

/-! ## START_UP_SCRUB_COMPLETE (R166, R179) -/

/-- What the end of the start-up scrub asks for. -/
def State.startUpAsked (s : State) : State :=
  (((s.requestAll rewriteOrder).requestImage 0 []).requestImage 1 []).request .startWord

theorem exec_startUpScrubComplete (h : s.phase = .scrub) :
    exec .startUpScrubComplete s = .next (s.scrubbed .records).startUpAsked := by
  have on : s.phase ≠ .held := by simp [h]
  simp only [exec, execStartUpScrubComplete, powered, if_neg on, if_pos h, State.startUpAsked]

theorem startUpAsked_order (s : State) : OrderOnly s s.startUpAsked :=
  (((requestAll_order s _).trans (requestImage_order _ 0 [])).trans (requestImage_order _ 1 [])).trans
    (request_order _ .startWord)

theorem startUpAsked_works (h : s.phase.holdsWrites = false) (hr : s.recordWorks = []) : s.startUpAsked.recordWorks =
    statusOrder.map .status ++ [.image 0, .image 1, .status .startWord] := by
  have rewrite : (s.requestAll rewriteOrder).recordWorks = statusOrder.map .status := by
    rw [rewrite_works h (by simp [hr]), hr, List.nil_append]
  have first := requestImage_works (s := s.requestAll rewriteOrder) (p := 0) (by simpa using h) []
    (by rw [rewrite]; decide)
  have second := requestImage_works (s := (s.requestAll rewriteOrder).requestImage 0 []) (p := 1) (by simpa using h) []
    (by rw [first, rewrite]; decide)
  unfold State.startUpAsked
  rw [request_works (by simpa using h) (by rw [second, first, rewrite]; decide), second, first, rewrite]
  rfl

/-! ## HOST_RESET_SCRUB_COMPLETE (R144, R155, R181) -/

theorem requestWholeImage_of_open (h : s.phase.holdsWrites = false) (p : Fin 2) :
    s.requestWholeImage p = s.withRecords (s.mc.records ++ [⟨.wholeImage p, false, [], []⟩]) :=
  if_neg (Bool.eq_false_iff.1 h)

/-- R144: both ports restored, and their whole images asked for. -/
theorem restoreSurfaces_eq (h : s.phase.holdsWrites = false) : s.restoreSurfaces =
    ((s.setPort 0 (s.port 0).restored.draw).setPort 1 (s.port 1).restored.draw).withRecords
      (s.mc.records ++ [⟨.wholeImage 0, false, [], []⟩, ⟨.wholeImage 1, false, [], []⟩]) := by
  let one := (s.setPort 0 (s.port 0).restored.draw).withRecords (s.mc.records ++ [⟨.wholeImage 0, false, [], []⟩])
  have first : (s.putPort 0 (s.port 0).restored).requestWholeImage 0 = one :=
    requestWholeImage_of_open (s := s.putPort 0 (s.port 0).restored) h 0
  have other : one.port 1 = s.port 1 := State.port_setPort_of_ne s _ (by decide)
  have second : (one.putPort 1 (one.port 1).restored).requestWholeImage 1 = _ :=
    requestWholeImage_of_open (s := one.putPort 1 (one.port 1).restored) h 1
  rw [other] at second
  show (((s.putPort 0 (s.port 0).restored).requestWholeImage 0).putPort 1 (Port.restored
    (((s.putPort 0 (s.port 0).restored).requestWholeImage 0).port 1))).requestWholeImage 1 = _
  rw [first, other, second]
  exact congrArg (State.withRecords _) (List.append_assoc ..)

theorem restoreSurfaces_port (h : s.phase.holdsWrites = false) (p : Fin 2) :
    s.restoreSurfaces.port p = (s.port p).restored.draw := by
  rw [restoreSurfaces_eq h]
  show ((s.setPort 0 (s.port 0).restored.draw).setPort 1 (s.port 1).restored.draw).port p = _
  match p with
  | 0 => rw [State.port_setPort_of_ne _ _ (by decide), State.port_setPort_self]
  | 1 => rw [State.port_setPort_self]

/-- What the end of a host reset's scrub asks for beside the surfaces' images. -/
def State.hostResetAsked (s : State) : State := (s.restoreMeters.requestAll rewriteOrder).request .startWord

theorem exec_hostResetScrubComplete (h : s.phase = .hostScrub) :
    exec .hostResetScrubComplete s = .next (s.scrubbed .hostRecords).restoreSurfaces.hostResetAsked := by
  have on : s.phase ≠ .held := by simp [h]
  simp only [exec, execHostResetScrubComplete, powered, if_neg on, if_pos h, State.hostResetAsked]

theorem hostResetAsked_order (s : State) : OrderOnly s s.hostResetAsked :=
  ((restoreMeters_order s).trans (requestAll_order _ _)).trans (request_order _ .startWord)

/-- R155: the lanes whose tables are pending. -/
def State.pendingTables (s : State) : List (Fin 8) := (List.finRange 8).filter (fun l => (s.window l).table.isSome)

theorem restoreMeters_works (h : s.phase.holdsWrites = false) (hn : ∀ l, .meterTable l ∉ s.recordWorks) :
    s.restoreMeters.recordWorks = s.recordWorks ++ s.pendingTables.map .meterTable :=
  requestMeters_works (indices 8) h (List.nodup_finRange 8) fun l _ => hn l

theorem hostResetAsked_works (h : s.phase.holdsWrites = false) (hr : s.recordWorks = [.wholeImage 0, .wholeImage 1]) :
    s.hostResetAsked.recordWorks = [.wholeImage 0, .wholeImage 1] ++ s.pendingTables.map .meterTable ++
      statusOrder.map .status ++ [.status .startWord] := by
  have meters : s.restoreMeters.recordWorks = [.wholeImage 0, .wholeImage 1] ++ s.pendingTables.map .meterTable := by
    rw [restoreMeters_works h (by simp [hr]), hr]
  have phase : s.restoreMeters.phase = s.phase := by
    obtain ⟨l, e⟩ := restoreMeters_order s
    rw [e]
    rfl
  have rewrite := rewrite_works (s := s.restoreMeters) (phase.symm ▸ h) (by simp [meters])
  unfold State.hostResetAsked
  rw [request_works (by simpa [phase] using h) (by rw [rewrite, meters]; simp [statusOrder]), rewrite, meters]

end Sys2Proof.Machine

namespace Sys2Proof.Proofs

open Sys2Proof.Machine

/-- Settles O12: the release, the bring-up, and at the end of each scrub the cleared area and the order of the records. -/
theorem startUpRunsItsSteps : Obligations.StartUpRunsItsSteps := by
  refine ⟨fun msel refsel dt s => ⟨fun h => congrArg _ (if_pos h), fun h => congrArg _ (if_neg h)⟩,
    fun dt s => exec_sdramBringUp, fun s h a => ?_, fun s h a => ?_⟩
  · have works := startUpAsked_works (s := s.scrubbed .records) rfl rfl
    obtain ⟨l, e⟩ := startUpAsked_order (s.scrubbed .records)
    refine ⟨_, exec_startUpScrubComplete h, ?_⟩
    rw [e] at works ⊢
    exact ⟨rfl, rfl, scrubbed_inside (p := .records) a, scrubbed_outside (p := .records) a, works,
      rfl, rfl, rfl, rfl, rfl, rfl, rfl, rfl, rfl, rfl⟩
  · have surfaces := restoreSurfaces_eq (s := s.scrubbed .hostRecords) rfl
    have ports := restoreSurfaces_port (s := s.scrubbed .hostRecords) rfl
    have works := hostResetAsked_works (s := (s.scrubbed .hostRecords).restoreSurfaces) (by rw [surfaces]; rfl)
      (by rw [surfaces]; rfl)
    obtain ⟨l, e⟩ := hostResetAsked_order (s.scrubbed .hostRecords).restoreSurfaces
    refine ⟨_, exec_hostResetScrubComplete h, ?_⟩
    rw [e] at works ⊢
    refine ⟨?_, ?_, ?_, works.trans ?_, fun p => ⟨(s.port p).restored, ports p, restored_frame _, fun i =>
      ⟨restored_lamp _ i, restored_ladder _ i, restored_motor _ i⟩⟩, ?_⟩ <;> rw [surfaces]
    · rfl
    · exact scrubbed_inside (p := .hostRecords) a
    · exact scrubbed_outside (p := .hostRecords) a
    · rfl
    · exact ⟨rfl, rfl, rfl, rfl, rfl, rfl, rfl, rfl⟩

end Sys2Proof.Proofs
end

-- ==== Proofs of the family 05: the records as they are shown ====

section
/-! The words of the status records and of a live record, and the 10 ms writes (R95, R131, R164, R184, R188 to R194). -/

namespace Sys2Proof.Machine

variable {s : State} {α : Type}

/-! ## Fields that may be absent (R184) -/

theorem getD_map_eq_shows (x : Option α) (f : α → Nat) : (x.map f).getD 0 = shows x f := by cases x <;> rfl

theorem getD_eq_shows (x : Option Nat) : x.getD 0 = shows x id := by cases x <;> rfl

theorem refCode_eq_shows (x : Option Source) : refCode x = shows x Source.code := by cases x <;> rfl

theorem any_eq_shows (x : Option α) (p : α → Bool) : bit (x.any p) = shows x (fun v => flagBit (p v = true)) := by
  cases x <;> rfl

theorem nat32_toNat (w : Word) : nat32 w.toNat = w := BitVec.ofNat_toNat ..

theorem orZero_eq_shows (x : Option Word) : orZero x = nat32 (shows x BitVec.toNat) := by
  cases x with
  | none => rfl
  | some w => exact (nat32_toNat w).symm

theorem orZero_map_eq_shows (x : Option α) (f : α → Word) :
    orZero (x.map f) = nat32 (shows x (fun v => (f v).toNat)) := by
  cases x with
  | none => rfl
  | some v => exact (nat32_toNat (f v)).symm

theorem fields_one (n : Nat) : fields [(0, n)] = nat32 n := by
  show 0#32 ||| (BitVec.ofNat 32 n <<< 0) = nat32 n
  rw [BitVec.shiftLeft_zero, BitVec.zero_or, nat32]

/-! ## One transaction and two (R175) -/

theorem transactions_one {ws : List Word} (h : ws.length ≤ 16) (a : Nat) : transactions 1 a ws = [⟨a, ws⟩] := by
  rw [transactions, List.take_of_length_le h]
  rfl

theorem transactions_two {ws vs : List Word} (h : ws.length = 16) (hv : vs.length ≤ 16) (a : Nat) :
    transactions 2 a (ws ++ vs) = [⟨a, ws⟩, ⟨a + 64, vs⟩] := by
  rw [transactions, List.take_left' h, List.drop_left' h, transactions_one hv]

/-- R184: a record of at most 16 words is written in one transaction, its tail as 0. -/
theorem recordWrites_of_words {id : RecordId} {a n : Nat} {ws : List Word}
    (one : s.recordWrites id = transactions 1 (s.base + id.offset) (s.recordWords id)) (ha : s.base + id.offset = a)
    (hw : s.recordWords id = padded n ws) (hn : n ≤ 16) (h : ws.length ≤ n) : s.recordWrites id = recordOf a n ws := by
  rw [one, ha, hw]
  refine transactions_one ?_ a
  rw [padded, List.length_append, List.length_replicate]
  omega

/-! ## The status records (R190 to R194) -/

section Status

variable (s)

theorem recordWrites_identity : s.recordWrites .identity = recordOf s.base 4
    [0x3064, 1, nat32 (s.mc.size.bytes / 1048576), match s.mc.refresh with | .us78 => 78 | .us39 => 39] := by
  have words : s.recordWords .identity = padded 4
      [0x3064, 1, nat32 (s.mc.size.bytes / 1048576), match s.mc.refresh with | .us78 => 78 | .us39 => 39] := by
    show s.identityRecord = _
    unfold State.identityRecord
    cases s.mc.size <;> rfl
  exact recordWrites_of_words rfl (Nat.add_zero _) words (by decide) (by simp)

theorem recordWrites_startWord : s.recordWrites .startWord = recordOf (s.base + 0x10) 1 [1] := rfl

theorem recordWrites_passCounters : s.recordWrites .passCounters = recordOf (s.base + 0x40) 8 [s.pp.reads, s.pp.writes,
    s.pp.refused, fields [(0, s.pp.noMemory.toNat), (16, s.pp.errors.toNat)]] :=
  recordWrites_of_words rfl rfl rfl (by decide) (by simp)

theorem recordWrites_report : let r := s.ru; s.recordWrites .report = recordOf (s.base + 0x80) 16 [
    fields [(0, r.takeMark.toNat), (16, r.written.toNat)],
    fields [(0, r.unread.routine.toNat), (16, r.unread.notice.toNat)],
    fields [(0, r.unread.fault.toNat), (16, (r.postMark - r.takeMark).toNat)],
    fields [(0, r.lost.toNat), (16, r.lostFaults.toNat)],
    fields [(0, r.refusedTakes.toNat), (16, flagBit r.mask.routine), (17, flagBit r.mask.notice),
      (18, flagBit r.mask.fault), (24, flagBit r.attn)]] :=
  recordWrites_of_words rfl rfl rfl (by decide) (by simp)

theorem recordWrites_domain (d : Fin 4) : let x := s.domain d
    s.recordWrites (.domain d) = recordOf (s.base + 0x100 + 64 * d.val) 16 [
      fields [(0, x.run.code), (8, shows x.ref Source.code), (16, x.family.code), (24, x.mult.value)],
      fields [(0, x.tickExp), (8, x.settle), (16, shows x.fallback Source.code), (24, flagBit (x.lastGood.isSome)),
        (25, flagBit (x.candidate.isSome))],
      nat32 (shows x.lastGood id),
      fields [(0, shows x.candidate (·.source.code)), (8, shows x.candidate (·.origin.code)),
        (16, shows x.candidate (·.phase.code)), (24, shows x.candidate (·.family.code))],
      fields [(0, shows x.candidate (·.mult.value)), (8, s.cb.osc44.code), (16, s.cb.osc48.code)], x.count] := by
  refine recordWrites_of_words rfl (Nat.add_assoc ..).symm ?_ (by decide) (by simp)
  show s.domainRecord d = _
  unfold State.domainRecord
  dsimp only
  rw [refCode_eq_shows, refCode_eq_shows, getD_eq_shows, getD_map_eq_shows]
  cases (s.domain d).candidate <;> rfl

theorem capacity_eq_shows (l : Fin 8) :
    s.capacity l = shows (s.lane l).domain (fun d => slotCapacity (s.domain d).mult) := by
  unfold State.capacity
  cases (s.lane l).domain <;> rfl

theorem recordWrites_lane (l : Fin 8) : let y := s.lane l
    s.recordWrites (.lane l) = recordOf (s.base + 0x200 + 64 * l.val) 16 [
      fields [(0, y.state.code), (8, shows y.domain Fin.val), (16, shows y.domain (fun d => slotCapacity (s.domain d).mult)),
        (24, flagBit (y.domain.isSome)), (25, flagBit (y.countdown.isSome)), (26, flagBit (y.lastStatus.isSome))],
      fields [(0, y.trainingRun), (8, y.badRun), (16, y.queue.length)],
      fields [(0, shows y.countdown id), (16, y.counters.stray.toNat)], nat32 (shows y.lastStatus BitVec.toNat),
      y.counters.good, y.counters.badCrc, y.counters.badMissing, y.counters.badTag, y.counters.badFormat,
      y.counters.sent, fields [(0, y.counters.faults.toNat), (16, y.counters.dropped.toNat)],
      nat32 (shows y.domain (fun d => (s.domain d).count.toNat))] := by
  refine recordWrites_of_words rfl (Nat.add_assoc ..).symm ?_ (by decide) (by simp)
  have count : (match (s.lane l).domain with | none => 0 | some d => (s.domain d).count) =
      nat32 (shows (s.lane l).domain (fun d => (s.domain d).count.toNat)) := by
    cases (s.lane l).domain with
    | none => rfl
    | some d => exact (nat32_toNat _).symm
  rw [← count]
  show s.laneRecord l = _
  unfold State.laneRecord
  dsimp only
  rw [getD_map_eq_shows, getD_eq_shows, orZero_eq_shows, capacity_eq_shows]
  rfl

theorem recordWrites_output (o : Fin 4) : let z := s.output o
    let settings (p : OutputSettings) : Word := fields [(0, flagBit p.enable), (8, p.domain.val), (16, p.divider.value)]
    s.recordWrites (.output o) = recordOf (s.base + 0x400 + 32 * o.val) 8 [
      fields [(0, z.state.code), (8, flagBit z.line), (16, flagBit (z.pendingSettings.isSome)),
        (17, flagBit (z.lastHalf.isSome))],
      settings z.settings, nat32 (shows z.pendingSettings (fun p => (settings p).toNat)), nat32 (shows z.lastHalf id),
      fields [(0, z.passedOver.toNat)]] := by
  refine recordWrites_of_words rfl (Nat.add_assoc ..).symm ?_ (by decide) (by simp)
  show s.outputRecord o = _
  unfold State.outputRecord
  dsimp only
  rw [orZero_map_eq_shows, getD_eq_shows]
  rfl

theorem recordWrites_input (w : Fin 2) : let i := s.input w
    s.recordWrites (.input w) = recordOf (s.base + 0x480 + 32 * w.val) 8 [
      fields [(0, flagBit i.present), (8, flagBit (i.latest.isSome)), (9, flagBit i.stale)], nat32 (shows i.latest id),
      fields [(0, i.absences.toNat)], i.measurements] := by
  refine recordWrites_of_words rfl (Nat.add_assoc ..).symm ?_ (by decide) (by simp)
  show s.inputRecord w = _
  unfold State.inputRecord
  dsimp only
  rw [getD_eq_shows]
  rfl

end Status

/-! ## A live record (R189) -/

section Live

variable (s) (i : Fin 32)

/-- R189: the flags of a live record, with the fields of its fourth word that stand below them. -/
def State.liveFlags (l : List (Nat × Nat)) : Word :=
  let x := s.stream i
  fields (l ++ [(25, flagBit (x.start.isSome)), (26, shows x.start (fun r => flagBit r.mark)),
    (27, flagBit (x.stamp.isSome)), (28, flagBit (x.stop.isSome)), (29, flagBit (x.swap.isSome)),
    (30, shows (s.entry i) (fun e => flagBit (e.retiring.isSome)))])

/-- R189: the state and the geometry of a stream, the first four words of its live record. -/
def State.liveHead : List Word :=
  match (s.stream i).geom with
  | none => [nat32 (s.stream i).state.code, 0, 0, s.liveFlags i []]
  | some g => [
    fields [(0, (s.stream i).state.code), (8, g.dir.code), (16, g.lane.val), (24, g.domain.val)],
    fields [(0, g.firstSlot), (8, g.channels), (16, g.policy.code), (24, shows g.late LatePolicy.code)],
    nat32 g.base, s.liveFlags i [(0, g.frames), (16, g.count), (24, flagBit g.notify)]]

/-- R189: the states of the periods of a stream's ring. -/
def State.livePeriods : Word :=
  match s.entry i with
  | none => 0
  | some e => periodWord 0 e.current.periods

/-- R189: the count of a stream's domain. -/
def State.liveCount : Word :=
  match (s.stream i).geom with
  | none => 0
  | some g => (s.domain g.domain).count

/-- The words of a live record from the fifth to the sixteenth (R189). -/
def State.liveMiddle : List Word :=
  let x := s.stream i
  let c := x.counters
  [fields [(0, x.frame), (16, x.period)], nat32 (shows x.start (·.frame.toNat)),
    nat32 (shows x.stamp BitVec.toNat), fields [(0, shows x.stop (·.mode.code))],
    nat32 (shows x.stop (·.last.toNat)), nat32 (shows x.swap (·.base)),
    fields [(0, shows x.swap (·.frames)), (16, shows x.swap (·.count))], s.livePeriods i,
    fields [(0, c.lateWrites.toNat), (16, c.earlyReads.toNat)], fields [(0, c.skipped.toNat), (16, c.lost.toNat)],
    c.slip, c.dropped]

theorem liveHead_length : (s.liveHead i).length = 4 := by
  unfold State.liveHead
  split <;> rfl

theorem liveHead_eq : s.liveHead i =
    let x := s.stream i
    let flags := [(25, bit x.start.isSome), (26, bit (x.start.any (·.mark))), (27, bit x.stamp.isSome),
      (28, bit x.stop.isSome), (29, bit x.swap.isSome),
      (30, bit (match s.entry i with | none => false | some e => e.retiring.isSome))]
    match x.geom with
    | none => [fields [(0, x.state.code)], 0, 0, fields flags]
    | some g =>
      [fields [(0, x.state.code), (8, g.dir.code), (16, g.lane.val), (24, g.domain.val)],
       fields [(0, g.firstSlot), (8, g.channels), (16, g.policy.code), (24, (g.late.map (·.code)).getD 0)],
       nat32 g.base, fields ([(0, g.frames), (16, g.count), (24, bit g.notify)] ++ flags)] := by
  have retiring : bit (match s.entry i with | none => false | some e => e.retiring.isSome) =
      shows (s.entry i) (fun e => flagBit (e.retiring.isSome)) := by cases s.entry i <;> rfl
  dsimp only
  rw [retiring, any_eq_shows]
  unfold State.liveHead State.liveFlags
  cases (s.stream i).geom with
  | none => rw [fields_one]; rfl
  | some g => dsimp only; rw [getD_map_eq_shows]; rfl

/-- The words of a live record after its sixteenth that are not 0 (R189). -/
def State.liveTail : List Word :=
  [(s.stream i).counters.substituted, (s.stream i).counters.engineLate, s.liveCount i]

/-- R189: the 32 words of a live record. -/
theorem liveRecord_eq : s.liveRecord i = (s.liveHead i ++ s.liveMiddle i) ++ (s.liveTail i ++ List.replicate 13 0) := by
  have swap (x : Option SwapRecord) :
      (match x with | none => [0, 0] | some w => [nat32 w.base, fields [(0, w.frames), (16, w.count)]]) =
        [nat32 (shows x (·.base)), fields [(0, shows x (·.frames)), (16, shows x (·.count))]] := by cases x <;> rfl
  have words : s.liveRecord i = padded 32 (s.liveHead i ++ s.liveMiddle i ++ s.liveTail i) := by
    unfold State.liveRecord
    dsimp only
    refine congrArg (padded 32) ?_
    rw [liveHead_eq, List.append_assoc, List.append_assoc, List.append_assoc]
    refine congrArg (_ ++ ·) ?_
    rw [orZero_map_eq_shows, orZero_eq_shows, orZero_map_eq_shows, getD_map_eq_shows]
    exact congrArg (fun x => _ ++ (x ++ _)) (swap (s.stream i).swap)
  have length : (s.liveHead i ++ s.liveMiddle i ++ s.liveTail i).length = 19 := by
    rw [List.length_append, List.length_append, liveHead_length]
    rfl
  rw [words, padded, length, List.append_assoc]

theorem recordWrites_live : s.recordWrites (.live i) = [
    ⟨s.base + 0x800 + 128 * i.val, s.liveHead i ++ s.liveMiddle i⟩,
    ⟨s.base + 0x800 + 128 * i.val + 64, s.liveTail i ++ List.replicate 13 0⟩] := by
  have first : (s.liveHead i ++ s.liveMiddle i).length = 16 := by
    rw [List.length_append, liveHead_length]
    rfl
  show transactions 2 (s.base + (0x800 + 128 * i.val)) (s.liveRecord i) = _
  rw [liveRecord_eq, transactions_two first (by simp [State.liveTail])]
  simp only [Nat.add_assoc]

theorem liveHead_of_none (h : (s.stream i).geom = none) :
    s.liveHead i = [nat32 (s.stream i).state.code, 0, 0, s.liveFlags i []] := by simp only [State.liveHead, h]

theorem liveHead_of_some {g : Geometry} (h : (s.stream i).geom = some g) : s.liveHead i = [
    fields [(0, (s.stream i).state.code), (8, g.dir.code), (16, g.lane.val), (24, g.domain.val)],
    fields [(0, g.firstSlot), (8, g.channels), (16, g.policy.code), (24, shows g.late LatePolicy.code)],
    nat32 g.base, s.liveFlags i [(0, g.frames), (16, g.count), (24, flagBit g.notify)]] := by
  simp only [State.liveHead, h]

theorem liveCount_of_none (h : (s.stream i).geom = none) : s.liveCount i = 0 := by simp only [State.liveCount, h]

theorem liveCount_of_some {g : Geometry} (h : (s.stream i).geom = some g) :
    s.liveCount i = (s.domain g.domain).count := by simp only [State.liveCount, h]

theorem livePeriods_of_none (h : s.entry i = none) : s.livePeriods i = 0 := by simp only [State.livePeriods, h]

theorem livePeriods_of_some {e : RingEntry} (h : s.entry i = some e) :
    s.livePeriods i = periodWord 0 e.current.periods := by simp only [State.livePeriods, h]

end Live

/-! ## The states of the periods (R184, R189) -/

theorem periodState_code_lt (x : PeriodState) : x.code < 4 := by cases x <;> decide

/-- Nothing stands below the first period's bits. -/
theorem periodWord_low : ∀ (l : List PeriodRec) {i n : Nat}, n < i → (periodWord i l).getLsbD n = false
  | [], _, _, _ => BitVec.getLsbD_zero
  | r :: l, i, n, h => by
    rw [periodWord, BitVec.getLsbD_or, BitVec.getLsbD_shiftLeft, periodWord_low l (Nat.lt_add_right 2 h)]
    simp [h]

/-- R184: period `k` of a list stands at the two bits `i + 2 k` and `i + 2 k + 1`. -/
theorem periodWord_bit {j : Nat} (hj : j < 2) : ∀ (l : List PeriodRec) (i k : Nat), i + 2 * k + j < 32 →
    (periodWord i l).getLsbD (i + 2 * k + j) = (shows l[k]? (·.state.code)).testBit j
  | [], _, _, _ => by simp [periodWord]
  | r :: l, i, 0, h => by
    have first : i + 2 * 0 + j - i = j := by omega
    rw [periodWord, BitVec.getLsbD_or, BitVec.getLsbD_shiftLeft, periodWord_low l (by omega), first, BitVec.getLsbD_ofNat,
      decide_eq_true h, decide_eq_false (by omega), decide_eq_true (by omega), Bool.or_false]
    rfl
  | r :: l, i, k + 1, h => by
    have next : i + 2 * (k + 1) + j = i + 2 + 2 * k + j := by omega
    have above : (BitVec.ofNat 32 r.state.code).getLsbD (i + 2 * (k + 1) + j - i) = false := by
      rw [BitVec.getLsbD_ofNat, Nat.testBit_lt_two_pow, Bool.and_false]
      calc r.state.code < 2 ^ 2 := periodState_code_lt r.state
        _ ≤ 2 ^ (i + 2 * (k + 1) + j - i) := Nat.pow_le_pow_right (by decide) (by omega)
    rw [periodWord, BitVec.getLsbD_or, BitVec.getLsbD_shiftLeft, above, next, periodWord_bit hj l (i + 2) k (by omega)]
    simp

theorem periodWord_field (l : List PeriodRec) {k : Nat} (hk : k < 16) : (periodWord 0 l >>> (2 * k)).setWidth 2 =
    if h : k < l.length then BitVec.ofNat 2 l[k].state.code else 0 := by
  have field : (periodWord 0 l >>> (2 * k)).setWidth 2 = BitVec.ofNat 2 (shows l[k]? (·.state.code)) := by
    refine BitVec.eq_of_getLsbD_eq fun j hj => ?_
    have bit := periodWord_bit hj l 0 k (by omega)
    rw [Nat.zero_add] at bit
    rw [BitVec.getLsbD_setWidth, BitVec.getLsbD_ushiftRight, bit, BitVec.getLsbD_ofNat]
  rw [field]
  split
  · next h => rw [List.getElem?_eq_getElem h]
  · next h => rw [List.getElem?_eq_none (Nat.le_of_not_lt h)]; rfl

/-! ## When writes are held, and the 10 ms writes (R95, R131, R164, R166, R167) -/

theorem holdsWrites_iff (x : Phase) : x.holdsWrites = true ↔
    x = .held ∨ x = .bringUp ∨ x = .scrub ∨ x = .hostReset ∨ x = .hostScrub := by
  cases x <;> simp [Phase.holdsWrites]

theorem heldEvents_of_open (h : s.phase.holdsWrites = false) (es : List Event) :
    s.heldEvents es = if s.phase = .records then [] else es := by
  have discards : s.phase.discardsEvents = true ↔ s.phase = .records := by
    revert h
    cases s.phase <;> simp [Phase.holdsWrites, Phase.discardsEvents]
  unfold State.heldEvents
  simp only [discards]

section Periodic

variable {dt : Nat} (hp : s.phase ≠ .held)
include hp

theorem exec_surfaceCounterPeriodic (p : Fin 2) :
    exec (.surfaceCounterPeriodic p dt) s = .next ((s.elapse dt).requestImage p []) := congrArg _ (if_neg hp)

theorem exec_inputStatusPeriodic_early (h : (s.mclk + dt - s.cb.tenMs) / 1000000 = 0) :
    exec (.inputStatusPeriodic dt) s = .next (s.elapse dt) := by
  have passed : (s.elapse dt).tenMsOver = none := if_pos h
  have on : (s.elapse dt).phase ≠ .held := hp
  simp only [exec, execInputStatusPeriodic, powered, if_neg on, passed]

theorem exec_inputStatusPeriodic_due (h : (s.mclk + dt - s.cb.tenMs) / 1000000 ≠ 0) :
    exec (.inputStatusPeriodic dt) s = .next (({ s.elapse dt with cb := { s.cb with
      tenMs := s.cb.tenMs + (s.mclk + dt - s.cb.tenMs) / 1000000 * 1000000 } } : State).requestAll
        [.input 0, .input 1, .passCounters, .report]) := by
  have passed : (s.elapse dt).tenMsOver =
      some (s.cb.tenMs + (s.mclk + dt - s.cb.tenMs) / 1000000 * 1000000) := if_neg h
  have on : (s.elapse dt).phase ≠ .held := hp
  simp only [exec, execInputStatusPeriodic, powered, if_neg on, passed]
  rfl

end Periodic

end Sys2Proof.Machine

namespace Sys2Proof.Proofs

open Sys2Proof.Machine

/-- Settles O20: each request by the first of its kind that waits, the 10 ms writes by the periods that have passed, and
each record word by word. -/
theorem requestsShowTheirRecords : Obligations.RequestsShowTheirRecords := by
  refine ⟨fun s id => ⟨request_of_held, fun h => ?_⟩,
    fun s p l es => ⟨fun h => ⟨requestImage_of_held h, requestMeter_of_held h⟩,
      fun h => ⟨fun a it b hr hit ha => ?_, fun hr => ?_, fun h => h.elim requestMeter_of_none requestMeter_of_waiting,
        requestMeter_of_new h⟩⟩,
    holdsWrites_iff,
    fun s dt p hp => ⟨exec_inputStatusPeriodic_early hp, exec_inputStatusPeriodic_due hp,
      exec_surfaceCounterPeriodic hp p⟩,
    fun s d l o w => ⟨recordWrites_identity s, recordWrites_startWord s, recordWrites_passCounters s,
      recordWrites_report s, recordWrites_domain s d, recordWrites_lane s l, recordWrites_output s o,
      recordWrites_input s w⟩,
    fun s i => ⟨s.liveHead i, s.livePeriods i, s.liveCount i, recordWrites_live s i,
      fun h => ⟨liveHead_of_none s i h, liveCount_of_none s i h⟩,
      fun g h => ⟨liveCount_of_some s i h, liveHead_of_some s i h⟩, livePeriods_of_none s i, fun e h k hk => ?_⟩⟩
  · rcases none_or_first (RecordItem.waits (.status id)) s.mc.records with none | ⟨a, it, b, hr, hit, ha⟩
    · exact ⟨_, request_of_new h none, .inr ⟨none, rfl⟩⟩
    · exact ⟨_, request_of_waiting h hr hit ha, .inl ⟨a, it, b, hr, hit.1, hit.2, ha, rfl⟩⟩
  · dsimp only
    rw [requestImage_of_waiting h hr hit ha, heldEvents_of_open h]
    rfl
  · dsimp only
    rw [requestImage_of_new h hr, heldEvents_of_open h]
    rfl
  · rw [livePeriods_of_some s i h]
    exact periodWord_field _ hk

end Sys2Proof.Proofs
end

-- ==== Proofs of the family 06: the echoes of a TRAINING lane ====
section
/-! Frames that reach an IDLE or a FAULT lane, stray frames, and the echoes of a TRAINING lane (R102, R107, R109). -/

namespace Sys2Proof.Machine

variable {s : State} {l : Fin 8} {d : Fin 4} {f : LaneFrame} {n : Word}

/-! ## The arrival of a frame (R102, R107) -/

theorem frameArrives_ignored (h : (s.lane l).state = .idle ∨ (s.lane l).state = .fault) : s.frameArrives l f = s := by
  unfold State.frameArrives
  rcases h with idle | fault
  · simp only [idle]
  · simp only [fault]

theorem frameArrives_stray (hs : (s.lane l).state = .training ∨ (s.lane l).state = .up)
    (he : (s.lane l).expected = none) : s.frameArrives l f = s.setLane l { s.lane l with
      counters := { (s.lane l).counters with stray := satInc (s.lane l).counters.stray } } := by
  unfold State.frameArrives
  rcases hs with training | up
  · simp only [training, he]
  · simp only [up, he]

theorem frameArrives_echo (hs : (s.lane l).state = .training) (he : (s.lane l).expected = some n)
    (hd : (s.lane l).domain = some d) : s.frameArrives l f = (s.answered l).judgeEcho l d n f := by
  unfold State.frameArrives
  simp only [State.answered, hs, he, hd]

/-! ## The judging of an echo (R109) -/

theorem isGoodEcho_iff (a : Word) : isGoodEcho f n a = true ↔ goodEcho f n a := by
  simp only [isGoodEcho, Bool.and_eq_true, beq_iff_eq, crcCorrect_iff, tag_eq_iff, and_assoc]

theorem judgeEcho_bad (h : ¬ goodEcho f n (s.domain d).announcement) :
    s.judgeEcho l d n f = s.setLane l { s.lane l with trainingRun := 0 } :=
  if_neg fun good => h ((isGoodEcho_iff _).1 good)

theorem judgeEcho_good (h : goodEcho f n (s.domain d).announcement) :
    s.judgeEcho l d n f = if (s.lane l).trainingRun + 1 = 16 then s.laneUp l d n
      else s.setLane l { s.lane l with trainingRun := (s.lane l).trainingRun + 1 } :=
  if_pos ((isGoodEcho_iff _).2 h)

/-- The lane becomes UP: its record is requested, and LANE_UP carries its capacity, family and multiplier. -/
theorem laneUp_eq (hd : (s.lane l).domain = some d) (n : Word) : s.laneUp l d n =
    ((s.setLane l { s.lane l with
      state := .up, trainingRun := 16, badRun := 0, lastStatus := none }).request (.lane l)).passEvent
        (s.ofLane .laneUp l d
          (fields [(0, slotCapacity (s.domain d).mult), (8, (s.domain d).family.code), (16, (s.domain d).mult.value)])
          n false) := by
  unfold State.laneUp
  dsimp only
  rw [laneEvent_eq (s := s) (d := d) (by rw [State.request_lane, State.lane_setLane_self]; exact hd)
    (by rw [State.request_cb, State.setLane_cb]), capacity_eq hd]
  rfl

theorem answered_setLane (x : Lane) : (s.answered l).setLane l x = s.setLane l x := State.setLane_setLane s l _ x

/-! ## The echo of a lane that expects it (R107, R109) -/

section
variable (hs : (s.lane l).state = .training) (he : (s.lane l).expected = some n) (hd : (s.lane l).domain = some d)
include hs he hd

theorem frameArrives_badEcho (h : ¬ goodEcho f n (s.domain d).announcement) :
    s.frameArrives l f = s.setLane l { s.lane l with expected := none, trainingRun := 0 } := by
  rw [frameArrives_echo hs he hd, judgeEcho_bad (s := s.answered l) h, answered_lane, answered_setLane]

theorem frameArrives_goodEcho (h : goodEcho f n (s.domain d).announcement) (run : (s.lane l).trainingRun + 1 ≠ 16) :
    s.frameArrives l f =
      s.setLane l { s.lane l with expected := none, trainingRun := (s.lane l).trainingRun + 1 } := by
  rw [frameArrives_echo hs he hd, judgeEcho_good (s := s.answered l) h, answered_lane, if_neg run,
    answered_setLane]

theorem frameArrives_lastEcho (h : goodEcho f n (s.domain d).announcement) (run : (s.lane l).trainingRun + 1 = 16) :
    s.frameArrives l f = ((s.setLane l { s.lane l with
      expected := none, state := .up, trainingRun := 16, badRun := 0, lastStatus := none }).request (.lane l)).passEvent
        (s.ofLane .laneUp l d
          (fields [(0, slotCapacity (s.domain d).mult), (8, (s.domain d).family.code), (16, (s.domain d).mult.value)])
          n false) := by
  have domain : ((s.answered l).lane l).domain = some d := by rw [answered_lane]; exact hd
  rw [frameArrives_echo hs he hd, judgeEcho_good (s := s.answered l) h, laneUp_eq domain, answered_lane, if_pos run,
    ofLane_of_cb (s := s) (t := s.answered l) rfl, answered_setLane]
  rfl

end

end Sys2Proof.Machine

namespace Sys2Proof.Proofs
open Sys2Proof.Machine

/-- Settles O49: the frame is ignored, stray, or an echo that is bad, good, or the 16th good one in a row. -/
theorem trainingLanesJudgeEchoes : Obligations.TrainingLanesJudgeEchoes := by
  intro s l f hp
  dsimp only
  rw [exec_laneFrameReceived hp]
  refine ⟨fun away => ?ignored, fun on none => ?stray, fun n d hs he hd =>
    ⟨fun bad => ?bad, fun good run => ?good, fun good run => ?last⟩⟩
  case ignored => rw [frameArrives_ignored away]
  case stray => rw [frameArrives_stray on none]
  case bad => rw [frameArrives_badEcho hs he hd bad]
  case good => rw [frameArrives_goodEcho hs he hd good run]
  case last => rw [frameArrives_lastEcho hs he hd good run]

end Sys2Proof.Proofs
end

-- ==== Proofs of the family 07: the motor interlock ====
section
/-! The motor interlock through every command (R129, R136). -/

namespace Sys2Proof.Machine

/-! ## The interlock through the reset sequences (R143, R144, R178 to R182) -/

/-- The ports as before. -/
theorem State.Interlocked.of_si {s t : State} (a : s.Interlocked) (h : t.si = s.si) : t.Interlocked := by
  simpa only [State.Interlocked, State.port, h] using a

theorem powerOn_interlocked (n : Nat) (b : Bool) (q : List Instr) : (State.powerOn n b q).Interlocked :=
  fun p => by rw [powerOn_port]; exact port_powerOn_interlocked

/-- R144: a host reset frees the motors of both ports and touches nothing else of the interlock. -/
theorem resetBlocks_interlocked {s : State} (a : s.Interlocked) : s.resetBlocks.Interlocked := by
  have k : Keeps s.clearedBlocks s.resetBlocks :=
    keeps_resetMeters (keeps_resetSurfaces (keeps_resetLanes (keeps_resetStreams (.refl _))))
  exact k.motors (a.of_si rfl)

theorem openPort_interlocked {s : State} (a : s.Interlocked) : s.openPort.Interlocked := by
  rcases openPort_cases s with ⟨-, -, e⟩ | ⟨-, e⟩ <;> rw [e]
  · exact resetBlocks_interlocked a
  · exact a.of_si rfl

theorem openWhenReady_interlocked {s : State} (a : s.Interlocked) : s.openWhenReady.Interlocked := by
  unfold State.openWhenReady; split
  · exact openPort_interlocked a
  · exact a

theorem writeReady_interlocked {s : State} (a : s.Interlocked) : s.writeReady.Interlocked := by
  unfold State.writeReady; split
  · exact openPort_interlocked ((keeps_completeThrough (.refl s) _).motors a)
  · exact a

theorem completeRow_interlocked {s : State} (a : s.Interlocked) (p : RecordWork → Bool) :
    (s.completeRow p).Interlocked := by
  refine (keeps_completeThrough (.refl _) p).motors ?_
  split
  · exact writeReady_interlocked a
  · exact a

theorem powered_interlocked {s t : State} {f : State → State} (he : powered s f = .next t) (a : s.Interlocked)
    (hf : (f s).Interlocked) : t.Interlocked := by
  unfold powered at he
  split at he <;> cases he
  · exact a
  · exact hf

/-- Each row of the sequences keeps the interlock. -/
theorem sequence_interlocked {c : Instr} {s t : State} (hc : mayTurnPhase c = true) (he : exec c s = .next t)
    (a : s.Interlocked) : t.Interlocked := by
  cases c with
    dsimp only [exec, execPornAssert, execPornRelease, execSdramBringUp, execStartUpScrubComplete, execPassPortOpen,
      execMemoryArbitration, execEventRecordWritten, execMeterTableWritten, execSurfaceImageWritten, execHrstnAssert,
      execHrstnRelease, execHostResetScrubComplete] at he
  | pornAssert => cases he; exact powerOn_interlocked _ _ _
  | pornRelease | hrstnRelease => cases he; split <;> exact a.of_si rfl
  | sdramBringUp => refine powered_interlocked he (a.of_si rfl) ?_; split <;> exact a.of_si rfl
  | startUpScrubComplete =>
    refine powered_interlocked he a ?_
    split
    · have k := keeps_request (keeps_requestImage (keeps_requestImage
        (keeps_requestAll (.refl (s.scrubbed .records)) rewriteOrder) 0 []) 1 []) .startWord
      exact k.motors (a.of_si rfl)
    · exact a
  | passPortOpen => exact powered_interlocked he a (writeReady_interlocked a)
  | memoryArbitration =>
    exact powered_interlocked he a (openWhenReady_interlocked ((keeps_arbitrate (.refl s)).motors a))
  | eventRecordWritten => exact powered_interlocked he a (completeRow_interlocked (completeRow_interlocked a _) _)
  | meterTableWritten | surfaceImageWritten => exact powered_interlocked he a (completeRow_interlocked a _)
  | hrstnAssert =>
    have pin : ({ s with hrstn := true } : State).Interlocked := a.of_si rfl
    split at he <;> cases he
    · exact resetBlocks_interlocked ((keeps_finishInHand (.refl _)).motors pin)
    · exact resetBlocks_interlocked pin
    · exact resetBlocks_interlocked pin
    · exact resetBlocks_interlocked pin
    all_goals exact pin
  | hostResetScrubComplete =>
    refine powered_interlocked he a ?_
    split
    · have k := keeps_request (keeps_requestAll
        (keeps_restoreMeters (keeps_restoreSurfaces (.refl (s.scrubbed .hostRecords)))) rewriteOrder) .startWord
      exact k.motors (a.of_si rfl)
    · exact a
  | _ => cases hc

/-- No command leaves a target pending for a touched fader. -/
theorem exec_interlocked {c : Instr} {s t : State} (he : exec c s = .next t) (a : s.Interlocked) : t.Interlocked := by
  cases hc : mayTurnPhase c with
  | true => exact sequence_interlocked hc he a
  | false =>
    obtain ⟨n, k, -⟩ := exec_carries hc he
    exact k.motors (a.of_si rfl)

end Sys2Proof.Machine

namespace Sys2Proof.Proofs

open Sys2Proof.Machine

/-- Settles O8: a step is its front command, and each command keeps the interlock. -/
theorem everyStepKeepsInterlock : Obligations.EveryStepKeepsInterlock := by
  intro s t a h
  unfold step at h
  split at h
  · cases h; exact a
  · exact exec_interlocked h (a.of_si rfl)

end Sys2Proof.Proofs
end

-- ==== Proofs of the family 07: the rows of the surface link ====
section
/-! What arrives on a surface port: its bytes, the messages they end, and what is discarded (R124, R125, R202). -/

namespace Sys2Proof.Machine

variable {s : State} {p : Fin 2}

/-! ## Silence (R128, log 13) -/

theorem silent_of_heard {n : Nat} (h : (s.port p).heard s.mclk) (hn : Config.silenceLimit < n) : s.silent p n = false := by
  unfold State.silent
  split
  · rfl
  · next t ht =>
    have := h t ht
    simp only [Config.silenceLimit] at hn
    simp only [Bool.and_eq_false_imp, decide_eq_false_iff_not]
    omega

theorem surfaceMessage_of_heard (h : (s.port p).heard s.mclk) (bytes : List SurfaceByte) :
    s.surfaceMessage p bytes = s.receive p bytes := by
  have : s.expireSilence p = s := if_neg (by simp [silent_of_heard h (Nat.lt_succ_self _)])
  rw [State.surfaceMessage, this]

/-! ## Messages out of bytes (R124, R202, log 26) -/

/-- Bytes with the framing bit clear. -/
def unframed (l : List Byte) : List SurfaceByte := l.map (⟨false, ·⟩)

theorem assemble_append (o : List Byte) (a b : List SurfaceByte) :
    assemble o (a ++ b) = ((assemble (assemble o a).1 b).1, (assemble o a).2 ++ (assemble (assemble o a).1 b).2) := by
  induction a generalizing o with
  | nil => simp [assemble]
  | cons x a ih => simp only [List.cons_append, assemble, ih, List.append_assoc]

theorem assemble_unframed_none (l : List Byte) : assemble [] (unframed l) = ([], []) := by
  induction l with
  | nil => rfl
  | cons b l ih => simpa [unframed, assemble, assembleByte] using ih

variable {k : Byte} {n : Nat}

/-- A message short of its last byte stays open. -/
theorem assemble_unframed_short (hk : reportLength k = some n) (more : List Byte) : ∀ {rest : List Byte},
    rest.length + 1 + more.length < n → assemble (k :: rest) (unframed more) = (k :: rest ++ more, []) := by
  induction more with
  | nil => simp [unframed, assemble]
  | cons b more ih =>
    intro rest h
    have ih := ih (rest := rest ++ [b]) (by simp only [List.length_append, List.length_cons, List.length_nil] at h ⊢; omega)
    have one : assembleByte (k :: rest) ⟨false, b⟩ = (k :: (rest ++ [b]), []) := by
      simp only [List.length_cons] at h
      simp [assembleByte, hk, show rest.length + 1 + 1 < n by omega]
    simp only [unframed, List.map_cons, assemble, one] at ih ⊢
    simp [ih]

/-- A message is judged at its last byte. -/
theorem assemble_unframed_last (hk : reportLength k = some n) {rest more : List Byte} (hm : more ≠ [])
    (h : rest.length + 1 + more.length = n) :
    assemble (k :: rest) (unframed more) = ([], [parseReport (k :: rest ++ more)]) := by
  obtain ⟨front, b, rfl⟩ := List.eq_nil_or_concat more |>.resolve_left hm
  rw [List.concat_eq_append] at *
  rw [List.length_append, List.length_singleton] at h
  have short := assemble_unframed_short hk front (rest := rest) (by omega)
  simp only [unframed] at short
  have last : assembleByte (k :: rest ++ front) ⟨false, b⟩ = ([], [parseReport (k :: rest ++ (front ++ [b]))]) := by
    simp only [assembleByte, hk, List.cons_append, List.append_assoc, List.length_cons, List.length_append,
      List.length_nil, Option.getD_some, Bool.false_eq_true, if_false]
    rw [if_neg (by omega)]
  rw [unframed, List.map_append, assemble_append, short]
  simp only [List.map_cons, List.map_nil, assemble, last, List.nil_append, List.append_nil]

theorem assembleByte_kind (o : List Byte) (hk : reportLength k = some n) :
    assembleByte o ⟨true, k⟩ = ([k], if o.isEmpty then [] else [none]) := by
  simp [assembleByte, hk]

/-- A framed byte ends what is open and begins another message: the row as where none is open, behind that end. -/
theorem assemble_framed_of_open {o : List Byte} (ho : o ≠ []) (k : Byte) (l : List SurfaceByte) :
    assemble o (⟨true, k⟩ :: l) = ((assemble [] (⟨true, k⟩ :: l)).1, none :: (assemble [] (⟨true, k⟩ :: l)).2) := by
  simp only [assemble, assembleByte, List.isEmpty_iff, ho, List.isEmpty_nil, if_true, if_false]
  split <;> simp

theorem assemble_report {rest : List Byte} (hk : reportLength k = some n) (hr : rest ≠ []) (h : rest.length + 1 = n) :
    assemble [] (framed (k :: rest)) = ([], [parseReport (k :: rest)]) := by
  have last := assemble_unframed_last hk (rest := []) hr (by simpa [Nat.add_comm] using h)
  rw [List.cons_append, List.nil_append] at last
  simp only [framed, assemble, assembleByte_kind [] hk]
  exact congrArg (fun r => (r.1, [] ++ r.2)) last

theorem assemble_kind_short {rest : List Byte} (hk : reportLength k = some n) (h : rest.length + 1 < n) :
    assemble [] (⟨true, k⟩ :: unframed rest) = (k :: rest, []) := by
  have short := assemble_unframed_short hk rest (rest := []) (by simpa [Nat.add_comm] using h)
  simp only [assemble, assembleByte_kind [] hk, short]
  simp

theorem assemble_kind_unknown (hk : reportLength k = none) (rest : List Byte) :
    assemble [] (⟨true, k⟩ :: unframed rest) = ([], [none]) := by
  simp [assemble, assembleByte, hk, assemble_unframed_none]

theorem setPort_incoming_same {o : List Byte} (h : (s.port p).incoming = o) :
    s.setPort p { s.port p with incoming := o } = s := by
  subst h; exact s.setPort_port p

/-- A whole report on a port with no message open is judged. -/
theorem receive_report {rest : List Byte} (ho : (s.port p).incoming = []) (hk : reportLength k = some n) (hr : rest ≠ [])
    (h : rest.length + 1 = n) : s.receive p (framed (k :: rest)) = State.judgeMessage p s (parseReport (k :: rest)) := by
  unfold State.receive
  rw [ho, assemble_report hk hr h]
  exact congrArg (State.judgeMessage p · _) (setPort_incoming_same ho)

/-- The port with its open message ended as malformed (R124). -/
def State.messageEnded (s : State) (p : Fin 2) : State :=
  s.setPort p { s.port p with
    incoming := [], counters := { (s.port p).counters with malformed := satInc (s.port p).counters.malformed } }

theorem receive_framed_of_open (ho : (s.port p).incoming ≠ []) (k : Byte) (rest : List Byte) :
    s.receive p (framed (k :: rest)) = (s.messageEnded p).receive p (framed (k :: rest)) := by
  unfold State.receive framed
  rw [assemble_framed_of_open ho, List.foldl_cons]
  simp only [State.messageEnded, State.port_setPort_self, State.judgeMessage, State.discardMalformed,
    State.setPort_setPort]

theorem surfaceMessage_framed_of_open (h : (s.port p).heard s.mclk) (ho : (s.port p).incoming ≠ []) (k : Byte)
    (rest : List Byte) :
    s.surfaceMessage p (framed (k :: rest)) = (s.messageEnded p).surfaceMessage p (framed (k :: rest)) := by
  have h' : ((s.messageEnded p).port p).heard (s.messageEnded p).mclk := by
    rw [State.messageEnded, State.port_setPort_self]
    exact h
  rw [surfaceMessage_of_heard h, surfaceMessage_of_heard h', receive_framed_of_open ho]

/-! ## The fields of a report (R124) -/

/-- A report of its kind's length is judged by its sum, and then by its fields. -/
theorem parseReport_whole {rest : List Byte} (hk : reportLength k = some n) (h : rest.length + 1 = n) :
    parseReport (k :: rest) = if byteSum (k :: rest) = 0 then reportFields (k :: rest) else none := by
  have whole : (k :: rest).take n = k :: rest := List.take_of_length_le (Nat.le_of_eq h)
  simp only [parseReport, hk, List.length_cons, h, lt_irrefl, if_false, whole, ne_eq, ite_not]

theorem parseReport_announce (a b c d ck : Byte) : parseReport [1, a, b, c, d, ck] =
    if (1 : Byte) + a + b + c + d + ck = 0 ∧ a.toNat ≤ 16 ∧ b.toNat ≤ 16 ∧ c.toNat ≤ 16 ∧ d.toNat ≤ 16 then
      some (.announce ⟨a.toNat, b.toNat, c.toNat, d.toNat⟩) else none := by
  rw [parseReport_whole (n := 6) rfl rfl, ite_and]
  simp only [reportFields, true_and]
  rfl

theorem parseReport_buttons (g x ck : Byte) : parseReport [2, g, x, ck] =
    if (2 : Byte) + g + x + ck = 0 then some (.buttons g.toNat x) else none := by
  rw [parseReport_whole (n := 4) rfl rfl]
  rfl

theorem parseReport_encoder (e x ck : Byte) : parseReport [4, e, x, ck] =
    if (4 : Byte) + e + x + ck = 0 ∧ -64 ≤ x.toInt ∧ x.toInt ≤ 63 then some (.encoder e.toNat x) else none := by
  rw [parseReport_whole (n := 4) rfl rfl, ite_and]
  simp only [reportFields, true_and, show ¬ (4 : Byte) = 2 by decide, if_false]
  rfl

theorem parseReport_idle (ck : Byte) : parseReport [5, ck] = if (5 : Byte) + ck = 0 then some .idle else none := by
  rw [parseReport_whole (n := 2) rfl rfl]
  rfl

/-- The bits of a position's high byte that must be clear (R202). -/
theorem positionBits_clear (hi : Byte) : hi.extractLsb' 2 5 = 0 ↔ ∀ b, 2 ≤ b → b < 7 → hi.getLsbD b = false := by
  constructor
  · intro h b h2 h7
    have := congrArg (fun x : BitVec 5 => x.getLsbD (b - 2)) h
    simpa [BitVec.getLsbD_extractLsb', show b - 2 < 5 by omega, show 2 + (b - 2) = b by omega] using this
  · intro h
    refine BitVec.eq_of_getLsbD_eq fun i hi => ?_
    simpa [BitVec.getLsbD_extractLsb', hi] using h (2 + i) (by omega) (by omega)

/-- The ten bits of a position, out of its two bytes (R202). -/
theorem position_eq (lo hi : Byte) : lo.setWidth 10 ||| ((hi.extractLsb' 0 2).setWidth 10 <<< 8) =
    BitVec.ofNat 10 (lo.toNat + 256 * (hi.toNat % 4)) := by
  have hl : lo.toNat < 2 ^ 8 := lo.isLt
  have hh : hi.toNat % 4 < 4 := Nat.mod_lt _ (by decide)
  refine BitVec.eq_of_toNat_eq ?_
  have join := Nat.shiftLeft_add_eq_or_of_lt hl (hi.toNat % 4)
  simp only [BitVec.toNat_or, BitVec.toNat_shiftLeft, BitVec.toNat_setWidth, BitVec.extractLsb'_toNat, BitVec.toNat_ofNat,
    Nat.shiftRight_zero, Nat.shiftLeft_eq] at join ⊢
  rw [Nat.mod_eq_of_lt (show lo.toNat < 2 ^ 10 by omega), Nat.mod_eq_of_lt (show hi.toNat % 2 ^ 2 < 2 ^ 10 by omega),
    Nat.mod_eq_of_lt (show hi.toNat % 2 ^ 2 * 2 ^ 8 < 2 ^ 10 by omega), Nat.or_comm]
  change hi.toNat % 4 * 2 ^ 8 ||| lo.toNat = _
  rw [← join]
  omega

theorem parseReport_fader (f lo hi ck : Byte) : parseReport [3, f, lo, hi, ck] =
    if (3 : Byte) + f + lo + hi + ck = 0 ∧ hi.extractLsb' 2 5 = 0 then
      some (.fader f.toNat (BitVec.ofNat 10 (lo.toNat + 256 * (hi.toNat % 4))) (hi.getLsbD 7)) else none := by
  rw [parseReport_whole (n := 5) rfl rfl, ite_and]
  simp only [reportFields, true_and, position_eq]
  rfl

/-! ## The rows (R124, R125) -/

variable {dt : Nat}

theorem powered_of_not_held (h : s.phase ≠ .held) (f : State → State) : powered s f = .next (f s) :=
  congrArg Host.Outcome.next (if_neg h)

theorem exec_malformedSurfaceMessage (h : s.phase ≠ .held) (hh : (s.port p).heard s.mclk) (bytes : List SurfaceByte) :
    exec (.malformedSurfaceMessage p bytes) s = .next (s.receive p bytes) :=
  (powered_of_not_held h (fun s => s.surfaceMessage p bytes)).trans
    (congrArg Host.Outcome.next (surfaceMessage_of_heard hh bytes))

section
variable (h : s.phase ≠ .held) (hh : (s.port p).heard (s.mclk + dt))
include h hh

/-- The row of a report whose bytes are `k :: rest`, on a port that still hears its surface. -/
theorem powered_surfaceMessage (bytes : List SurfaceByte) :
    powered (s.elapse dt) (fun s => s.surfaceMessage p bytes) = .next ((s.elapse dt).receive p bytes) :=
  (powered_of_not_held (s := s.elapse dt) h _).trans
    (congrArg Host.Outcome.next (surfaceMessage_of_heard (s := s.elapse dt) hh bytes))

variable (ho : (s.port p).incoming = [])
include ho

theorem exec_announce (a b c d ck : Byte) : exec (.announce p a b c d ck dt) s =
    .next (State.judgeMessage p (s.elapse dt) (parseReport [1, a, b, c, d, ck])) := by
  have e := receive_report (s := s.elapse dt) (k := 1) ho rfl (List.cons_ne_nil a [b, c, d, ck]) rfl
  exact (powered_surfaceMessage h hh _).trans (congrArg Host.Outcome.next e)

theorem exec_buttons (g x ck : Byte) : exec (.buttons p g x ck dt) s =
    .next (State.judgeMessage p (s.elapse dt) (parseReport [2, g, x, ck])) := by
  have e := receive_report (s := s.elapse dt) (k := 2) ho rfl (List.cons_ne_nil g [x, ck]) rfl
  exact (powered_surfaceMessage h hh _).trans (congrArg Host.Outcome.next e)

theorem exec_faderReport (f lo hi ck : Byte) : exec (.faderReport p f lo hi ck dt) s =
    .next (State.judgeMessage p (s.elapse dt) (parseReport [3, f, lo, hi, ck])) := by
  have e := receive_report (s := s.elapse dt) (k := 3) ho rfl (List.cons_ne_nil f [lo, hi, ck]) rfl
  exact (powered_surfaceMessage h hh _).trans (congrArg Host.Outcome.next e)

theorem exec_encoderReport (i x ck : Byte) : exec (.encoderReport p i x ck dt) s =
    .next (State.judgeMessage p (s.elapse dt) (parseReport [4, i, x, ck])) := by
  have e := receive_report (s := s.elapse dt) (k := 4) ho rfl (List.cons_ne_nil i [x, ck]) rfl
  exact (powered_surfaceMessage h hh _).trans (congrArg Host.Outcome.next e)

theorem exec_idleReport (ck : Byte) : exec (.idleReport p ck dt) s =
    .next (State.judgeMessage p (s.elapse dt) (parseReport [5, ck])) := by
  have e := receive_report (s := s.elapse dt) (k := 5) ho rfl (List.cons_ne_nil ck []) rfl
  exact (powered_surfaceMessage h hh _).trans (congrArg Host.Outcome.next e)

end

/-! ## The index of a report (R125) -/

theorem indexOf_of_val {i : Fin 16} {index : Nat} (h : index = i.val) : indexOf index = some i := by
  subst h; simp [indexOf]

theorem takeIndexed_below {index count : Nat} {i : Fin 16} (hi : index = i.val) (hc : i.val < count) (act : Fin 16 → State) :
    s.takeIndexed p index count act = act i := by
  rw [State.takeIndexed, indexOf_of_val hi]
  exact if_pos (hi ▸ hc)

theorem takeIndexed_beyond {index count : Nat} (h : 16 ≤ index ∨ count ≤ index) (act : Fin 16 → State) :
    s.takeIndexed p index count act = s.discardIndex p := by
  unfold State.takeIndexed
  split
  · next i hi =>
    have : index < 16 := by
      unfold indexOf at hi
      split at hi
      · assumption
      · cases hi
    exact if_neg (by omega)
  · rfl

end Sys2Proof.Machine
end

-- ==== Proofs of the family 07: reports that are discarded ====
section
/-! Reports that are discarded, and messages that are still open (R124, R125, R202). -/

namespace Sys2Proof.Machine

variable {s : State} {p : Fin 2}

/-! ## Reports on a DOWN port, and indices beyond the announced counts (R125) -/

theorem judge_buttons_down (h : (s.port p).up = false) (g : Nat) (x : Byte) :
    State.judgeMessage p s (some (.buttons g x)) = s.discardUnannounced p := if_neg (by simp [h])
theorem judge_fader_down (h : (s.port p).up = false) (f : Nat) (pos : BitVec 10) (t : Bool) :
    State.judgeMessage p s (some (.fader f pos t)) = s.discardUnannounced p := if_neg (by simp [h])
theorem judge_encoder_down (h : (s.port p).up = false) (e : Nat) (x : Byte) :
    State.judgeMessage p s (some (.encoder e x)) = s.discardUnannounced p := if_neg (by simp [h])
theorem judge_idle_down (h : (s.port p).up = false) :
    State.judgeMessage p s (some .idle) = s.discardUnannounced p := if_neg (by simp [h])

theorem judge_buttons_up (h : (s.port p).up = true) (g : Nat) (x : Byte) : State.judgeMessage p s (some (.buttons g x)) =
    s.takeIndexed p g (s.port p).announced.groups (fun i => s.takeButtons p i x) := if_pos h
theorem judge_fader_up (h : (s.port p).up = true) (f : Nat) (pos : BitVec 10) (t : Bool) :
    State.judgeMessage p s (some (.fader f pos t)) =
      s.takeIndexed p f (s.port p).announced.faders (fun i => s.takeFader p i pos t) := if_pos h
theorem judge_encoder_up (h : (s.port p).up = true) (e : Nat) (x : Byte) : State.judgeMessage p s (some (.encoder e x)) =
    s.takeIndexed p e (s.port p).announced.encoders (fun i => s.takeEncoder p i x) := if_pos h
theorem judge_idle_up (h : (s.port p).up = true) :
    State.judgeMessage p s (some .idle) = s.putPort p ((s.port p).take s.mclk) := if_pos h

/-! ## A report on a port whose message is still open (R124, R202) -/

theorem elapse_messageEnded (s : State) (p : Fin 2) (n : Nat) :
    (s.elapse n).messageEnded p = (s.messageEnded p).elapse n := rfl

/-- The row of a report ends the open message first, and goes on as where none is open. -/
theorem powered_framed_of_open {dt : Nat} (h : s.phase ≠ .held) (hh : (s.port p).heard (s.mclk + dt))
    (ho : (s.port p).incoming ≠ []) (k : Byte) (rest : List Byte) :
    powered (s.elapse dt) (fun s => s.surfaceMessage p (framed (k :: rest))) =
      powered ((s.messageEnded p).elapse dt) (fun s => s.surfaceMessage p (framed (k :: rest))) := by
  rw [powered_of_not_held (s := s.elapse dt) h, powered_of_not_held (s := (s.messageEnded p).elapse dt) h,
    surfaceMessage_framed_of_open (s := s.elapse dt) hh ho, elapse_messageEnded]

/-! ## Rows that are no whole report (R124, log 26) -/

variable {k : Byte} {n : Nat}

theorem receive_unknown (ho : (s.port p).incoming = []) (hk : reportLength k = none) (rest : List Byte) :
    s.receive p (⟨true, k⟩ :: unframed rest) = s.discardMalformed p := by
  unfold State.receive
  rw [ho, assemble_kind_unknown hk]
  exact congrArg (State.discardMalformed · p) (setPort_incoming_same ho)

theorem receive_short {rest : List Byte} (ho : (s.port p).incoming = []) (hk : reportLength k = some n)
    (hn : rest.length + 1 < n) :
    s.receive p (⟨true, k⟩ :: unframed rest) = s.setPort p { s.port p with incoming := k :: rest } := by
  unfold State.receive
  rw [ho, assemble_kind_short hk hn]
  rfl

/-- A framed kind byte ends a message that is short. -/
theorem receive_short_ended {rest : List Byte} {j : Byte} {m : Nat} (ho : (s.port p).incoming = [])
    (hk : reportLength k = some n) (hn : rest.length + 1 < n) (hj : reportLength j = some m) :
    s.receive p (⟨true, k⟩ :: unframed rest ++ [⟨true, j⟩]) = s.setPort p { s.port p with
      incoming := [j],
      counters := { (s.port p).counters with malformed := satInc (s.port p).counters.malformed } } := by
  unfold State.receive
  rw [ho, assemble_append, assemble_kind_short hk hn]
  simp only [assemble, assembleByte_kind _ hj, List.nil_append, List.append_nil, List.isEmpty_cons, Bool.false_eq_true,
    if_false, List.foldl_cons, List.foldl_nil, State.judgeMessage, State.discardMalformed, State.port_setPort_self,
    State.setPort_setPort]

/-- A message whose sum is wrong is malformed at its last byte. -/
theorem receive_last_malformed {rest more : List Byte} (ho : (s.port p).incoming = k :: rest)
    (hk : reportLength k = some n) (hn : rest.length + 1 + more.length = n) (hm : more ≠ [])
    (hs : byteSum (k :: rest ++ more) ≠ 0) :
    s.receive p (unframed more) = s.messageEnded p := by
  have bad : parseReport (k :: rest ++ more) = none := by
    rw [List.cons_append, parseReport_whole hk (by rw [List.length_append]; omega)]
    exact if_neg hs
  unfold State.receive
  rw [ho, assemble_unframed_last hk hm hn, bad]
  simp only [List.foldl_cons, List.foldl_nil, State.judgeMessage, State.discardMalformed, State.port_setPort_self,
    State.setPort_setPort, State.messageEnded]

/-- R202: the kinds 1 to 5 are reports. -/
theorem reportLength_isSome {j : Byte} (h1 : 1 ≤ j.toNat) (h5 : j.toNat ≤ 5) : ∃ m, reportLength j = some m := by
  unfold reportLength
  have kinds : j.toNat = 1 ∨ j.toNat = 2 ∨ j.toNat = 3 ∨ j.toNat = 4 ∨ j.toNat = 5 := by omega
  rcases kinds with h | h | h | h | h <;> rw [h] <;> exact ⟨_, rfl⟩

end Sys2Proof.Machine

namespace Sys2Proof.Proofs

open Sys2Proof.Machine

/-- Settles O56: each report is parsed, and discarded by what is wrong with it; an open message goes by its length. -/
theorem discardedReportsAreOnlyCounted : Obligations.DiscardedReportsAreOnlyCounted := by
  refine ⟨fun s p dt h hh ho => ?_, fun s p dt a b c d ck h hh ho => ?_, fun s p k rest n h hh => ?_⟩
  · intro s0 x malformed unannounced discarded a b c d ck
    have announce := exec_announce h hh ho a b c d ck
    have buttons := exec_buttons h hh ho a b ck
    have fader := exec_faderReport h hh ho a b c ck
    have encoder := exec_encoderReport h hh ho a b ck
    have idle := exec_idleReport h hh ho ck
    rw [parseReport_announce] at announce
    rw [parseReport_buttons] at buttons
    rw [parseReport_fader] at fader
    rw [parseReport_encoder] at encoder
    rw [parseReport_idle] at idle
    refine ⟨fun bad => ?_, fun bad => ?_, fun bad => ?_, fun bad => ?_, fun bad => ?_, fun down sum => ?_,
      fun down sum clear => ?_, fun down sum low high => ?_, fun down sum => ?_, fun up sum beyond => ?_,
      fun up sum clear beyond => ?_, fun up sum low high beyond => ?_⟩
    · rw [announce, if_neg]; rfl
      rintro ⟨sum, counts⟩
      rcases bad with bad | bad
      · exact bad sum
      · omega
    · rw [buttons, if_neg bad]; rfl
    · rw [fader, if_neg]; rfl
      rintro ⟨sum, bits⟩
      rcases bad with bad | ⟨k, h2, h7, set⟩
      · exact bad sum
      · rw [(positionBits_clear c).1 bits k h2 h7] at set; cases set
    · rw [encoder, if_neg]; rfl
      rintro ⟨sum, range⟩
      rcases bad with bad | bad
      · exact bad sum
      · omega
    · rw [idle, if_neg bad]; rfl
    · rw [buttons, if_pos sum, judge_buttons_down (s := s.elapse dt) down]; rfl
    · rw [fader, if_pos ⟨sum, (positionBits_clear c).2 clear⟩, judge_fader_down (s := s.elapse dt) down]; rfl
    · rw [encoder, if_pos ⟨sum, low, high⟩, judge_encoder_down (s := s.elapse dt) down]; rfl
    · rw [idle, if_pos sum, judge_idle_down (s := s.elapse dt) down]; rfl
    · rw [buttons, if_pos sum, judge_buttons_up (s := s.elapse dt) up]
      exact congrArg _ (takeIndexed_beyond beyond _)
    · rw [fader, if_pos ⟨sum, (positionBits_clear c).2 clear⟩, judge_fader_up (s := s.elapse dt) up]
      exact congrArg _ (takeIndexed_beyond beyond _)
    · rw [encoder, if_pos ⟨sum, low, high⟩, judge_encoder_up (s := s.elapse dt) up]
      exact congrArg _ (takeIndexed_beyond beyond _)
  · have row (k : Byte) (rest : List Byte) := powered_framed_of_open h hh ho k rest
    exact ⟨row 1 _, row 2 _, row 3 _, row 4 _, row 5 _⟩
  · intro x named row body counters
    have receives (bytes : List SurfaceByte) : row bytes = .next (s.receive p bytes) :=
      exec_malformedSurfaceMessage h hh bytes
    have length : reportLength k = named := rfl
    refine ⟨fun ho unknown => ?_, fun ho known short => ⟨?_, fun j low high => ?_⟩, fun more ho known last hm sum => ?_⟩
    · exact (receives _).trans (congrArg _ (receive_unknown ho unknown rest))
    · exact (receives _).trans (congrArg _ (receive_short ho known short))
    · obtain ⟨m, hj⟩ := reportLength_isSome low high
      exact (receives _).trans (congrArg _ (receive_short_ended ho known short hj))
    · exact (receives _).trans (congrArg _ (receive_last_malformed ho known (by omega) hm sum))

end Sys2Proof.Proofs
end

-- ==== Proofs of the family 07: links ====
section
/-! Links that come up and go down (R126 to R128). -/

namespace Sys2Proof.Machine

variable {s : State} {p : Fin 2}

/-! ## The dirty set at an ANNOUNCE (R126, R127, R129) -/

/-- The TARGET marks on the motors of `l` that `drive` names. -/
def Port.markTargets (x : Port) (drive : Fin 16 → Bool) (l : List (Fin 16)) : Port :=
  l.foldl (fun y i => if drive i then y.mark (motorItem i) .target else y) x

theorem markTargets_frame (drive : Fin 16 → Bool) : ∀ (l : List (Fin 16)) (x : Port),
    x.markTargets drive l = { x with dirty := (x.markTargets drive l).dirty }
  | [], _ => rfl
  | i :: l, x => by
    have step : x.markTargets drive (i :: l) =
        Port.markTargets (if drive i then x.mark (motorItem i) .target else x) drive l := rfl
    rw [step]
    split
    · rw [markTargets_frame drive l, mark_frame]
    · exact markTargets_frame drive l x

theorem markTargets_dirty (drive : Fin 16 → Bool) (k : Fin 48) : ∀ (l : List (Fin 16)) (x : Port),
    (x.markTargets drive l).dirty[k] =
      if x.up = true ∧ ∃ i ∈ l, drive i = true ∧ motorItem i = k then .target else x.dirty[k]
  | [], x => by simp [Port.markTargets]
  | i :: l, x => by
    have step : x.markTargets drive (i :: l) =
        Port.markTargets (if drive i then x.mark (motorItem i) .target else x) drive l := rfl
    rw [step]
    by_cases hi : drive i = true
    · rw [if_pos hi, markTargets_dirty drive k l, mark_up, mark_dirty]
      by_cases up : x.up = true <;> by_cases hk : motorItem i = k <;> simp [up, hk, hi]
    · rw [if_neg hi, markTargets_dirty drive k l]
      simp [hi]

/-- The DRIVEN motors below the announced count, which an ANNOUNCE marks (R126). -/
def Port.drives (x : Port) (i : Fin 16) : Bool := decide (i.val < x.announced.faders ∧ x.motors[i].state = .driven)

theorem greet_eq (x : Port) : x.greet =
    ({ x with welcome := true, roundRobin := 0 } : Port).restored.markTargets x.drives (indices 16) := by
  unfold Port.greet Port.markTargets Port.drives
  simp only [decide_eq_true_eq]
  rfl

theorem greet_frame (x : Port) : x.greet = { x with welcome := true, roundRobin := 0, dirty := x.greet.dirty } := by
  rw [greet_eq, markTargets_frame, restored_frame]

theorem greet_dirty_other (x : Port) {k : Fin 48} (h : ∀ i, motorItem i ≠ k) :
    x.greet.dirty[k] = ({ x with welcome := true, roundRobin := 0 } : Port).restored.dirty[k] := by
  rw [greet_eq, markTargets_dirty, if_neg fun ⟨_, i, _, _, e⟩ => h i e]

section Greeted
variable {x : Port} (up : x.up = true) (i : Fin 16)
include up

theorem greet_lamp : x.greet.dirty[lampItem i] = if i.val < x.announced.groups then .dirty else x.dirty[lampItem i] := by
  rw [greet_dirty_other x fun j => (lamp_ne_motor i j).symm, restored_lamp]
  simp only [up, true_and]

theorem greet_ladder :
    x.greet.dirty[ladderItem i] = if i.val < x.announced.ladders then .dirty else x.dirty[ladderItem i] := by
  rw [greet_dirty_other x fun j => (ladder_ne_motor i j).symm, restored_ladder]
  simp only [up, true_and]

theorem greet_motor : x.greet.dirty[motorItem i] = if x.drives i = true then .target else x.dirty[motorItem i] := by
  have one : (∃ j ∈ indices 16, x.drives j = true ∧ motorItem j = motorItem i) ↔ x.drives i = true :=
    ⟨fun ⟨j, _, hj, e⟩ => motorItem_inj e ▸ hj, fun hi => ⟨i, List.mem_finRange i, hi, rfl⟩⟩
  rw [greet_eq, markTargets_dirty, restored_motor, restored_frame]
  simp only [up, true_and, one]

end Greeted

theorem dropBeyond_lamp (x : Port) (n : Announced) (i : Fin 16) :
    (x.dropBeyond n).dirty[lampItem i] = if i.val < n.groups then x.dirty[lampItem i] else .clean := by
  simp [Port.dropBeyond, lampItem]

theorem dropBeyond_motor (x : Port) (n : Announced) (i : Fin 16) :
    (x.dropBeyond n).dirty[motorItem i] = if i.val < n.faders then x.dirty[motorItem i] else .clean := by
  simp [Port.dropBeyond, motorItem, show (3 * i.val + 1) % 3 = 1 by omega, show (3 * i.val + 1) / 3 = i.val by omega]

theorem dropBeyond_ladder (x : Port) (n : Announced) (i : Fin 16) :
    (x.dropBeyond n).dirty[ladderItem i] = if i.val < n.ladders then x.dirty[ladderItem i] else .clean := by
  simp [Port.dropBeyond, ladderItem, show (3 * i.val + 2) % 3 = 2 by omega, show (3 * i.val + 2) / 3 = i.val by omega]

theorem dropBeyond_motors (x : Port) (n : Announced) (i : Fin 16) :
    (x.dropBeyond n).motors[i] = if i.val < n.faders then x.motors[i] else ⟨.free, none⟩ := by
  simp [Port.dropBeyond]

theorem dropBeyond_faders (x : Port) (n : Announced) (i : Fin 16) : (x.dropBeyond n).faders[i] =
    if i.val < n.faders then x.faders[i] else { x.faders[i] with touched := false } := by
  simp [Port.dropBeyond]

/-- The port an ANNOUNCE of the counts `n` leaves before the draw. -/
def Port.announcedAs (x : Port) (n : Announced) : Port :=
  ({ (if x.up then x.dropBeyond n else x) with up := true, announced := n } : Port).greet

theorem announcedAs_frame (x : Port) (n : Announced) : x.announcedAs n = { x with
    up := true, announced := n, welcome := true, roundRobin := 0, motors := (x.announcedAs n).motors,
    faders := (x.announcedAs n).faders, dirty := (x.announcedAs n).dirty } := by
  unfold Port.announcedAs
  rw [greet_frame]
  split <;> rfl

section AnnouncedAs
variable (x : Port) (n : Announced) (i : Fin 16)

theorem announcedAs_motors :
    (x.announcedAs n).motors[i] = if x.up = true ∧ n.faders ≤ i.val then ⟨.free, none⟩ else x.motors[i] := by
  unfold Port.announcedAs
  rw [greet_frame]
  by_cases up : x.up = true <;> by_cases h : i.val < n.faders <;>
    simp only [up, h, dropBeyond_motors, ← Nat.not_lt, if_true, if_false, not_true, not_false_eq_true, and_true,
      and_false] <;> rfl

theorem announcedAs_faders : (x.announcedAs n).faders[i] =
    if x.up = true ∧ n.faders ≤ i.val then { x.faders[i] with touched := false } else x.faders[i] := by
  unfold Port.announcedAs
  rw [greet_frame]
  by_cases up : x.up = true <;> by_cases h : i.val < n.faders <;>
    simp only [up, h, dropBeyond_faders, ← Nat.not_lt, if_true, if_false, not_true, not_false_eq_true, and_true,
      and_false] <;> rfl

theorem announcedAs_lamp : (x.announcedAs n).dirty[lampItem i] =
    if i.val < n.groups then .dirty else if x.up then .clean else x.dirty[lampItem i] := by
  unfold Port.announcedAs
  rw [greet_lamp rfl]
  by_cases up : x.up = true <;> by_cases h : i.val < n.groups <;>
    simp only [h, up, if_true, if_false, dropBeyond_lamp]
  rfl

theorem announcedAs_ladder : (x.announcedAs n).dirty[ladderItem i] =
    if i.val < n.ladders then .dirty else if x.up then .clean else x.dirty[ladderItem i] := by
  unfold Port.announcedAs
  rw [greet_ladder rfl]
  by_cases up : x.up = true <;> by_cases h : i.val < n.ladders <;>
    simp only [h, up, if_true, if_false, dropBeyond_ladder]
  rfl

theorem announcedAs_motor : (x.announcedAs n).dirty[motorItem i] =
    if i.val < n.faders then (if x.motors[i].state = .driven then .target else x.dirty[motorItem i])
      else if x.up then .clean else x.dirty[motorItem i] := by
  unfold Port.announcedAs
  rw [greet_motor rfl]
  by_cases up : x.up = true <;> by_cases h : i.val < n.faders <;>
    simp only [Port.drives, decide_eq_true_eq, h, up, true_and, false_and, if_true, if_false, dropBeyond_motor,
      dropBeyond_motors] <;> rfl

end AnnouncedAs

/-! ## Silence that has run out (R128) -/

theorem silent_of_since {n t : Nat} (up : (s.port p).up = true) (since : (s.port p).silence = some t) :
    s.silent p n = decide (t + n ≤ s.mclk) := by
  simp only [State.silent, since, up, Bool.true_and]

theorem exec_surfaceSilenceTimeout {dt t : Nat} (h : s.phase ≠ .held) (up : (s.port p).up = true)
    (since : (s.port p).silence = some t) : exec (.surfaceSilenceTimeout p dt) s =
      .next (if t + Config.silenceLimit ≤ s.mclk + dt then (s.elapse dt).goDown p else s.elapse dt) := by
  have row : exec (.surfaceSilenceTimeout p dt) s =
      .next (if (s.elapse dt).silent p Config.silenceLimit then (s.elapse dt).goDown p else s.elapse dt) :=
    powered_of_not_held (s := s.elapse dt) h (fun s => if s.silent p Config.silenceLimit then s.goDown p else s)
  rw [row, silent_of_since (s := s.elapse dt) up since]
  exact congrArg _ (if_congr (decide_eq_true_iff ..) rfl rfl)

end Sys2Proof.Machine

namespace Sys2Proof.Proofs

open Sys2Proof.Machine

/-- Settles O53: an ANNOUNCE taken mark by mark, and a silence that has or has not run out. -/
theorem linksComeUpAndGoDown : Obligations.LinksComeUpAndGoDown := by
  refine ⟨fun s p f g e l ck dt h sum hf hg he hl hh ho => ?_, fun s p dt t0 h up since => ⟨fun out => ?_, fun runs => ?_⟩⟩
  · intro s0 x
    refine ⟨(x.counted (s.mclk + dt)).announcedAs ⟨f.toNat, g.toNat, e.toNat, l.toNat⟩, ?_, announcedAs_frame _ _,
      announcedAs_motors _ _, announcedAs_faders _ _, announcedAs_lamp _ _, announcedAs_ladder _ _,
      announcedAs_motor _ _⟩
    rw [exec_announce h hh ho, parseReport_announce, if_pos ⟨sum, hf, hg, he, hl⟩]
    rfl
  · rw [exec_surfaceSilenceTimeout h up since, Config.silenceLimit, if_pos out]; rfl
  · rw [exec_surfaceSilenceTimeout h up since, Config.silenceLimit, if_neg (Nat.not_le.2 runs)]; rfl

end Sys2Proof.Proofs
end

-- ==== Proofs of the family 07: reports that are taken ====
section
/-! The reports an UP port takes: buttons, encoders and faders (R125, R133 to R136, R139, R142). -/

namespace Sys2Proof.Machine

variable {s : State} {p : Fin 2}

/-! ## Reports below the announced counts (R125) -/

section
variable {i : Fin 16} {index : Nat} (up : (s.port p).up = true) (hi : index = i.val)
include up hi

theorem judge_buttons_taken (below : i.val < (s.port p).announced.groups) (x : Byte) :
    State.judgeMessage p s (some (.buttons index x)) = s.takeButtons p i x := by
  rw [judge_buttons_up up, takeIndexed_below hi below]

theorem judge_fader_taken (below : i.val < (s.port p).announced.faders) (pos : BitVec 10) (t : Bool) :
    State.judgeMessage p s (some (.fader index pos t)) = s.takeFader p i pos t := by
  rw [judge_fader_up up, takeIndexed_below hi below]

theorem judge_encoder_taken (below : i.val < (s.port p).announced.encoders) (x : Byte) :
    State.judgeMessage p s (some (.encoder index x)) = s.takeEncoder p i x := by
  rw [judge_encoder_up up, takeIndexed_below hi below]

end

/-! ## Groups (R133) and encoders (R139) -/

theorem groupConforms_eq (states : Byte) (m : GroupMirror) : groupConforms states m =
    decide (∀ b : Fin 8, m.select.getLsbD b = true → states.getLsbD b = m.reference.getLsbD b) := by
  rw [Bool.eq_iff_iff, decide_eq_true_iff, groupConforms, beq_iff_eq]
  constructor
  · intro none b selected
    have bit := congrArg (fun w : Byte => w.getLsbD b) none
    have apart : (states.getLsbD b ^^ m.reference.getLsbD b) = false := by
      simpa only [BitVec.getLsbD_and, BitVec.getLsbD_xor, selected, Bool.and_true, BitVec.ofNat_eq_ofNat,
        BitVec.getLsbD_zero] using bit
    simpa using apart
  · intro same
    refine BitVec.eq_of_getLsbD_eq fun b hb => ?_
    have bit := same ⟨b, hb⟩
    by_cases selected : m.select.getLsbD b = true
    · simp [bit selected]
    · simp [selected]

theorem takeButtons_same {g : Fin 16} {states : Byte} (h : states = (s.port p).buttons[g]) :
    s.takeButtons p g states = s.putPort p ((s.port p).take s.mclk) := if_pos h.symm

theorem takeButtons_changed {g : Fin 16} {states : Byte} {conforms : Bool} (h : states ≠ (s.port p).buttons[g])
    (hc : groupConforms states (s.port p).mirrors.groups[g] = conforms) :
    s.takeButtons p g states =
      let x := (s.port p).take s.mclk
      let m := x.mirrors.groups[g]
      (s.putPort p { x with buttons := x.buttons.set g states, diverged := x.diverged.set g (!conforms) }).requestImage p
        (if conforms = false ∧ x.diverged[g] = false then
          [s.ofPort .buttonGroup p (fields [(0, g.val), (8, states.toNat)])
            (fields [(0, m.reference.toNat), (8, m.select.toNat)]) false] else []) := by
  have now : ((s.port p).buttons.set g states)[g] = states := by simp
  refine (if_neg (Ne.symm h)).trans ?_
  subst hc
  simp only [Port.evalGroup, State.groupEvent, Port.take, now, Bool.and_eq_true, Bool.not_eq_true']
  rfl

theorem takeEncoder_still {e : Fin 16} : s.takeEncoder p e 0 = s.putPort p ((s.port p).take s.mclk) := rfl

theorem takeEncoder_moved {e : Fin 16} {delta : Byte} (h : delta ≠ 0) : s.takeEncoder p e delta =
    let x := (s.port p).take s.mclk
    let n := x.encoders[e] + delta.signExtend 16
    (s.putPort p { x with encoders := x.encoders.set e n }).requestImage p
      (if x.mirrors.notify.getLsbD e then
        [s.ofPort .encoderMoved p (fields [(0, e.val), (16, (delta.signExtend 16).toNat)]) (n.signExtend 32) false]
        else []) := if_neg h

end Sys2Proof.Machine

namespace Sys2Proof.Proofs

open Sys2Proof.Machine

/-- Settles O54: each report is parsed, found below the announced count, and taken. -/
theorem buttonsAndEncodersAreTaken : Obligations.ButtonsAndEncodersAreTaken := by
  refine ⟨fun s p i g states ck dt h up hh ho sum hg below => ?_, fun s p dt h up hh ho => ⟨fun ck sum => ?_,
    fun i e delta ck sum he low high below => ⟨fun still => ?_, fun moved => ?_⟩⟩⟩
  · intro s0 x m conforms y
    have run : exec (.buttons p g states ck dt) s = .next ((s.elapse dt).takeButtons p i states) := by
      rw [exec_buttons h hh ho, parseReport_buttons, if_pos sum,
        judge_buttons_taken (s := s.elapse dt) up hg below]
    refine ⟨fun same => ?_, fun changed => ?_⟩
    · rw [run, takeButtons_same (s := s.elapse dt) same]; rfl
    · rw [run, takeButtons_changed (s := s.elapse dt) changed (groupConforms_eq states m)]; rfl
  · rw [exec_idleReport h hh ho, parseReport_idle, if_pos sum, judge_idle_up (s := s.elapse dt) up]; rfl
  all_goals
    have run : exec (.encoderReport p e delta ck dt) s = .next ((s.elapse dt).takeEncoder p i delta) := by
      rw [exec_encoderReport h hh ho, parseReport_encoder, if_pos ⟨sum, low, high⟩,
        judge_encoder_taken (s := s.elapse dt) up he below]
  · subst still; rw [run, takeEncoder_still]; rfl
  · rw [run, takeEncoder_moved moved]; rfl

end Sys2Proof.Proofs
end

-- ==== Proofs of the family 07: FADER reports ====
section
/-! FADER reports: the position first, and then the touch (R134 to R136). -/

namespace Sys2Proof.Machine

variable {s : State} {p : Fin 2} {x : Port} {f : Fin 16}

/-! ## The position (R134, R135) -/

theorem moveFader_still {pos : BitVec 10} (h : pos = x.faders[f].position) : s.moveFader p x f pos = (x, []) :=
  if_pos h.symm

theorem moveFader_moved {pos : BitVec 10} (h : pos ≠ x.faders[f].position) : s.moveFader p x f pos =
    let w := x.mirrors.windows[f]
    ({ x with faders := x.faders.set f { x.faders[f] with position := pos, window := windowOf w pos } },
      if x.faders[f].window = .inside ∧ windowOf w pos = .outside then
        [s.ofPort .faderWindow p (fields [(0, f.val), (16, pos.toNat)]) (fields [(0, w.low.toNat), (16, w.high.toNat)]) false]
      else []) := by
  have now (a : Fader) : (x.faders.set f a)[f] = a := by simp
  refine (if_neg (Ne.symm h)).trans ?_
  simp only [Port.setWindowState, now, Vector.set_set]
  rfl

/-- What the position leaves of the fader and its motor: the touch, and the motors. -/
structure Moved (x a : Port) (f : Fin 16) (pos : BitVec 10) : Prop where
  up : a.up = x.up
  motors : a.motors = x.motors
  position : a.faders[f].position = pos
  touched : a.faders[f].touched = x.faders[f].touched

theorem moved_fader {a : Fader} (ht : a.touched = x.faders[f].touched) :
    Moved x { x with faders := x.faders.set f a } f a.position :=
  ⟨rfl, rfl, by simp, by simp [ht]⟩

/-! ## The motor at a touch and at a release (R136) -/

section
variable {m : Motor} (hm : x.motors[f] = m)
include hm

theorem motorTouched_free (h : m.state = .free) : x.motorTouched f = { x with motors := x.motors.set f ⟨.held, none⟩ } := by
  unfold Port.motorTouched; rw [hm, h]

theorem motorTouched_driven (up : x.up = true) (h : m.state = .driven) : x.motorTouched f =
    { x with motors := x.motors.set f ⟨.held, none⟩, dirty := x.dirty.set (motorItem f) .release } := by
  unfold Port.motorTouched; rw [hm, h]; exact if_pos up

theorem motorTouched_held (h : m.state = .held) : x.motorTouched f = x := by
  unfold Port.motorTouched; rw [hm, h]

theorem motorReleased_idle (h : m.state ≠ .held) : x.motorReleased f = (x, false) := by
  unfold Port.motorReleased; dsimp only; rw [hm]
  cases hs : m.state with
  | held => exact absurd hs h
  | free | driven => rfl

end

theorem motorReleased_target {t : BitVec 10} (hm : x.motors[f] = ⟨.held, some t⟩) (up : x.up = true) :
    x.motorReleased f = ({ x with
      motors := x.motors.set f ⟨.driven, some t⟩, dirty := x.dirty.set (motorItem f) .target }, true) := by
  unfold Port.motorReleased; dsimp only; rw [hm]; exact congrArg (·, true) (if_pos up)

theorem motorReleased_none (hm : x.motors[f] = ⟨.held, none⟩) :
    x.motorReleased f = ({ x with motors := x.motors.set f ⟨.free, none⟩ }, false) := by
  unfold Port.motorReleased; dsimp only; rw [hm]

/-! ## The touch (R134, R142) -/

/-- The port with the touch of fader `f` as reported. -/
def Port.touching (x : Port) (f : Fin 16) (touched : Bool) : Port :=
  { x with faders := x.faders.set f { x.faders[f] with touched := touched } }

theorem touchFader_same {touched : Bool} (h : x.faders[f].touched = touched) : s.touchFader p x f touched = (x, []) :=
  if_pos h

theorem touchFader_touch (h : x.faders[f].touched = false) {z : Port} (hz : (x.touching f true).motorTouched f = z) :
    s.touchFader p x f true = (z, [s.ofPort .faderTouch p (fields [(0, f.val), (16, x.faders[f].position.toNat)])
      (fields [(0, z.motors[f].state.code)]) false]) := by
  subst hz
  exact if_neg (by rw [h]; decide)

theorem touchFader_release (h : x.faders[f].touched = true) {z : Port × Bool}
    (hz : (x.touching f false).motorReleased f = z) :
    s.touchFader p x f false = (z.1, [s.ofPort .faderRelease p (fields [(0, f.val), (16, x.faders[f].position.toNat)])
      (fields [(0, z.1.motors[f].state.code)]) z.2]) := by
  subst hz
  exact if_neg (by rw [h]; decide)

/-! ## A FADER report taken (R134) -/

/-- A FADER report whose position or touch is new: what moves, what touches, and their events in that order. -/
theorem takeFader_changed {pos : BitVec 10} {touched : Bool} {a z : Port} {left told : List Event}
    (hne : ¬ ((s.port p).faders[f].position = pos ∧ (s.port p).faders[f].touched = touched))
    (ha : s.moveFader p ((s.port p).take s.mclk) f pos = (a, left)) (hz : s.touchFader p a f touched = (z, told)) :
    s.takeFader p f pos touched = (s.setPort p z.draw).requestImage p (left ++ told) := by
  unfold State.takeFader
  dsimp only
  rw [ha, hz]
  exact if_neg hne

theorem takeFader_same {pos : BitVec 10} {touched : Bool} (hp : pos = (s.port p).faders[f].position)
    (ht : touched = (s.port p).faders[f].touched) :
    s.takeFader p f pos touched = s.setPort p ((s.port p).take s.mclk).draw := by
  unfold State.takeFader
  dsimp only
  rw [moveFader_still (x := (s.port p).take s.mclk) hp, touchFader_same (x := (s.port p).take s.mclk) ht.symm]
  exact if_pos ⟨hp.symm, ht.symm⟩

end Sys2Proof.Machine

namespace Sys2Proof.Proofs

open Sys2Proof.Machine

/-- Settles O55: what the position leaves is what the touch acts on, by the motor's state. -/
theorem faderReportsActOnPositionThenTouch : Obligations.FaderReportsActOnPositionThenTouch := by
  intro s p i f lo hi ck dt h up hh ho sum hf clear below s0 x old pos touched w judged a left b motor done run
  have taken : run = .next ((s.elapse dt).takeFader p i pos touched) := by
    show exec _ s = _
    rw [exec_faderReport h hh ho, parseReport_fader, if_pos ⟨sum, (positionBits_clear hi).2 clear⟩,
      judge_fader_taken (s := s.elapse dt) up hf below]
  have moves : (s.elapse dt).moveFader p x i pos = (a, left) := by
    by_cases hp : pos = old.position
    · rw [moveFader_still hp]
      exact Prod.ext (if_pos hp).symm (if_neg fun ⟨hne, _⟩ => hne hp).symm
    · rw [moveFader_moved hp]
      exact Prod.ext (if_neg hp).symm (if_congr ⟨fun h => ⟨hp, h⟩, And.right⟩ rfl rfl)
  have moved : Moved x a i pos := by
    by_cases hp : pos = old.position
    · rw [show a = x from if_pos hp]
      exact ⟨rfl, rfl, hp.symm, rfl⟩
    · rw [show a = _ from if_neg hp]
      exact moved_fader (a := { old with position := pos, window := judged }) rfl
  have upper : b.up = true := moved.up.trans up
  have motors : b.motors[i] = motor := congrArg (·[i]) moved.motors
  have touching : a.touching i touched = b := rfl
  have here (m : Motor) : (b.motors.set i m)[i] = m := by simp
  have changed {z : Port} {told : List Event} (hne : ¬ (old.position = pos ∧ old.touched = touched))
      (hz : (s.elapse dt).touchFader p a i touched = (z, told)) :
      run = .next ((s0.setPort p z.draw).requestImage p (left ++ told)) :=
    taken.trans (congrArg _ (takeFader_changed (s := s.elapse dt) hne moves hz))
  refine ⟨fun ht hp => ?_, fun ht hp => ?_, fun on off => ?_, fun off on => ?_⟩
  · exact taken.trans (congrArg _ (takeFader_same (s := s.elapse dt) hp ht))
  · have e := changed (fun ⟨e, _⟩ => hp e.symm) (touchFader_same (moved.touched.trans ht.symm))
    rwa [List.append_nil] at e
  · have touch {z : Port} (hz : b.motorTouched i = z) (hc : z.motors[i].state = .held) :
        run = .next (done z .faderTouch 2 false) := by
      rw [on] at touching
      have e := touchFader_touch (s := s.elapse dt) (p := p) (moved.touched.trans off) (touching ▸ hz)
      rw [hc, moved.position] at e
      exact changed (fun ⟨_, e⟩ => by rw [off, on] at e; cases e) (on ▸ e)
    refine ⟨fun free => ?_, fun driven => ?_, fun held => ?_⟩
    · exact touch (motorTouched_free motors free) (congrArg _ (here _))
    · exact touch (motorTouched_driven motors upper driven) (congrArg _ (here _))
    · exact touch (motorTouched_held motors held) (motors ▸ held)
  · have release {z : Port} {sent : Bool} {n : Nat} (hz : b.motorReleased i = (z, sent)) (hc : z.motors[i].state.code = n) :
        run = .next (done z .faderRelease n sent) := by
      rw [off] at touching
      have e := touchFader_release (s := s.elapse dt) (p := p) (moved.touched.trans on) (touching ▸ hz)
      rw [hc, moved.position] at e
      exact changed (fun ⟨_, e⟩ => by rw [off, on] at e; cases e) (off ▸ e)
    refine ⟨fun t held => ?_, fun held => ?_, fun free => ?_, fun driven => ?_⟩
    · exact release (motorReleased_target (motors.trans held) upper) (congrArg (·.state.code) (here _))
    · exact release (motorReleased_none (motors.trans held)) (congrArg (·.state.code) (here _))
    · exact release (motorReleased_idle motors (by rw [free]; decide)) (by rw [motors, free]; rfl)
    · exact release (motorReleased_idle motors (by rw [driven]; decide)) (by rw [motors, driven]; rfl)

end Sys2Proof.Proofs
end

-- ==== Proofs of the family 07: the motor cues ====
section
/-! MOTOR_TARGET and MOTOR_FREE (R129, R136, R137). -/

namespace Sys2Proof.Machine

variable {s : State} {p : Fin 2} {f : Fin 16} {c : CueBody}

/-! ## A motor cue at its owner (R137) -/

/-- The image is written where a motor changed. -/
theorem applyMotor_eq (s : State) (p : Fin 2) (y : Port) : s.applyMotor p y =
    if y.motors = (s.port p).motors then s.setPort p y.draw else (s.setPort p y.draw).requestImage p [] := by
  unfold State.applyMotor State.putPort
  exact ite_not ..

theorem applyMotor_same {x : Port} (h : x.motors = (s.port p).motors) : s.applyMotor p x = s.setPort p x.draw :=
  (applyMotor_eq s p x).trans (if_pos h)

section Owner
variable (hp : c.arg0.toNat = p.val) (act : Port → Fin 16 → Port)
include hp

theorem portOf_of_val : portOf c.arg0 = some p := by
  simp only [portOf, hp, p.isLt, dif_pos]

theorem motorCue_down (h : (s.port p).up = false) : s.motorCue c act = .refused s .portDown := by
  unfold State.motorCue
  rw [portOf_of_val hp]
  exact if_pos h

variable (up : (s.port p).up = true) (hf : c.arg1.toNat = f.val)
include up hf

theorem motorCue_up : s.motorCue c act =
    if f.val < (s.port p).announced.faders then .done (s.applyMotor p (act (s.port p) f)) else .refused s .badTarget := by
  unfold State.motorCue
  rw [portOf_of_val hp]
  dsimp only
  rw [if_neg (by simp [up]), indexOf_of_val hf]

theorem motorCue_announced (h : f.val < (s.port p).announced.faders) :
    s.motorCue c act = .done (s.applyMotor p (act (s.port p) f)) := (motorCue_up hp act up hf).trans (if_pos h)

theorem motorCue_unannounced (h : (s.port p).announced.faders ≤ f.val) : s.motorCue c act = .refused s .badTarget :=
  (motorCue_up hp act up hf).trans (if_neg (Nat.not_lt.2 h))

end Owner

/-! ## The motor at a cue (R136) -/

section Motor
variable {x : Port} {pos : BitVec 10}

theorem motorTo_waits (h : x.motors[f].state = .held ∨ (x.motors[f].state = .free ∧ x.faders[f].touched = true)) :
    x.motorTo f pos = { x with motors := x.motors.set f ⟨.held, some pos⟩ } := if_pos h

theorem motorTo_drives (up : x.up = true)
    (h : x.motors[f].state = .driven ∨ (x.motors[f].state = .free ∧ x.faders[f].touched = false)) :
    x.motorTo f pos =
      { x with motors := x.motors.set f ⟨.driven, some pos⟩, dirty := x.dirty.set (motorItem f) .target } := by
  have drives : ¬ (x.motors[f].state = .held ∨ (x.motors[f].state = .free ∧ x.faders[f].touched = true)) := by
    rcases h with h | ⟨h, off⟩
    · simp only [h, reduceCtorEq, false_and, or_self, not_false_eq_true]
    · simp only [h, off]; decide
  exact (if_neg drives).trans (if_pos up)

theorem motorFree_free (h : x.motors[f].state = .free) : x.motorFree f = x := if_pos h

theorem motorFree_releases (up : x.up = true) (h : x.motors[f].state = .driven ∨ x.motors[f].state = .held) :
    x.motorFree f = { x with motors := x.motors.set f ⟨.free, none⟩, dirty := x.dirty.set (motorItem f) .release } := by
  have busy : x.motors[f].state ≠ .free := by rcases h with h | h <;> rw [h] <;> decide
  exact (if_neg busy).trans (if_pos up)

end Motor

/-! ## The rows -/

section Rows
variable {t : State} {r : Reason} (hh : s.phase ≠ .held) (hd : s.dueNow c)
include hh hd

theorem exec_motorTarget_done (h : s.motorCue c (fun x f => x.motorTo f (c.arg2.extractLsb' 0 10)) = .done t) :
    exec (.motorTarget c) s = .next (s.afterCue t ⟨.motorTarget, c⟩ none) :=
  (exec_verbRow_now (v := .motorTarget) (by simp) (by simp) 0 hh hd).trans (congrArg _ (applyCue_of_done rfl h))

theorem exec_motorTarget_refused
    (h : s.motorCue c (fun x f => x.motorTo f (c.arg2.extractLsb' 0 10)) = .refused t r) :
    exec (.motorTarget c) s = .next (s.afterCue t ⟨.motorTarget, c⟩ (some r)) :=
  (exec_verbRow_now (v := .motorTarget) (by simp) (by simp) 0 hh hd).trans (congrArg _ (applyCue_of_refused rfl h))

theorem exec_motorFree_done (h : s.motorCue c Port.motorFree = .done t) :
    exec (.motorFree c) s = .next (s.afterCue t ⟨.motorFree, c⟩ none) :=
  (exec_verbRow_now (v := .motorFree) (by simp) (by simp) 0 hh hd).trans (congrArg _ (applyCue_of_done rfl h))

theorem exec_motorFree_refused (h : s.motorCue c Port.motorFree = .refused t r) :
    exec (.motorFree c) s = .next (s.afterCue t ⟨.motorFree, c⟩ (some r)) :=
  (exec_verbRow_now (v := .motorFree) (by simp) (by simp) 0 hh hd).trans (congrArg _ (applyCue_of_refused rfl h))

end Rows

end Sys2Proof.Machine

namespace Sys2Proof.Proofs

open Sys2Proof.Machine

/-- Settles O30: the owner's answer by the link and the announced count, and the port by the motor's state and the touch. -/
theorem motorCuesDriveTheMotor : Obligations.MotorCuesDriveTheMotor := by
  intro s c p f hh hd hp hf x pos held driven freed written
  have asks (y : Port) : s.applyMotor p y = written y := applyMotor_eq s p y
  refine ⟨fun up below => ?_, fun down => ?_, fun up beyond => ?_⟩
  · have target := exec_motorTarget_done hh hd (motorCue_announced hp _ up hf below)
    have free := exec_motorFree_done hh hd (motorCue_announced hp _ up hf below)
    rw [asks] at target free
    refine ⟨fun h => ?_, fun h => ?_, fun h => ?_, fun h => ?_⟩
    · rwa [motorTo_waits h] at target
    · rwa [motorTo_drives up h] at target
    · rwa [motorFree_releases up h] at free
    · rw [motorFree_free h, ← asks, applyMotor_same rfl] at free
      exact free
  · exact ⟨exec_motorTarget_refused hh hd (motorCue_down hp _ down), exec_motorFree_refused hh hd (motorCue_down hp _ down)⟩
  · exact ⟨exec_motorTarget_refused hh hd (motorCue_unannounced hp _ up hf beyond),
      exec_motorFree_refused hh hd (motorCue_unannounced hp _ up hf beyond)⟩

end Sys2Proof.Proofs
end

-- ==== Proofs of the family 07: the commands to a surface ====
section
/-! The draw of surface commands and their bytes (R124, R126, R129, R130, R136, R202). -/

namespace Sys2Proof.Machine

variable {s : State} {p : Fin 2} {x : Port}

/-! ## The draw (R129) -/

theorem draw_of_busy (h : x.up = false ∨ x.inFlight ≠ none) : x.draw = x :=
  if_pos (h.imp_right Option.isSome_iff_ne_none.2)

section Drawn
variable (up : x.up = true) (idle : x.inFlight = none)
include up idle

theorem draw_of_idle : x.draw = if x.welcome then { x with welcome := false, inFlight := some SurfaceCommand.welcome.bytes }
    else match (itemsFrom x.roundRobin).find? (fun i => x.dirty[i] != .clean) with
      | none => x
      | some item =>
        { x with dirty := x.dirty.set item .clean, roundRobin := item + 1, inFlight := some (x.command item).bytes } :=
  if_neg (by simp [up, idle])

theorem draw_welcome (h : x.welcome = true) :
    x.draw = { x with welcome := false, inFlight := some SurfaceCommand.welcome.bytes } :=
  (draw_of_idle up idle).trans (if_pos h)

variable (greeted : x.welcome = false)
include greeted

theorem draw_of_clean (h : ∀ k : Fin 48, x.dirty[k] = .clean) : x.draw = x := by
  have none : (itemsFrom x.roundRobin).find? (fun i => x.dirty[i] != .clean) = none :=
    List.find?_eq_none.2 fun k _ => by simp only [h, bne_self_eq_false, Bool.false_eq_true, not_false_eq_true]
  rw [draw_of_idle up idle, if_neg (by simp [greeted]), none]

theorem draw_of_found {k : Fin 48} (h : (itemsFrom x.roundRobin).find? (fun i => x.dirty[i] != .clean) = some k) :
    x.draw = { x with dirty := x.dirty.set k .clean, roundRobin := k + 1, inFlight := some (x.command k).bytes } := by
  rw [draw_of_idle up idle, if_neg (by simp [greeted]), h]

end Drawn

/-- The first item of the round robin of which `q` holds. -/
theorem find?_itemsFrom {q : Fin 48 → Bool} {r j : Fin 48} (hj : q (r + j) = true) (before : ∀ m, m < j → q (r + m) = false) :
    (itemsFrom r).find? q = some (r + j) := by
  refine List.find?_eq_some_iff_getElem.2 ⟨hj, j.val, by simp [itemsFrom, indices], ?_, fun m hm => ?_⟩
  · simp [itemsFrom, indices, add_comm]
  · have small : m < 48 := hm.trans j.isLt
    simpa [itemsFrom, indices, add_comm] using before ⟨m, small⟩ hm

/-! ## The command of an item (R129, R140) -/

theorem command_eq (x : Port) {k : Fin 48} {i : Fin 16} (h : k.val / 3 = i.val) : x.command k =
    if k.val % 3 = 0 then .lampRow i.val x.mirrors.lamps[i]
    else if k.val % 3 = 2 then .ladder i.val x.ladders[i]
    else match x.dirty[k], x.motors[i].target with
      | .target, some t => .motor i.val t
      | _, _ => .motorRelease i.val := by
  obtain rfl : i = ⟨k.val / 3, Nat.div_lt_of_lt_mul k.isLt⟩ := Fin.ext h.symm
  rfl

theorem command_lamp (x : Port) (i : Fin 16) : x.command (lampItem i) = .lampRow i.val x.mirrors.lamps[i] := by
  rw [command_eq x (i := i) (by simp [lampItem]), if_pos (by simp [lampItem])]

theorem command_ladder (x : Port) (i : Fin 16) : x.command (ladderItem i) = .ladder i.val x.ladders[i] := by
  rw [command_eq x (i := i) (by simp only [ladderItem]; omega), if_neg (by simp only [ladderItem]; omega),
    if_pos (by simp only [ladderItem]; omega)]

theorem command_motor (x : Port) (i : Fin 16) : x.command (motorItem i) =
    match x.dirty[motorItem i], x.motors[i].target with
    | .target, some t => .motor i.val t
    | _, _ => .motorRelease i.val := by
  rw [command_eq x (i := i) (by simp only [motorItem]; omega), if_neg (by simp only [motorItem]; omega),
    if_neg (by simp only [motorItem]; omega)]

theorem command_target {i : Fin 16} {t : BitVec 10} (hd : x.dirty[motorItem i] = .target) (ht : x.motors[i].target = some t) :
    x.command (motorItem i) = .motor i.val t := by rw [command_motor, hd, ht]

theorem command_release {i : Fin 16} (hd : x.dirty[motorItem i] = .release) :
    x.command (motorItem i) = .motorRelease i.val := by rw [command_motor, hd]

/-- The items of one index, in round-robin order. -/
theorem item_cases (k : Fin 48) : ∃ i : Fin 16, k = lampItem i ∨ k = motorItem i ∨ k = ladderItem i := by
  refine ⟨⟨k.val / 3, by omega⟩, ?_⟩
  simp only [lampItem, motorItem, ladderItem, Fin.ext_iff]
  omega

/-- R136: a MOTOR command is drawn for a motor whose TARGET is pending. -/
theorem command_motor_pending {k : Fin 48} {f : Fin 16} {t : BitVec 10} (h : x.command k = .motor f.val t) :
    x.dirty[motorItem f] = .target := by
  obtain ⟨i, rfl | rfl | rfl⟩ := item_cases k
  · rw [command_lamp] at h; cases h
  · rw [command_motor] at h
    split at h
    · next hd _ =>
      injection h with hi _
      exact Fin.ext hi ▸ hd
    · cases h
  · rw [command_ladder] at h; cases h

/-! ## The bytes of a command (R124, R202) -/

theorem byteSum_withChecksum (l : List Byte) : byteSum (withChecksum l) = 0 := by
  rw [byteSum, withChecksum, List.foldl_append]
  show byteSum l + (0 - byteSum l) = 0
  rw [zero_sub, add_neg_cancel]

theorem map_value_framed : ∀ l : List Byte, (framed l).map (·.value) = l
  | [] => rfl
  | k :: rest => by simp [framed, Function.comp_def]

/-- A command is sent as its fields and the checksum. -/
theorem bytes_fields (c : SurfaceCommand) : (c.bytes.map (·.value)).dropLast = c.fields := by
  rw [SurfaceCommand.bytes, map_value_framed, withChecksum, List.dropLast_concat]

theorem bytes_framed (c : SurfaceCommand) : ∃ (k : Byte) (body : List Byte),
    c.bytes = ⟨true, k⟩ :: body.map (fun b => ⟨false, b⟩) ∧ (k :: body).foldl (· + ·) 0 = 0 := by
  obtain ⟨k, rest, hc⟩ : ∃ k rest, c.fields = k :: rest := by cases c <;> exact ⟨_, _, rfl⟩
  refine ⟨k, rest ++ [0 - byteSum c.fields], ?_, ?_⟩
  · rw [SurfaceCommand.bytes, withChecksum, hc]; rfl
  · show byteSum ((k :: rest) ++ [0 - byteSum c.fields]) = 0
    rw [← hc]
    exact byteSum_withChecksum _

/-! ## SURFACE_COMMAND_SENT (R130) -/

theorem exec_surfaceCommandSent (h : s.phase ≠ .held) : exec (.surfaceCommandSent p) s =
    .next (if (s.port p).inFlight.isSome then
      s.putPort p { s.port p with
        inFlight := none, counters := { (s.port p).counters with sent := (s.port p).counters.sent + 1 } } else s) :=
  powered_of_not_held h _

end Sys2Proof.Machine

namespace Sys2Proof.Proofs

open Sys2Proof.Machine

/-- Settles O57: the sent command, the draw by what it finds, the bytes, and the interlock at the draw. -/
theorem commandsAreDrawnInOrder : Obligations.CommandsAreDrawnInOrder := by
  refine ⟨⟨fun s p bytes h flying => ?_, fun s p idle => ?_, fun x => ⟨draw_of_busy, draw_welcome, draw_of_clean, ?_,
      fun i => ⟨command_lamp x i, command_ladder x i, fun t => command_target, command_release⟩⟩⟩,
    fun c i t states v => ⟨bytes_framed c, bytes_fields _, bytes_fields _, bytes_fields _, bytes_fields _⟩, ?_⟩
  · exact (exec_surfaceCommandSent h).trans (congrArg _ (if_pos (by rw [flying]; rfl)))
  · by_cases h : s.phase = .held
    · exact congrArg Host.Outcome.next (if_pos h)
    · exact (exec_surfaceCommandSent h).trans (congrArg _ (if_neg (by rw [idle]; decide)))
  · rintro k j rfl up idle greeted dirty before
    refine draw_of_found up idle greeted (find?_itemsFrom (bne_iff_ne.2 dirty) fun m hm => ?_)
    simp only [before m hm, bne_self_eq_false]
  · intro x i k t locked drawn
    exact locked.driven i (locked.target i (command_motor_pending drawn))

end Sys2Proof.Proofs
end

-- ==== Proofs of the family 07: the watched surface words ====
section
/-! What the watcher of each surface word leaves (R132, R133, R135, R140, R141). -/

namespace Sys2Proof.Machine

variable {s : State} {p : Fin 2} {i : Fin 16} {w : Word}

/-- R133: a group's word re-evaluates the group. -/
theorem groupWritten_eq {conforms : Bool}
    (hc : groupConforms (s.port p).buttons[i] ⟨w.byte 0, w.byte 1⟩ = conforms) : s.groupWritten p i w =
      let x := s.port p
      let y : Port := { x with
        mirrors := { x.mirrors with groups := x.mirrors.groups.set i ⟨w.byte 0, w.byte 1⟩ },
        diverged := x.diverged.set i (!conforms) }
      if (!conforms) = x.diverged[i] then s.setPort p y
      else (s.setPort p y).requestImage p (if !conforms && !x.diverged[i] then
        [s.ofPort .buttonGroup p (fields [(0, i.val), (8, x.buttons[i].toNat)])
          (fields [(0, (w.byte 0).toNat), (8, (w.byte 1).toNat)]) false] else []) := by
  have mirror (m : GroupMirror) : ((s.port p).mirrors.groups.set i m)[i] = m := by simp
  have flag (b : Bool) : ((s.port p).diverged.set i b)[i] = b := by simp
  subst hc
  unfold State.groupWritten
  simp only [Port.evalGroup, State.groupEvent, mirror, flag]
  rfl

/-- R135: a window's word sets the fader's window state again. -/
theorem windowWritten_eq (s : State) (p : Fin 2) (i : Fin 16) (w : Word) : s.windowWritten p i w =
    let x := s.port p
    let m : WindowMirror := ⟨w.extractLsb' 0 10, w.extractLsb' 16 10⟩
    let judged := windowOf m x.faders[i].position
    let v : Port := { x with
      mirrors := { x.mirrors with windows := x.mirrors.windows.set i m },
      faders := x.faders.set i { x.faders[i] with window := judged } }
    if judged = x.faders[i].window then s.setPort p v else (s.setPort p v).requestImage p [] := by
  have mirror (m : WindowMirror) : ((s.port p).mirrors.windows.set i m)[i] = m := by simp
  have fader (a : Fader) : ((s.port p).faders.set i a)[i] = a := by simp
  unfold State.windowWritten
  simp only [Port.setWindowState, mirror, fader]

/-- The lamp row's mirror taken from its word (R140). -/
def Port.lampSet (x : Port) (i : Fin 16) (states : Byte) : Port :=
  { x with mirrors := { x.mirrors with lamps := x.mirrors.lamps.set i states } }

theorem lampWritten_marked (up : (s.port p).up = true) (h : i.val < (s.port p).announced.groups) :
    s.lampWritten p i w =
      s.setPort p ({ (s.port p).lampSet i (w.byte 0) with dirty := (s.port p).dirty.set (lampItem i) .dirty } : Port).draw := by
  refine congrArg (fun y : Port => s.setPort p y.draw) ((if_pos h).trans ?_)
  exact if_pos up

theorem lampWritten_unmarked (h : (s.port p).up = false ∨ (s.port p).announced.groups ≤ i.val) :
    s.lampWritten p i w = s.setPort p ((s.port p).lampSet i (w.byte 0)).draw := by
  refine congrArg (fun y : Port => s.setPort p y.draw) ?_
  by_cases below : i.val < (s.port p).announced.groups
  · have down : (s.port p).up = false := h.resolve_right (Nat.not_le.2 below)
    exact (if_pos below).trans (if_neg (by simp [down]))
  · exact if_neg below

/-- The binding's mirror taken from its word (R141). -/
def Port.bindingSet (x : Port) (i : Fin 16) (b : Binding) : Port :=
  { x with mirrors := { x.mirrors with bindings := x.mirrors.bindings.set i b } }

theorem bindingWritten_kept
    (h : ¬ ((s.port p).mirrors.bindings[i].enable = true ∧ (Binding.ofWord w).enable = false)) :
    s.bindingWritten p i w = s.setPort p ((s.port p).bindingSet i (Binding.ofWord w)) := if_neg h

/-- A mark made below a count. -/
theorem mark_ite (z : Port) (below : Prop) [Decidable below] (k : Fin 48) (m : DirtyMark) :
    (if below then z.mark k m else z) = if z.up = true ∧ below then { z with dirty := z.dirty.set k m } else z := by
  by_cases h : below <;> simp [h, Port.mark]

/-- The binding cleared, its ladder at level 0 (R141). -/
def Port.bindingCleared (x : Port) (i : Fin 16) (b : Binding) : Port :=
  { x.bindingSet i b with ladders := x.ladders.set i 0 }

theorem bindingWritten_cleared (on : (s.port p).mirrors.bindings[i].enable = true) (off : (Binding.ofWord w).enable = false) :
    s.bindingWritten p i w =
      let x := s.port p
      let dark := x.bindingCleared i (Binding.ofWord w)
      let t := s.setPort p (if x.up = true ∧ i.val < x.announced.ladders then
        { dark with dirty := dark.dirty.set (ladderItem i) .dirty } else dark : Port).draw
      if x.ladders[i] = 0 then t else t.requestImage p [] := by
  have marked := mark_ite ((s.port p).bindingCleared i (Binding.ofWord w)) (i.val < (s.port p).announced.ladders)
    (ladderItem i) .dirty
  refine (if_pos ⟨on, off⟩).trans ?_
  exact congrArg (fun z : Port => if (s.port p).ladders[i] = 0 then s.setPort p z.draw
    else (s.setPort p z.draw).requestImage p []) marked

end Sys2Proof.Machine

namespace Sys2Proof.Proofs

open Sys2Proof.Machine

/-- Settles O58: word by word, the group's flag by what it was. -/
theorem surfaceWordsTakeEffect : Obligations.SurfaceWordsTakeEffect := by
  intro s p i w x ref sel conforms y low high judged v lamp marked b bound dark darkMarked
  have group := groupWritten_eq (s := s) (p := p) (i := i) (w := w) (conforms := conforms)
    (groupConforms_eq x.buttons[i] ⟨ref, sel⟩)
  refine ⟨fun same => ?_, fun agrees was => ?_, fun differs wasNot => ?_, windowWritten_eq s p i w,
    lampWritten_marked, lampWritten_unmarked, bindingWritten_kept, bindingWritten_cleared⟩
  · exact group.trans (if_pos same)
  · have none : (!conforms && !x.diverged[i]) = false := by rw [agrees]; rfl
    rw [group]
    dsimp only
    rw [if_neg (by rw [agrees, was]; decide), if_neg (by rw [none]; decide)]
    rfl
  · have told : (!conforms && !x.diverged[i]) = true := by rw [differs, wasNot]; rfl
    rw [group]
    dsimp only
    rw [if_neg (by rw [differs, wasNot]; decide), if_pos told]
    rfl

end Sys2Proof.Proofs
end

-- ==== Proofs of the family 07: the closing of a window ====
section
/-! Peaks, the closing of a lane's window, the ladders it is handed to, and threshold words (R141, R146 to R151, R200,
R201). -/

namespace Sys2Proof.Machine

variable {s : State} {l : Fin 8}

/-! ## Peaks (R146) -/

theorem magnitude_eq (w : Word) : magnitude w =
    let v : BitVec 24 := w.extractLsb' 8 24
    if v = 0x800000#24 then 0x7FFFFF#23 else BitVec.ofNat 23 v.toInt.natAbs := by
  unfold magnitude
  dsimp only
  generalize w.extractLsb' 8 24 = v
  have bound := v.isLt
  have int := BitVec.toInt_eq_msb_cond v
  split
  · next neg =>
    refine if_congr Iff.rfl rfl (BitVec.eq_of_toNat_eq ?_)
    rw [if_pos neg] at int
    have high := BitVec.msb_eq_true_iff_two_mul_ge.1 neg
    simp only [zero_sub, BitVec.toNat_setWidth, BitVec.toNat_neg, BitVec.toNat_ofNat]
    omega
  · next pos =>
    rw [if_neg pos] at int
    have least : v ≠ 0x800000#24 := fun e => pos (e ▸ by decide)
    rw [if_neg least]
    refine BitVec.eq_of_toNat_eq ?_
    rw [int, Int.natAbs_natCast, BitVec.toNat_setWidth, BitVec.toNat_ofNat]

/-- A peak raised to the magnitude of a slot word, where that is larger. -/
def raised (peak : BitVec 23) (w : Word) : BitVec 23 := if peak < magnitude w then magnitude w else peak

/-- The peaks after one slot word. -/
def takePeak (peaks : Vector (BitVec 23) 64) (n : Nat) (w : Word) : Vector (BitVec 23) 64 :=
  if h : n < 64 then (if peaks[n] < magnitude w then peaks.set n (magnitude w) else peaks) else peaks

theorem takePeak_get (peaks : Vector (BitVec 23) 64) (n : Nat) (w : Word) (i : Fin 64) :
    (takePeak peaks n w)[i] = if i.val = n then raised peaks[i] w else peaks[i] := by
  unfold takePeak raised
  split
  · next h =>
    by_cases hi : i.val = n
    · subst hi
      split <;> simp_all
    · rw [if_neg hi]
      split
      · simp [Ne.symm hi]
      · rfl
  · next h => rw [if_neg fun e : i.val = n => h (e ▸ i.isLt)]

theorem takePeaks_get (i : Fin 64) : ∀ (ws : List Word) (peaks : Vector (BitVec 23) 64) (n : Nat),
    (takePeaks peaks n ws)[i] = if i.val < n then peaks[i] else
      match ws[i.val - n]? with
      | none => peaks[i]
      | some w => raised peaks[i] w
  | [], peaks, n => by simp [takePeaks]
  | w :: ws, peaks, n => by
    have step : takePeaks peaks n (w :: ws) = takePeaks (takePeak peaks n w) (n + 1) ws := rfl
    rw [step, takePeaks_get i ws, takePeak_get]
    rcases Nat.lt_trichotomy i.val n with h | h | h
    · rw [if_pos (by omega), if_neg (by omega), if_pos h]
    · rw [if_pos (by omega), if_pos h, if_neg (by omega), show i.val - n = 0 by omega]
      rfl
    · rw [if_neg (by omega), if_neg (by omega), if_neg (by omega), show i.val - n = i.val - (n + 1) + 1 by omega,
        List.getElem?_cons_succ]

/-! ## Ladder levels (R150) -/

theorem ladderLevel_low {p : BitVec 23} (h : p.toNat < 256) : ladderLevel p = 0 := if_pos (by simpa [BitVec.lt_def] using h)

theorem ladderLevel_step {p : BitVec 23} {k : Nat} (h1 : 1 ≤ k) (low : 2 ^ (k + 7) ≤ p.toNat) (high : p.toNat < 2 ^ (k + 8)) :
    ladderLevel p = BitVec.ofNat 4 k := by
  have least : 2 ^ 8 ≤ p.toNat := (Nat.pow_le_pow_right (by decide) (by omega)).trans low
  have log : p.toNat.log2 = k + 7 := (Nat.log2_eq_iff (by omega)).2 ⟨low, high⟩
  unfold ladderLevel
  rw [if_neg (by simpa [BitVec.lt_def] using least), log, Nat.add_sub_cancel]

/-! ## Levels handed over (R141, R148 step 4, R150, log 44) -/

/-- The binding of ladder `i` takes the levels of lane `l`. -/
abbrev Port.takesLevel (x : Port) (l : Fin 8) (i : Fin 16) : Prop :=
  x.mirrors.bindings[i].enable = true ∧ x.mirrors.bindings[i].lane = l ∧ i.val < x.announced.ladders

/-- The level taken by ladder `i`, where its binding takes one. -/
def Port.handLevel (x : Port) (l : Fin 8) (level : Fin 64 → BitVec 4) (i : Fin 16) : Port :=
  if x.takesLevel l i then
    ({ x with ladders := x.ladders.set i (level x.mirrors.bindings[i].slot) } : Port).mark (ladderItem i) .dirty
  else x

/-- What handing the levels to the ladders of `is` makes of an UP port. -/
structure Handed (l : Fin 8) (level : Fin 64 → BitVec 4) (is : List (Fin 16)) (x y : Port) : Prop where
  rest : y = { x with ladders := y.ladders, dirty := y.dirty }
  ladders : ∀ i : Fin 16, y.ladders[i] =
    if i ∈ is ∧ x.takesLevel l i then level x.mirrors.bindings[i].slot else x.ladders[i]
  marks : ∀ i : Fin 16, y.dirty[ladderItem i] = if i ∈ is ∧ x.takesLevel l i then .dirty else x.dirty[ladderItem i]
  lamps : ∀ i : Fin 16, y.dirty[lampItem i] = x.dirty[lampItem i]
  motors : ∀ i : Fin 16, y.dirty[motorItem i] = x.dirty[motorItem i]

section
variable {level : Fin 64 → BitVec 4} {x y z : Port}

theorem handed_one (up : x.up = true) (i : Fin 16) : Handed l level [i] x (x.handLevel l level i) := by
  by_cases h : x.takesLevel l i
  · have e : x.handLevel l level i =
        ({ x with ladders := x.ladders.set i (level x.mirrors.bindings[i].slot) } : Port).mark (ladderItem i) .dirty :=
      if_pos h
    rw [e]
    refine ⟨by rw [mark_frame], fun f => ?_, fun f => ?_, fun f => ?_, fun f => ?_⟩
    · rw [mark_frame]
      by_cases hf : f = i
      · subst hf; rw [if_pos ⟨List.mem_singleton_self f, h⟩]; simp
      · have : i.val ≠ f.val := fun hv => hf (Fin.ext hv.symm)
        simp [hf, this]
    · rw [mark_dirty]
      by_cases hf : f = i
      · subst hf; rw [if_pos ⟨up, rfl⟩, if_pos ⟨List.mem_singleton_self f, h⟩]
      · have : ladderItem i ≠ ladderItem f := fun e => hf (ladderItem_inj e).symm
        simp only [this, hf, List.mem_singleton, and_false, false_and, if_false]
    · rw [mark_dirty, if_neg fun ⟨_, e⟩ => lamp_ne_ladder f i e.symm]
    · rw [mark_dirty, if_neg fun ⟨_, e⟩ => ladder_ne_motor i f e]
  · have e : x.handLevel l level i = x := if_neg h
    have none (f : Fin 16) : ¬ (f ∈ [i] ∧ x.takesLevel l f) := fun ⟨hf, ht⟩ => h (List.mem_singleton.1 hf ▸ ht)
    rw [e]
    exact ⟨rfl, fun f => (if_neg (none f)).symm, fun f => (if_neg (none f)).symm, fun _ => rfl, fun _ => rfl⟩

theorem ite_mem_append {α : Type} {is js : List (Fin 16)} {i : Fin 16} {P : Prop} [Decidable P] (a b : α) :
    (if i ∈ js ∧ P then a else if i ∈ is ∧ P then a else b) = if i ∈ is ++ js ∧ P then a else b := by
  by_cases h : P <;> by_cases hj : i ∈ js <;> simp [h, hj]

theorem Handed.trans {is js : List (Fin 16)} (a : Handed l level is x y) (b : Handed l level js y z) :
    Handed l level (is ++ js) x z := by
  have mirrors : y.mirrors = x.mirrors := by rw [a.rest]
  have same (i : Fin 16) : y.takesLevel l i = x.takesLevel l i := by rw [a.rest]
  refine ⟨by rw [b.rest, a.rest], fun i => ?_, fun i => ?_, fun i => (b.lamps i).trans (a.lamps i),
    fun i => (b.motors i).trans (a.motors i)⟩
  · rw [b.ladders, a.ladders, ← ite_mem_append]
    simp only [mirrors, same]
  · rw [b.marks, a.marks, ← ite_mem_append]
    simp only [same]

theorem handed_foldl : ∀ (is : List (Fin 16)) (x : Port), x.up = true →
    Handed l level is x (is.foldl (fun y i => y.handLevel l level i) x)
  | [], x, _ => ⟨rfl, fun i => by simp, fun i => by simp, fun _ => rfl, fun _ => rfl⟩
  | i :: is, x, up => by
    have one := handed_one (l := l) (level := level) up i
    exact one.trans (handed_foldl is _ (by rw [one.rest]; exact up))

/-- The levels handed to every ladder of a port. -/
def Port.handAll (x : Port) (l : Fin 8) (level : Fin 64 → BitVec 4) : Port :=
  (indices 16).foldl (fun y i => y.handLevel l level i) x

theorem handLevelsTo_down {p : Fin 2} (h : (s.port p).up = false) : s.handLevelsTo l level p = s := if_pos h

theorem handLevelsTo_up {p : Fin 2} (up : (s.port p).up = true) : s.handLevelsTo l level p =
    let y := (s.port p).handAll l level
    if y.ladders = (s.port p).ladders then s.setPort p y.draw else (s.setPort p y.draw).requestImage p [] :=
  if_neg (by simp [up])

/-- R150: the ladders take nothing of the Meter Unit with them. -/
theorem handLevels_mu (s : State) (l : Fin 8) (level : Fin 64 → BitVec 4) : (s.handLevels l level).mu = s.mu := by
  unfold State.handLevels
  refine List.foldlRecOn (motive := fun u : State => u.mu = s.mu) _ _ rfl fun u hu p _ => ?_
  by_cases up : (u.port p).up = true
  · rw [handLevelsTo_up up]
    dsimp only
    split <;> simpa using hu
  · rw [handLevelsTo_down (by simpa using up)]
    exact hu

end

/-! ## The closing (R148, R149) -/

theorem runWatches_rest (s : State) (l : Fin 8) (d : Fin 4) (c closing : Word) (n : Nat) :
    (s.runWatches l d c closing n).1.si = s.si ∧ (s.runWatches l d c closing n).1.mu.windows = s.mu.windows := by
  unfold State.runWatches
  refine List.foldlRecOn (motive := fun r : State × List Event => r.1.si = s.si ∧ r.1.mu.windows = s.mu.windows) _ _
    ⟨rfl, rfl⟩ fun r hr i _ => ?_
  split
  · exact hr
  · exact hr

/-- The state after the watches of a closing, and the events they raise; none is run on a window without a good frame. -/
def State.watched (s : State) (d : Fin 4) (l : Fin 8) : State × List Event :=
  if (s.window l).good = 0 then (s, [])
  else s.runWatches l d (s.domain d).count ((s.window l).closing + 1) (s.capacity l)

theorem watched_rest (s : State) (d : Fin 4) (l : Fin 8) :
    (s.watched d l).1.si = s.si ∧ (s.watched d l).1.mu.windows = s.mu.windows := by
  unfold State.watched
  split
  · exact ⟨rfl, rfl⟩
  · exact runWatches_rest s l d _ _ _

theorem watched_window (s : State) (d : Fin 4) (l k : Fin 8) : (s.watched d l).1.window k = s.window k := by
  simp only [State.window, (watched_rest s d l).2]

/-- R200: the header of a closing. -/
def State.closingHeader (s : State) (d : Fin 4) (l : Fin 8) : List Word :=
  [(s.window l).closing + 1, fields [(0, d.val), (8, s.capacity l), (16, (s.lane l).state.code)], (s.domain d).count,
    fields [(0, (s.window l).good.toNat)]]

/-- The contents a closing fixes for the table write. -/
def State.closingTable (s : State) (d : Fin 4) (l : Fin 8) : Closing :=
  { header := s.closingHeader d l, slots := (indices 64).flatMap (fun i => (s.watched d l).1.slotRecord l i) }

/-- The state with the window of lane `l` closed and its table fixed, not handed over or cleared yet. -/
def State.tabled (s : State) (d : Fin 4) (l : Fin 8) : State :=
  (s.watched d l).1.setWindow l { (s.watched d l).1.window l with
    closing := (s.window l).closing + 1, table := some (s.closingTable d l),
    events := (s.window l).events ++ (s.watched d l).2 }

theorem closeWindow_eq (s : State) (d : Fin 4) (l : Fin 8) : s.closeWindow d l =
    (((s.tabled d l).requestMeter l).handLevels l (fun i => ladderLevel (s.peak l i))).clearWindow l := rfl

theorem closeWindow_window (s : State) (d : Fin 4) (l : Fin 8) : (s.closeWindow d l).window l = { s.window l with
    peaks := Vector.replicate 64 0, good := 0, closing := (s.window l).closing + 1, table := some (s.closingTable d l),
    events := (s.window l).events ++ (s.watched d l).2 } := by
  have handed : (((s.tabled d l).requestMeter l).handLevels l (fun i => ladderLevel (s.peak l i))).window l =
      (s.tabled d l).window l := by
    simp only [State.window, handLevels_mu, State.requestMeter_mu]
  rw [closeWindow_eq, State.clearWindow, State.window_setWindow_self, handed, State.tabled, State.window_setWindow_self,
    watched_window]

theorem clearWindow_watch (s : State) (l k : Fin 8) (i : Fin 64) : (s.clearWindow l).watch k i = s.watch k i := rfl

theorem watch_of_mu {t : State} (h : t.mu = s.mu) (k : Fin 8) (i : Fin 64) : t.watch k i = s.watch k i := by
  unfold State.watch; rw [h]

theorem closeWindow_watch (s : State) (d : Fin 4) (l : Fin 8) (i : Fin 64) :
    (s.closeWindow d l).watch l i = (s.watched d l).1.watch l i := by
  have tabled : (s.tabled d l).watch l i = (s.watched d l).1.watch l i := rfl
  rw [closeWindow_eq, clearWindow_watch, watch_of_mu (handLevels_mu _ l _), watch_of_mu (State.requestMeter_mu _ l), tabled]

/-- R200: the record of a slot, with its watch after the closing. -/
theorem watched_slotRecord (s : State) (d : Fin 4) (l : Fin 8) (i : Fin 64) :
    let x := (s.closeWindow d l).watch l i
    (s.watched d l).1.slotRecord l i = [fields [(0, (s.peak l i).toNat), (24, (ladderLevel (s.peak l i)).toNat)],
      fields [(0, x.mode.code), (8, flagBit (x.flag = true)), (16, x.silence.toNat)]] := by
  have peak : (s.watched d l).1.peak l i = s.peak l i := by unfold State.peak; rw [watched_window]
  unfold State.slotRecord
  rw [closeWindow_watch, peak]
  rfl

/-! ## Threshold words (R151, R201, log 47) -/

section
variable {w : Word}

theorem ofWord_silent (h : w.getLsbD 31 = true) : SlotWatch.ofWord w = {
    mode := .silent, threshold := w.extractLsb' 0 23, run := if w.extractLsb' 23 8 = 0 then 1 else w.extractLsb' 23 8, flag := false,
    silence := 0 } :=
  if_pos (BitVec.msb_eq_getLsbD_last w ▸ h)

theorem ofWord_over (h : w.getLsbD 31 = false) (field : w.extractLsb' 23 8 = 1) : SlotWatch.ofWord w =
    { mode := .over, threshold := w.extractLsb' 0 23, run := 1, flag := false, silence := 0 } :=
  (if_neg (by rw [BitVec.msb_eq_getLsbD_last w, h]; decide)).trans (if_pos field)

theorem ofWord_off (h : w.getLsbD 31 = false) (field : w.extractLsb' 23 8 ≠ 1) : SlotWatch.ofWord w =
    { mode := .off, threshold := w.extractLsb' 0 23, run := 1, flag := false, silence := 0 } :=
  (if_neg (by rw [BitVec.msb_eq_getLsbD_last w, h]; decide)).trans (if_neg field)

/-- Whatever its mode, a threshold word gives its threshold with the flag and the silence count clear. -/
theorem ofWord_fresh (w : Word) : (SlotWatch.ofWord w).threshold = w.extractLsb' 0 23 ∧ (SlotWatch.ofWord w).flag = false ∧
    (SlotWatch.ofWord w).silence = 0 := by
  cases h : w.getLsbD 31 with
  | true => rw [ofWord_silent h]; exact ⟨rfl, rfl, rfl⟩
  | false =>
    by_cases field : w.extractLsb' 23 8 = 1
    · rw [ofWord_over h field]; exact ⟨rfl, rfl, rfl⟩
    · rw [ofWord_off h field]; exact ⟨rfl, rfl, rfl⟩

end

end Sys2Proof.Machine

namespace Sys2Proof.Proofs

open Sys2Proof.Machine

/-- Settles O60: the frame slot by slot, the closing through its table and its hand-over, and the words by their modes. -/
theorem closingsFixTheWindow : Obligations.ClosingsFixTheWindow := by
  refine ⟨fun s l slots => ⟨?_, ?_, fun k hk => ?_, fun i => ?_⟩, ⟨fun s d l => ?_, fun p => ⟨ladderLevel_low, fun k h1 _ =>
    ladderLevel_step h1⟩⟩, fun s l level p => ⟨rfl, handLevelsTo_down, fun up => ?_⟩, fun _ _ => rfl, fun w => ?_⟩
  · rw [State.meterFrame, State.window_setWindow_self]
  · rw [State.meterFrame, State.window_setWindow_self]
  · exact State.window_setWindow_of_ne s _ hk.symm
  · rw [State.meterFrame, State.window_setWindow_self]
    refine (takePeaks_get i slots (s.window l).peaks 0).trans ?_
    rw [if_neg (Nat.not_lt_zero _), Nat.sub_zero]
    cases slots[i.val]? with
    | none => rfl
    | some w =>
      let peak := (s.window l).peaks[i]
      exact congrArg (fun m : BitVec 23 => if peak < m then m else peak) (magnitude_eq w)
  · intro t
    have window := closeWindow_window s d l
    refine ⟨congrArg LaneWindow.closing window, congrArg LaneWindow.good window, congrArg LaneWindow.peaks window,
      ⟨s.tabled d l, closeWindow_eq s d l, (watched_rest s d l).1⟩, s.closingTable d l, congrArg LaneWindow.table window,
      congrArg (fun f => (indices 64).flatMap f) (funext fun i => watched_slotRecord s d l i), rfl⟩
  · have handed := handed_foldl (l := l) (level := level) (indices 16) (s.port p) up
    have all (i : Fin 16) : i ∈ indices 16 := List.mem_finRange i
    have run := handLevelsTo_up (l := l) (level := level) up
    exact ⟨(s.port p).handAll l level, handed.rest,
      fun i ht => ⟨(handed.ladders i).trans (if_pos ⟨all i, ht⟩), (handed.marks i).trans (if_pos ⟨all i, ht⟩)⟩,
      fun i ht => ⟨(handed.ladders i).trans (if_neg fun h => ht h.2), (handed.marks i).trans (if_neg fun h => ht h.2)⟩,
      fun i => ⟨handed.lamps i, handed.motors i⟩, fun same => run.trans (if_pos same), fun differ => run.trans (if_neg differ)⟩
  · obtain ⟨threshold, flag, silence⟩ := ofWord_fresh w
    refine ⟨threshold, flag, silence, fun h => ?_, fun h field => ?_, fun h field => ?_, by decide, by decide⟩
    · rw [ofWord_silent h]; exact ⟨rfl, rfl⟩
    · rw [ofWord_over h field]; exact ⟨rfl, rfl⟩
    · rw [ofWord_off h field]; exact ⟨rfl, rfl⟩

end Sys2Proof.Proofs
end

-- ==== Proofs of the family 07: the words of a surface image ====
section
/-! The 64 words of a port's image, word by word (R184, R198). -/

namespace Sys2Proof.Machine

/-! ## Lists laid end to end -/

section
variable {α β : Type}

theorem getElem?_behind {l : List α} {n : Nat} (h : l.length = n) (m : List α) (k : Nat) : (l ++ m)[n + k]? = m[k]? := by
  rw [List.getElem?_append_right (by omega), h, Nat.add_sub_cancel_left]

/-- Pairs laid end to end: the first of pair `i` stands at `2 i`, the second behind it. -/
theorem getElem?_pairs (g h : β → α) : ∀ (l : List β) (i : Nat),
    (l.flatMap fun x => [g x, h x])[2 * i]? = l[i]?.map g ∧ (l.flatMap fun x => [g x, h x])[2 * i + 1]? = l[i]?.map h
  | [], _ => ⟨rfl, rfl⟩
  | _ :: _, 0 => ⟨rfl, rfl⟩
  | _ :: l, i + 1 => getElem?_pairs g h l i

end

/-! ## Bytes, halfwords and flags in words (R184) -/

theorem byte_eq_shift (w : Word) (k : Nat) : w.byte k = (w >>> (8 * k)).setWidth 8 := by
  refine BitVec.eq_of_getLsbD_eq fun i hi => ?_
  simp [Word.byte, hi]

/-- A word packed out of at most four bytes, the missing ones 0. -/
theorem ofBytes_byte_short {l : List Byte} (h : l.length ≤ 4) (i : Nat) : (([Word.ofBytes (l[0]?.getD 0) (l[1]?.getD 0)
    (l[2]?.getD 0) (l[3]?.getD 0)] : List Word)[i / 4]?.getD 0).byte (i % 4) = l[i]?.getD 0 := by
  obtain ⟨b0, b1, b2, b3⟩ := Word.byte_ofBytes (l[0]?.getD 0) (l[1]?.getD 0) (l[2]?.getD 0) (l[3]?.getD 0)
  match i with
  | 0 => exact b0
  | 1 => exact b1
  | 2 => exact b2
  | 3 => exact b3
  | i + 4 =>
    have behind : l[i + 4]? = none := List.getElem?_eq_none (by omega)
    rw [show (i + 4) / 4 = i / 4 + 1 by omega, behind]
    simp [Word.byte]

/-- Byte `i` of packed bytes, 0 behind their end. -/
theorem packBytes_byte (l : List Byte) (i : Nat) : ((packBytes l)[i / 4]?.getD 0).byte (i % 4) = l[i]?.getD 0 := by
  induction l using packBytes.induct generalizing i with
  | case1 a b c d rest ih =>
    obtain ⟨b0, b1, b2, b3⟩ := Word.byte_ofBytes a b c d
    match i with
    | 0 => exact b0
    | 1 => exact b1
    | 2 => exact b2
    | 3 => exact b3
    | i + 4 =>
      have step : (i + 4) / 4 = i / 4 + 1 := by omega
      rw [step, Nat.add_mod_right]
      exact ih i
  | case2 a b c => exact ofBytes_byte_short (l := [a, b, c]) (by simp) i
  | case3 a b => exact ofBytes_byte_short (l := [a, b]) (by simp) i
  | case4 a => exact ofBytes_byte_short (l := [a]) (by simp) i
  | case5 => simp [packBytes, Word.byte]

theorem packBytes_length (l : List Byte) : (packBytes l).length = (l.length + 3) / 4 := by
  induction l using packBytes.induct with
  | case1 a b c d rest ih => simp only [packBytes, List.length_cons, ih]; omega
  | _ => simp [packBytes]

/-- A halfword out of its two bytes. -/
theorem half_of_bytes {w : Word} {h : Half} {j : Nat} (low : w.byte (2 * j) = h.extractLsb' 0 8)
    (high : w.byte (2 * j + 1) = h.extractLsb' 8 8) : (w >>> (16 * j)).setWidth 16 = h := by
  refine BitVec.eq_of_getLsbD_eq fun b hb => ?_
  have lowBit := congrArg (BitVec.getLsbD · b) low
  have highBit := congrArg (BitVec.getLsbD · (b - 8)) high
  simp only [Word.byte, BitVec.getLsbD_extractLsb'] at lowBit highBit
  simp only [BitVec.getLsbD_setWidth, BitVec.getLsbD_ushiftRight, hb, decide_true, Bool.true_and]
  by_cases small : b < 8
  · simpa [small, show 8 * (2 * j) = 16 * j by omega] using lowBit
  · simpa [show b - 8 < 8 by omega, show 8 * (2 * j + 1) + (b - 8) = 16 * j + b by omega, show 8 + (b - 8) = b by omega]
      using highBit

theorem flagWord_get : ∀ (l : List Bool) (n j : Nat), n + l.length ≤ 32 →
    (flagWord n l).getLsbD j = if n ≤ j then l[j - n]?.getD false else false
  | [], n, j, _ => by simp [flagWord]
  | b :: l, n, j, h => by
    simp only [List.length_cons] at h
    have flag : (BitVec.ofNat 32 (bit b) <<< n).getLsbD j = (decide (j = n) && b) := by
      cases b with
      | false => simp [bit]
      | true =>
        simp only [bit, if_true, BitVec.getLsbD_shiftLeft, BitVec.getLsbD_one, Bool.and_true]
        rw [Bool.eq_iff_iff]
        simp only [Bool.and_eq_true, Bool.not_eq_true', decide_eq_true_iff, decide_eq_false_iff_not]
        omega
    rw [flagWord, BitVec.getLsbD_or, flagWord_get l (n + 1) j (by omega), flag]
    rcases Nat.lt_trichotomy j n with hj | hj | hj
    · simp [show ¬ j = n by omega, show ¬ n + 1 ≤ j by omega, show ¬ n ≤ j by omega]
    · simp [hj]
    · simp [show ¬ j = n by omega, show n + 1 ≤ j by omega, show n ≤ j by omega, show j - n = j - (n + 1) + 1 by omega]

/-! ## The parts of an image (R198) -/

/-- The first eight words. -/
def Port.imageHead (x : Port) : List Word :=
  [fields [(0, bit x.up), (8, x.announced.faders), (16, x.announced.groups), (24, x.announced.encoders)],
   fields [(0, x.announced.ladders)], x.counters.taken,
   fields [(0, x.counters.malformed.toNat), (16, x.counters.indexDiscards.toNat)],
   fields [(0, x.counters.unannounced.toNat), (16, x.counters.linkDrops.toNat)], x.counters.sent,
   flagWord 0 x.diverged.toList, 0]

/-- The first word of a fader. -/
def Port.faderWord (x : Port) (f : Fin 16) : Word :=
  fields [(0, x.faders[f].position.toNat), (16, bit x.faders[f].touched), (24, x.faders[f].window.code)]

/-- The second word of a fader, its motor's. -/
def Port.motorWord (x : Port) (f : Fin 16) : Word :=
  fields [(0, x.motors[f].state.code), (8, bit x.motors[f].target.isSome), (16, (x.motors[f].target.map (·.toNat)).getD 0)]

theorem image_parts (x : Port) : x.image = x.imageHead ++ (packBytes x.buttons.toList ++
    (packBytes (x.ladders.toList.map (·.setWidth 8)) ++ (packBytes (x.encoders.toList.flatMap halfBytes) ++
      (List.replicate 8 0 ++ (indices 16).flatMap fun f => [x.faderWord f, x.motorWord f])))) := by
  simp only [← List.append_assoc]
  rfl

section
variable (x : Port)

theorem buttonWords_length : (packBytes x.buttons.toList).length = 4 := by simp [packBytes_length]
theorem ladderWords_length : (packBytes (x.ladders.toList.map (·.setWidth 8))).length = 4 := by simp [packBytes_length]
theorem encoderWords_length : (packBytes (x.encoders.toList.flatMap halfBytes)).length = 8 := by
  simp [packBytes_length, halfBytes, List.length_flatMap]
theorem faderWords_length : ((indices 16).flatMap fun f => [x.faderWord f, x.motorWord f]).length = 32 := by
  simp [indices, List.length_flatMap]

theorem image_length : x.image.length = 64 := by
  rw [image_parts]
  simp only [List.length_append, buttonWords_length, ladderWords_length, encoderWords_length, faderWords_length,
    List.length_replicate]
  rfl

variable {x} {k : Nat}

theorem image_button (h : k < 4) : x.image[8 + k]? = (packBytes x.buttons.toList)[k]? := by
  rw [image_parts, getElem?_behind (by rfl), List.getElem?_append_left (by rwa [buttonWords_length])]

theorem image_ladder (h : k < 4) : x.image[12 + k]? = (packBytes (x.ladders.toList.map (·.setWidth 8)))[k]? := by
  rw [image_parts, show 12 + k = 8 + (4 + k) by omega, getElem?_behind (by rfl), getElem?_behind (buttonWords_length x),
    List.getElem?_append_left (by rwa [ladderWords_length])]

theorem image_encoder (h : k < 8) : x.image[16 + k]? = (packBytes (x.encoders.toList.flatMap halfBytes))[k]? := by
  rw [image_parts, show 16 + k = 8 + (4 + (4 + k)) by omega, getElem?_behind (by rfl),
    getElem?_behind (buttonWords_length x), getElem?_behind (ladderWords_length x),
    List.getElem?_append_left (by rwa [encoderWords_length])]

theorem image_reserved (h : k < 8) : x.image[24 + k]? = some 0 := by
  rw [image_parts, show 24 + k = 8 + (4 + (4 + (8 + k))) by omega, getElem?_behind (by rfl),
    getElem?_behind (buttonWords_length x), getElem?_behind (ladderWords_length x), getElem?_behind (encoderWords_length x),
    List.getElem?_append_left (by simpa using h), List.getElem?_replicate, if_pos h]

theorem image_faders (k : Nat) :
    x.image[32 + k]? = ((indices 16).flatMap fun f => [x.faderWord f, x.motorWord f])[k]? := by
  rw [image_parts, show 32 + k = 8 + (4 + (4 + (8 + (8 + k)))) by omega, getElem?_behind (by rfl),
    getElem?_behind (buttonWords_length x), getElem?_behind (ladderWords_length x), getElem?_behind (encoderWords_length x),
    getElem?_behind List.length_replicate]

end

/-! ## What each word shows (R198) -/

section
variable (x : Port) (i : Fin 16)

theorem image_diverged : (x.image[6]?.getD 0).getLsbD i.val = x.diverged[i] := by
  refine (flagWord_get x.diverged.toList 0 i.val (by simp)).trans ?_
  simp

theorem image_buttons : ((x.image[8 + i.val / 4]?.getD 0) >>> (8 * (i.val % 4))).setWidth 8 = x.buttons[i] := by
  rw [image_button (by omega), ← byte_eq_shift, packBytes_byte]
  simp

theorem image_ladders :
    ((x.image[12 + i.val / 4]?.getD 0) >>> (8 * (i.val % 4))).setWidth 8 = x.ladders[i].setWidth 8 := by
  rw [image_ladder (by omega), ← byte_eq_shift, packBytes_byte]
  simp

theorem image_encoders : ((x.image[16 + i.val / 2]?.getD 0) >>> (16 * (i.val % 2))).setWidth 16 = x.encoders[i] := by
  obtain ⟨first, second⟩ := getElem?_pairs (fun h : Half => h.extractLsb' 0 8) (fun h => h.extractLsb' 8 8)
    x.encoders.toList i.val
  have low := packBytes_byte (x.encoders.toList.flatMap halfBytes) (2 * i.val)
  have high := packBytes_byte (x.encoders.toList.flatMap halfBytes) (2 * i.val + 1)
  rw [show 2 * i.val / 4 = i.val / 2 by omega, show 2 * i.val % 4 = 2 * (i.val % 2) by omega] at low
  rw [show (2 * i.val + 1) / 4 = i.val / 2 by omega, show (2 * i.val + 1) % 4 = 2 * (i.val % 2) + 1 by omega] at high
  rw [image_encoder (by omega)]
  refine half_of_bytes (low.trans ?_) (high.trans ?_)
  · refine (congrArg (·.getD 0) first).trans ?_
    simp
  · refine (congrArg (·.getD 0) second).trans ?_
    simp

theorem image_fader : x.image[32 + 2 * i.val]? = some (fields [(0, x.faders[i].position.toNat),
    (16, flagBit x.faders[i].touched), (24, x.faders[i].window.code)]) := by
  rw [image_faders, (getElem?_pairs x.faderWord x.motorWord _ _).1]
  simp [indices]
  rfl

theorem image_motor : x.image[33 + 2 * i.val]? = some (fields [(0, x.motors[i].state.code),
    (8, flagBit (x.motors[i].target.isSome)), (16, shows x.motors[i].target BitVec.toNat)]) := by
  rw [show 33 + 2 * i.val = 32 + (2 * i.val + 1) by omega, image_faders, (getElem?_pairs x.faderWord x.motorWord _ _).2,
    ← getD_map_eq_shows]
  simp [indices]
  rfl

end

end Sys2Proof.Machine
end

-- ==== Proofs of the family 07: completed writes ====
section
/-! Completed writes: event records and their posting, images, and meter tables (R131, R148, R149, R159, R198). -/

namespace Sys2Proof.Machine

variable {s : State} {it : RecordItem} {rest : List RecordItem}

/-! ## Words written and read back -/

theorem Memory.writeWords_append (m : Memory) (a : Nat) (ws vs : List Word) :
    m.writeWords a (ws ++ vs) = (m.writeWords a ws).writeWords (a + 4 * ws.length) vs := by
  induction ws generalizing m a with
  | nil => rfl
  | cons w ws ih =>
    rw [List.length_cons, show a + 4 * (ws.length + 1) = a + 4 + 4 * ws.length by omega]
    exact ih (m.writeWord a w) (a + 4)

theorem Memory.readWord_congr {m n : Memory} (h : ∀ b, m.readByte b = n.readByte b) (a : Nat) :
    m.readWord a = n.readWord a := by
  simp only [Memory.readWord, h]

theorem Memory.readWords_congr {m n : Memory} (h : ∀ b, m.readByte b = n.readByte b) (k : Nat) :
    ∀ a, m.readWords a k = n.readWords a k := by
  induction k with
  | zero => exact fun _ => rfl
  | succ k ih => exact fun a => congrArg₂ List.cons (Memory.readWord_congr h a) (ih (a + 4))

theorem Memory.readWords_writeWords {m : Memory} (h : m.wf = true) (a : Nat) (ws : List Word) :
    (m.writeWords a ws).readWords a ws.length = ws := by
  induction ws generalizing m a with
  | nil => rfl
  | cons w ws ih =>
    have behind (k : Nat) (hk : k < 4) : ((m.writeWord a w).writeWords (a + 4) ws).readByte (a + k) =
        (m.writeWord a w).readByte (a + k) :=
      Memory.readByte_writeWords_outside (Memory.wf_writeWord h a w) (a + 4) _ ws (.inl (by omega))
    have first : ((m.writeWord a w).writeWords (a + 4) ws).readWord a = (m.writeWord a w).readWord a := by
      unfold Memory.readWord
      rw [behind 1 (by decide), behind 2 (by decide), behind 3 (by decide)]
      exact congrArg (Word.ofBytes · _ _ _) (behind 0 (by decide))
    exact congrArg₂ List.cons (first.trans (Memory.readWord_writeWord h a w)) (ih (Memory.wf_writeWord h a w) (a + 4))

/-! ## The transactions of an image (R131, log 60) -/

/-- The changed words lie within the image, and each is one that memory does not hold. -/
theorem changedWrites_changed (m : Memory) : ∀ (ws : List Word) (a : Nat), ∀ w ∈ changedWrites m a ws,
    ∀ (k : Nat) (h : k < w.words.length),
      a ≤ w.addr + 4 * k ∧ w.addr + 4 * k < a + 4 * ws.length ∧ m.readWord (w.addr + 4 * k) ≠ w.words[k]
  | [], _, w, hw => absurd hw List.not_mem_nil
  | v :: ws, a, w, hw => by
    have ih := changedWrites_changed m ws (a + 4)
    have later : w ∈ changedWrites m (a + 4) ws → ∀ (k : Nat) (h : k < w.words.length), a ≤ w.addr + 4 * k ∧
        w.addr + 4 * k < a + 4 * (v :: ws).length ∧ m.readWord (w.addr + 4 * k) ≠ w.words[k] := fun hw k hk => by
      obtain ⟨low, high, differs⟩ := ih w hw k hk
      exact ⟨by omega, by rw [List.length_cons]; omega, differs⟩
    unfold changedWrites at hw
    dsimp only at hw
    split at hw
    · exact later hw
    · next changed =>
      have alone (k : Nat) (h : k < [v].length) : a ≤ a + 4 * k ∧ a + 4 * k < a + 4 * (v :: ws).length ∧
          m.readWord (a + 4 * k) ≠ [v][k] := by
        obtain rfl : k = 0 := by simpa using h
        exact ⟨by omega, by rw [List.length_cons]; omega, changed⟩
      split at hw
      · obtain rfl := List.mem_singleton.1 hw
        exact alone
      · next x more hr =>
        rw [hr] at ih later
        split at hw
        · next joins =>
          rcases List.mem_cons.1 hw with rfl | hw
          · intro k hk
            cases k with
            | zero => exact alone 0 Nat.one_pos
            | succ k =>
              obtain ⟨low, high, differs⟩ := ih x (List.mem_cons_self ..) k (Nat.lt_of_succ_lt_succ hk)
              have place : a + 4 * (k + 1) = x.addr + 4 * k := by omega
              rw [place]
              exact ⟨by omega, by rw [List.length_cons]; omega, differs⟩
          · exact later (List.mem_cons_of_mem _ hw)
        · rcases List.mem_cons.1 hw with rfl | hw
          · exact alone
          · exact later hw

theorem transactions_eq : ∀ (ws : List Word) (n a : Nat),
    transactions n a ws = (List.range n).map (fun j => ⟨a + 64 * j, (ws.drop (16 * j)).take 16⟩)
  | _, 0, _ => rfl
  | ws, n + 1, a => by
    have later (j : Nat) : (⟨a + 64 + 64 * j, ((ws.drop 16).drop (16 * j)).take 16⟩ : MemWrite) =
        ⟨a + 64 * (j + 1), (ws.drop (16 * (j + 1))).take 16⟩ := by
      rw [List.drop_drop, show a + 64 + 64 * j = a + 64 * (j + 1) by omega, show 16 + 16 * j = 16 * (j + 1) by omega]
    rw [transactions, transactions_eq (ws.drop 16) n (a + 64), List.range_succ_eq_map, List.map_cons, List.map_map]
    exact congrArg (_ :: ·) (List.map_congr_left fun j _ => later j)

/-- Whole blocks of 16 words leave memory as the words in a row. -/
theorem performAll_transactions : ∀ (n a : Nat) (m : Memory) (ws : List Word), ws.length = 16 * n →
    m.performAll (transactions n a ws) = m.writeWords a ws
  | 0, _, _, ws, h => by rw [List.eq_nil_of_length_eq_zero h]; rfl
  | n + 1, a, m, ws, h => by
    have first : (ws.take 16).length = 16 := by rw [List.length_take]; omega
    have rest := performAll_transactions n (a + 64) (m.writeWords a (ws.take 16)) (ws.drop 16)
      (by rw [List.length_drop]; omega)
    have whole := Memory.writeWords_append m a (ws.take 16) (ws.drop 16)
    rw [List.take_append_drop, first] at whole
    exact rest.trans whole.symm

/-- What memory shows after the image of a port is written, changed words alone or every word. -/
theorem image_shown {m n : Memory} (hm : m.wf = true) {a : Nat} {ws : List Word}
    (h : ∀ b, n.readByte b = (m.writeWords a ws).readByte b) : n.readWords a ws.length = ws ∧
      ∀ b, b < a ∨ a + 4 * ws.length ≤ b → n.readByte b = m.readByte b :=
  ⟨(Memory.readWords_congr h _ a).trans (Memory.readWords_writeWords hm a ws),
    fun b hb => (h b).trans (Memory.readByte_writeWords_outside hm a b ws hb)⟩

/-! ## The head of the order completed by its row (R175) -/

theorem completeHead_eq (hr : s.mc.records = it :: rest) : s.completeHead =
    (({ (s.beginItem it).2 with mem := (s.beginItem it).2.mem.performAll (s.beginItem it).1.writes } : State).headGone
      rest).finishItem (s.beginItem it).1 := by
  unfold State.completeHead
  rw [hr]
  dsimp only
  rw [performWrites_mem]
  rfl

theorem completeRow_of_head {p : RecordWork → Bool} (hr : s.mc.records = it :: rest) (hp : p it.work = true) :
    s.completeRow p = s.completeHead :=
  completeRow_of_first (before := []) hr hp (fun _ h => absurd h List.not_mem_nil)
    fun ⟨_, _, h, _⟩ => absurd h List.not_mem_nil

/-! ## Event records and their posting (R159) -/

section
variable {slot : BitVec 10} {c : EventClass} {a : Nat} {ws : List Word} {es : List Event}

theorem completeHead_event (hr : s.mc.records = ⟨.event slot c, false, [⟨a, ws⟩], es⟩ :: rest) : s.completeHead =
    (({ s with mem := s.mem.writeWords a ws } : State).headGone rest).requestPosting slot c := completeHead_eq hr

theorem completeHead_posting (hr : s.mc.records = ⟨.posting slot c, false, [⟨a, ws⟩], es⟩ :: rest) : s.completeHead =
    (({ s with mem := s.mem.writeWords a ws } : State).headGone rest).postRecord c := completeHead_eq hr

/-- The record is written, and then the post mark word that posts it. -/
theorem slotRow_of_event (hr : s.mc.records = [⟨.event s.ru.written c, false, [⟨a, ws⟩], es⟩]) :
    s.slotRow s.ru.written = ({ s with
      mem := (s.mem.writeWords a ws).writeWords (s.base + 0x1804) [(s.ru.written + 1).setWidth 32],
      mc := { s.mc with records := [], lastOfThree := .record } } : State).postRecord c := by
  have own : RecordWork.isSlot s.ru.written (.event s.ru.written c) = true := isSlot_iff.2 ⟨c, .inl rfl⟩
  have posted : RecordWork.isSlot s.ru.written (.posting s.ru.written c) = true := isSlot_iff.2 ⟨c, .inr rfl⟩
  unfold State.slotRow
  rw [completeRow_of_head hr own, completeHead_event hr, completeRow_of_head (rest := []) rfl posted,
    completeHead_posting (rest := []) rfl]
  rfl

/-- R163: ATTN does not count in its own level. -/
theorem postRecord_unread (s : State) (c : EventClass) : (s.postRecord c).ru.unread = match c with
    | .routine => { s.ru.unread with routine := s.ru.unread.routine + 1 }
    | .notice => { s.ru.unread with notice := s.ru.unread.notice + 1 }
    | .fault => { s.ru.unread with fault := s.ru.unread.fault + 1 } := by cases c <;> rfl

theorem grantRecord_of_event {b : Bool} (hr : s.mc.records = ⟨.event slot c, b, [⟨a, ws⟩], es⟩ :: rest) :
    s.grantRecord = { s with
      mem := s.mem.writeWords a ws,
      mc := { s.mc with
        lastOfThree := .record,
        records := rest ++ [⟨.posting slot c, false, [⟨s.base + 0x1804, [(slot + 1).setWidth 32]⟩], []⟩] } } := by
  have begun : s.beginItem ⟨.event slot c, b, [⟨a, ws⟩], es⟩ = (⟨.event slot c, true, [⟨a, ws⟩], es⟩, s) := by
    cases b <;> rfl
  rw [grantRecord_eq hr, begun]
  exact (grantBegun_of_last (w := ⟨a, ws⟩) rfl).trans rfl

end

/-! ## Images (R131) -/

section
variable {p : Fin 2} {es : List Event}

/-- The request for an image, whole or by its changed words. -/
def imageRequest (whole : Bool) (p : Fin 2) (es : List Event) : RecordItem :=
  ⟨if whole then .wholeImage p else .image p, false, [], es⟩

/-- The transactions an image request comes to when its write begins. -/
def State.imageWrites (s : State) (whole : Bool) (p : Fin 2) : List MemWrite :=
  if whole then transactions 4 (s.base + 0x9000 + 256 * p.val) (s.port p).image
  else changedWrites s.mem (s.base + 0x9000 + 256 * p.val) (s.port p).image

theorem beginItem_image (whole : Bool) : s.beginItem (imageRequest whole p es) =
    ({ imageRequest whole p es with begun := true, writes := s.imageWrites whole p }, s) := by cases whole <;> rfl

theorem imageRequest_isImage (whole : Bool) : (imageRequest whole p es).work.isImage p = true := by
  cases whole <;> simp [imageRequest, RecordWork.isImage]

theorem completeHead_image {whole : Bool} (hr : s.mc.records = imageRequest whole p es :: rest) : s.completeHead =
    (({ s with mem := s.mem.performAll (s.imageWrites whole p) } : State).headGone rest).passEvents es := by
  rw [completeHead_eq hr, beginItem_image]
  cases whole <;> rfl

theorem imageWrites_shown (h : s.mem.wf = true) (whole : Bool) (p : Fin 2) (b : Nat) :
    (s.mem.performAll (s.imageWrites whole p)).readByte b =
      (s.mem.writeWords (s.base + 0x9000 + 256 * p.val) (s.port p).image).readByte b := by
  cases whole
  · exact Memory.readByte_changedWrites b _ h fun _ _ _ => rfl
  · exact congrArg (Memory.readByte · b) (performAll_transactions 4 _ _ _ (image_length _))

end

/-! ## Meter tables (R148, R149) -/

theorem Memory.performAll_append (m : Memory) (l k : List MemWrite) : m.performAll (l ++ k) = (m.performAll l).performAll k :=
  List.foldl_append

theorem completeHead_table {l : Fin 8} {x : Closing} {es : List Event}
    (hr : s.mc.records = ⟨.meterTable l, false, [], es⟩ :: rest) (ht : (s.window l).table = some x) : s.completeHead =
      (({ s.setWindow l { s.window l with table := none, events := [] } with
        mem := (s.mem.performAll (transactions 8 (s.meterAddress l + 64) x.slots)).writeWords (s.meterAddress l) x.header }
          : State).headGone rest).passEvents (s.window l).events := by
  have begun : s.beginItem ⟨.meterTable l, false, [], es⟩ =
      (⟨.meterTable l, true, x.writes (s.meterAddress l), (s.window l).events⟩,
        s.setWindow l { s.window l with table := none, events := [] }) := by
    unfold State.beginItem
    dsimp only
    rw [ht]
    rfl
  rw [completeHead_eq hr, begun, Closing.writes, Memory.performAll_append]
  rfl

end Sys2Proof.Machine

namespace Sys2Proof.Proofs

open Sys2Proof.Machine

/-- Settles O22: each row completes the head of the order, and each head is finished by its work. -/
theorem completedWritesPassTheirEvents : Obligations.CompletedWritesPassTheirEvents := by
  refine ⟨fun s c a ws es held hr => ?_, fun s slot c b a ws es rest hr => grantRecord_of_event hr,
    fun s p es rest whole held wf hr => ?_, fun x => ⟨?_, fun i => ⟨image_diverged x i, image_buttons x i, image_ladders x i,
      image_encoders x i, image_fader x i, image_motor x i⟩, fun k low high => ?_⟩, fun s l x es rest held hr ht => ?_⟩
  · refine ⟨_, (exec_eventRecordWritten held).trans (congrArg _ (slotRow_of_event hr)), rfl, rfl, rfl, rfl,
      postRecord_unread _ c, rfl, rfl, rfl, rfl, rfl, rfl, rfl, rfl⟩
  · intro a image
    have length : image.length = 64 := image_length _
    obtain ⟨words, outside⟩ := image_shown wf (imageWrites_shown wf whole p)
    rw [length] at words outside
    refine ⟨length, s.imageWrites whole p, congrArg (·.1.writes) (beginItem_image whole), ?_, ?_,
      s.mem.performAll (s.imageWrites whole p), ?_, words, outside⟩
    · rintro rfl w hw k hk
      have changed := changedWrites_changed s.mem image a w hw k hk
      rwa [length] at changed
    · rintro rfl
      exact transactions_eq image 4 a
    · rw [exec_surfaceImageWritten held, completeRow_of_head hr (imageRequest_isImage whole), completeHead_image hr]
      rfl
  · rfl
  · obtain ⟨j, rfl⟩ := Nat.exists_eq_add_of_le low
    exact image_reserved (by omega)
  · rw [exec_meterTableWritten held, completeRow_of_head (p := (· == .meterTable l)) hr (beq_self_eq_true _),
      completeHead_table hr ht]
    rfl

end Sys2Proof.Proofs
end

-- ==== Proofs of the family 08: the threshold watch ====
section
/-! The threshold watch of a slot, the events it raises, and its run at the closing of a window (R148, R152 to
R154, R197). -/

namespace Sys2Proof.Machine

/-! ## One watch on one closed peak (R152, R153) -/

section
variable {x : SlotWatch} {peak : BitVec 23}

theorem satInc_byte (b : Byte) : satInc b = if b = 255 then 255 else b + 1 := by
  have most : BitVec.allOnes 8 = 255 := by decide
  unfold satInc
  rw [most]
  split
  · assumption
  · rfl

theorem judge_off (mode : x.mode = .off) : x.judge peak = (x, .nothing) := by
  unfold SlotWatch.judge; rw [mode]

theorem judge_over_reached (mode : x.mode = .over) (reached : x.threshold ≤ peak) :
    x.judge peak = ({ x with flag := true }, if x.flag then .nothing else .over) := by
  unfold SlotWatch.judge; rw [mode]; exact if_pos reached

theorem judge_over_below (mode : x.mode = .over) (below : peak < x.threshold) :
    x.judge peak = ({ x with flag := false }, .nothing) := by
  unfold SlotWatch.judge; rw [mode]; exact if_neg (BitVec.not_le.2 below)

/-- R153: with one more closing below the threshold the run is reached, and it has not been reported yet. -/
theorem judge_silent_reports (mode : x.mode = .silent) (below : peak < x.threshold) (run : x.run ≤ satInc x.silence)
    (flag : x.flag = false) : x.judge peak = ({ x with silence := satInc x.silence, flag := true }, .silent) := by
  unfold SlotWatch.judge; rw [mode]
  exact (if_pos below).trans (if_pos ⟨run, flag⟩)

/-- R153: one more closing below the threshold leaves the run unreached, or the silence is reported already. -/
theorem judge_silent_quiet (mode : x.mode = .silent) (below : peak < x.threshold)
    (quiet : satInc x.silence < x.run ∨ x.flag = true) :
    x.judge peak = ({ x with silence := satInc x.silence }, .nothing) := by
  have unreported : ¬ (x.run ≤ satInc x.silence ∧ x.flag = false) := fun ⟨run, flag⟩ =>
    quiet.elim (BitVec.not_lt.2 run) fun raised => Bool.false_ne_true (flag.symm.trans raised)
  unfold SlotWatch.judge; rw [mode]
  exact (if_pos below).trans (if_neg unreported)

theorem judge_silent_reached (mode : x.mode = .silent) (reached : x.threshold ≤ peak) :
    x.judge peak = ({ x with silence := 0, flag := false }, .nothing) := by
  unfold SlotWatch.judge; rw [mode]; exact if_neg (BitVec.not_lt.2 reached)

theorem withFlag_of_flag (flag : x.flag = true) : { x with flag := true } = x := by rw [← flag]

end

/-! ## The watch read back -/

theorem watch_setWatch_self (s : State) (l : Fin 8) (i : Fin 64) (x : SlotWatch) : (s.setWatch l i x).watch l i = x := by
  simp [State.setWatch, State.watch]

theorem watch_setWatch_of_ne (s : State) (l : Fin 8) {i j : Fin 64} (x : SlotWatch) (h : i ≠ j) :
    (s.setWatch l i x).watch l j = s.watch l j := by
  have differ : i.val ≠ j.val := fun e => h (Fin.ext e)
  simp [State.setWatch, State.watch, differ]

/-! ## The watches of a lane, slot by slot (R148 step 5) -/

section
variable (s : State) (l : Fin 8) (d : Fin 4) (count closing : Word) (capacity : Nat)

/-- What the watch of slot `i` makes of the slot's peak. -/
def State.watchJudged (i : Fin 64) : SlotWatch × WatchReport := (s.watch l i).judge (s.peak l i)

/-- The events of slot `i` at a closing: none at or above the capacity. -/
def State.slotEvents (i : Fin 64) : List Event :=
  if i.val < capacity then meterEvent l d count closing i (s.peak l i) (s.watchJudged l i).1 (s.watchJudged l i).2 else []

/-- The run of one slot's watch, on the peaks of `s`, from the state and the events that the slots before it leave. -/
def State.runWatch (r : State × List Event) (i : Fin 64) : State × List Event :=
  if i.val < capacity then
    let j := (r.1.watch l i).judge (s.peak l i)
    (r.1.setWatch l i j.1, r.2 ++ meterEvent l d count closing i (s.peak l i) j.1 j.2)
  else r

theorem runWatches_eq : s.runWatches l d count closing capacity =
    (indices 64).foldl (s.runWatch l d count closing capacity) (s, []) := rfl

variable {s l d count closing capacity} {r : State × List Event} {i j : Fin 64}

/-- A slot whose watch has not been run yet raises its events. -/
theorem runWatch_events (fresh : r.1.watch l i = s.watch l i) :
    (s.runWatch l d count closing capacity r i).2 = r.2 ++ s.slotEvents l d count closing capacity i := by
  unfold State.runWatch State.slotEvents State.watchJudged
  rw [fresh]
  split
  · rfl
  · exact (List.append_nil _).symm

theorem runWatch_self (fresh : r.1.watch l i = s.watch l i) : (s.runWatch l d count closing capacity r i).1.watch l i =
    if i.val < capacity then (s.watchJudged l i).1 else s.watch l i := by
  unfold State.runWatch State.watchJudged
  rw [fresh]
  split
  · exact watch_setWatch_self _ _ _ _
  · exact fresh

theorem runWatch_other (h : i ≠ j) : (s.runWatch l d count closing capacity r i).1.watch l j = r.1.watch l j := by
  unfold State.runWatch
  split
  · exact watch_setWatch_of_ne _ _ _ h
  · rfl

/-- Slots run one after another: their events stand in their order, and each watch is judged by what it was in `s`. -/
theorem runWatch_foldl : ∀ (is : List (Fin 64)) (r : State × List Event), is.Nodup →
    (∀ i ∈ is, r.1.watch l i = s.watch l i) →
    let u := is.foldl (s.runWatch l d count closing capacity) r
    u.2 = r.2 ++ is.flatMap (s.slotEvents l d count closing capacity) ∧
      ∀ j : Fin 64, u.1.watch l j =
        if j ∈ is then (if j.val < capacity then (s.watchJudged l j).1 else s.watch l j) else r.1.watch l j
  | [], r, _, _ => ⟨(List.append_nil _).symm, fun _ => rfl⟩
  | i :: is, r, distinct, fresh => by
    obtain ⟨away, rest⟩ := List.nodup_cons.1 distinct
    have here := fresh i List.mem_cons_self
    obtain ⟨events, watches⟩ := runWatch_foldl is (s.runWatch l d count closing capacity r i) rest fun j hj =>
      (runWatch_other fun e => away (by rwa [e])).trans (fresh j (List.mem_cons_of_mem _ hj))
    refine ⟨?_, fun j => ?_⟩
    · rw [List.foldl_cons, events, runWatch_events here, List.append_assoc, List.flatMap_cons]
    · rw [List.foldl_cons, watches]
      by_cases e : i = j
      · subst e
        rw [if_neg away, if_pos List.mem_cons_self, runWatch_self here]
      · rw [runWatch_other e]
        simp [Ne.symm e]

theorem runWatches_events : (s.runWatches l d count closing capacity).2 =
    (indices 64).flatMap (s.slotEvents l d count closing capacity) := by
  rw [runWatches_eq, (runWatch_foldl (s := s) (indices 64) (s, []) (List.nodup_finRange 64) fun _ _ => rfl).1, List.nil_append]

theorem runWatches_watch (i : Fin 64) : (s.runWatches l d count closing capacity).1.watch l i =
    if i.val < capacity then (s.watchJudged l i).1 else s.watch l i := by
  rw [runWatches_eq, (runWatch_foldl (s := s) (indices 64) (s, []) (List.nodup_finRange 64) fun _ _ => rfl).2,
    if_pos (show i ∈ indices 64 from List.mem_finRange i)]

end

/-! ## The watches of a closing (R148) -/

section
variable {s : State} {l : Fin 8} (d : Fin 4)

theorem watched_of_empty (empty : (s.window l).good = 0) : s.watched d l = (s, []) := if_pos empty

theorem watched_of_good (good : (s.window l).good ≠ 0) : s.watched d l =
    s.runWatches l d (s.domain d).count ((s.window l).closing + 1) (s.capacity l) := if_neg good

theorem closeWindow_watch_of_unwatched {i : Fin 64} (h : (s.window l).good = 0 ∨ s.capacity l ≤ i.val) :
    (s.closeWindow d l).watch l i = s.watch l i := by
  rw [closeWindow_watch]
  by_cases empty : (s.window l).good = 0
  · rw [watched_of_empty d empty]
  · have above : ¬ i.val < s.capacity l := Nat.not_lt.2 (h.resolve_left empty)
    rw [watched_of_good d empty, runWatches_watch, if_neg above]

theorem closeWindow_watch_of_watched {i : Fin 64} (good : (s.window l).good ≠ 0) (below : i.val < s.capacity l) :
    (s.closeWindow d l).watch l i = (s.watchJudged l i).1 := by
  rw [closeWindow_watch, watched_of_good d good, runWatches_watch, if_pos below]

theorem closeWindow_events (s : State) (d : Fin 4) (l : Fin 8) :
    ((s.closeWindow d l).window l).events = (s.window l).events ++ (s.watched d l).2 :=
  congrArg LaneWindow.events (closeWindow_window s d l)

end

end Sys2Proof.Machine

namespace Sys2Proof.Proofs

open Sys2Proof.Machine

/-- Settles O59: one watch by its mode, its event by what it reports, and the run of a closing slot by slot. -/
theorem thresholdWatchFollowsItsMode : Obligations.ThresholdWatchFollowsItsMode := by
  refine ⟨fun x peak => ⟨fun mode reached flag => ?_, fun mode reached flag => ?_, judge_over_below,
    fun mode below => ?_, judge_silent_reached, judge_off⟩,
    fun l d count closing i peak x => ⟨rfl, ?_, ?_⟩, fun s d l => ⟨fun i => closeWindow_watch_of_unwatched d,
      fun i => closeWindow_watch_of_watched d, fun empty => ?_, fun good => ?_⟩⟩
  · rw [judge_over_reached mode reached, flag]; rfl
  · rw [judge_over_reached mode reached, withFlag_of_flag flag, flag]; rfl
  · rw [← satInc_byte]
    exact ⟨judge_silent_reports mode below, judge_silent_quiet mode below⟩
  · rw [Nat.mul_comm]; rfl
  · rw [Nat.mul_comm]; rfl
  · rw [closeWindow_events, watched_of_empty d empty, List.append_nil]
  · rw [closeWindow_events, watched_of_good d good, runWatches_events]
    rfl

end Sys2Proof.Proofs
end

-- ==== Proofs of the family 09: the opening of the Pass Port ====
section
/-! The Pass Port opened at READY's write (R166, R175, R179 to R181). -/

namespace Sys2Proof.Machine

variable {s t u : State} {it : RecordItem} {rest : List RecordItem}

/-! ## The unread records through the Record order (R158 to R163) -/

theorem request_ru (s : State) (id : RecordId) : (s.request id).ru = s.ru := by
  unfold State.request
  split
  · rfl
  · dsimp only; split <;> rfl

/-- The event ring holds in `t` the unread records it held in `s`: nothing has been posted or taken, and ATTN stands. -/
structure UnreadKept (s t : State) : Prop where
  written : t.ru.written = s.ru.written
  takeMark : t.ru.takeMark = s.ru.takeMark
  unread : t.ru.unread = s.ru.unread
  attn : t.ru.attn = s.ru.attn

namespace UnreadKept

theorem ofReport (h : t.ru = s.ru) : UnreadKept s t := by constructor <;> rw [h]

theorem refl (s : State) : UnreadKept s s := ofReport rfl

theorem trans (a : UnreadKept s t) (b : UnreadKept t u) : UnreadKept s u :=
  ⟨b.written.trans a.written, b.takeMark.trans a.takeMark, b.unread.trans a.unread, b.attn.trans a.attn⟩

end UnreadKept

/-- R159 step 1, R160: an event reserves a slot or is lost; neither posts it. -/
theorem passEvent_unread (s : State) (e : Event) : UnreadKept s (s.passEvent e) := by
  unfold State.passEvent
  split
  · exact .refl s
  · split
    · constructor <;> simp only [State.loseEvent, request_ru]
    · constructor <;> rfl

theorem passEvents_unread : ∀ (es : List Event) (s : State), UnreadKept s (s.passEvents es)
  | [], s => .refl s
  | e :: es, s => (passEvent_unread s e).trans (passEvents_unread es (s.passEvent e))

/-- R159 step 4: only the posting of a record makes it unread. -/
theorem finishItem_unread (h : it.work.isPosting = false) (s : State) : UnreadKept s (s.finishItem it) := by
  unfold State.finishItem
  split
  · exact .ofReport rfl
  · next n c hw => rw [hw] at h; cases h
  · exact passEvents_unread _ s
  · exact passEvents_unread _ s
  · exact passEvents_unread _ s
  all_goals exact .ofReport rfl

theorem completeHead_unread (hr : s.mc.records = it :: rest) (h : it.work.isPosting = false) :
    UnreadKept s s.completeHead := by
  rw [completeHead_eq hr]
  refine UnreadKept.trans ?_ (finishItem_unread (by rwa [beginItem_work]) _)
  exact .ofReport (beginItem_ru s it)

/-! ## The first requests of the order completed (R175) -/

theorem records_of_works {w : RecordWork} {ws : List RecordWork} (h : w :: ws <+: s.recordWorks) :
    ∃ it rest, s.mc.records = it :: rest ∧ it.work = w ∧ ws <+: rest.map (·.work) := by
  match hr : s.mc.records with
  | [] => rw [State.recordWorks, hr] at h; simp at h
  | it :: rest =>
    rw [State.recordWorks, hr, List.map_cons, List.cons_prefix_cons] at h
    exact ⟨it, rest, rfl, h.1.symm, h.2⟩

/-- What stands behind the first requests keeps its places when they are completed; more may join at the back. -/
theorem completeItems_works : ∀ (ws : List RecordWork) {vs : List RecordWork} {s : State}, ws ++ vs <+: s.recordWorks →
    vs <+: (s.completeItems ws.length).recordWorks
  | [], _, _, h => h
  | _ :: ws, _, _, h => by
    obtain ⟨it, rest, hr, -, behind⟩ := records_of_works h
    exact completeItems_works ws (behind.trans (completeHead_works hr))

/-- Requests that post no record leave the unread records. -/
theorem completeItems_unread : ∀ (ws : List RecordWork) {s : State}, ws <+: s.recordWorks →
    (∀ w ∈ ws, w.isPosting = false) → UnreadKept s (s.completeItems ws.length)
  | [], s, _, _ => .refl s
  | w :: ws, s, h, hp => by
    obtain ⟨it, rest, hr, rfl, behind⟩ := records_of_works h
    exact (completeHead_unread hr (hp _ (List.mem_cons_self ..))).trans
      (completeItems_unread ws (behind.trans (completeHead_works hr)) fun w hw => hp w (List.mem_cons_of_mem _ hw))

/-! ## READY's write (R166, R179, R181) -/

theorem isReady_iff {w : RecordWork} : w.isReady = true ↔ w = .status .startWord := by
  rw [RecordWork.isReady, beq_iff_eq]

theorem isReady_eq_false {w : RecordWork} (h : w ≠ .status .startWord) : w.isReady = false :=
  Bool.eq_false_iff.2 fun e => h (isReady_iff.1 e)

/-- READY written is the completion of the order up to READY. -/
theorem completeReady_eq (h : readyWritten s u) : s.completeThrough RecordWork.isReady = u := by
  obtain ⟨before, it, rest, hl, ready, first, rfl⟩ | ⟨gone, rfl⟩ := h
  · exact completeThrough_of_first hl (isReady_iff.2 ready) fun x hx => isReady_eq_false (first x hx)
  · exact completeThrough_of_none fun x hx => isReady_eq_false (gone x hx)

/-- READY's write opens the port: the end of a start-up with HRSTn released, or the end of a host reset. -/
def State.mayOpen (s : State) : Prop := s.phase = .records ∧ s.hrstn = false ∨ s.phase = .hostRecords

theorem RecordsOnly.mayOpen (k : RecordsOnly s t) (h : s.mayOpen) : t.mayOpen := by
  rwa [State.mayOpen, k.phase, k.hrstn]

theorem openPort_of_mayOpen (h : s.mayOpen) :
    s.openPort = { s with phase := .opened, ru := { s.ru with startWord := .ready } } := by
  refine if_neg fun ⟨records, asserted⟩ => ?_
  rcases h with ⟨-, released⟩ | host
  · exact Bool.false_ne_true (released.symm.trans asserted)
  · exact nomatch records.symm.trans host

theorem openPort_of_asserted (hp : s.phase = .records) (hr : s.hrstn = true) : s.openPort = s.resetBlocks :=
  if_pos ⟨hp, hr⟩

theorem exec_passPortOpen_ready (h : s.phase.opens = true) :
    exec .passPortOpen s = .next (s.completeThrough RecordWork.isReady).openPort := by
  rw [exec_passPortOpen fun held => by rw [held] at h; cases h]
  exact congrArg _ (if_pos h)

/-- R179 step 5, R181 step 3: the order is completed up to READY, and the port opens. -/
theorem exec_passPortOpen_opens (h : s.mayOpen) :
    let u := s.completeThrough RecordWork.isReady
    exec .passPortOpen s = .next { u with phase := .opened, ru := { u.ru with startWord := .ready } } := by
  rw [exec_passPortOpen_ready ((opens_iff _).2 (h.imp_left And.left)),
    openPort_of_mayOpen ((completeThrough_frame s _).mayOpen h)]

/-- R179, R180: the order is completed up to READY, and the host reset follows. -/
theorem exec_passPortOpen_resets (hp : s.phase = .records) (hr : s.hrstn = true) :
    exec .passPortOpen s = .next (s.completeThrough RecordWork.isReady).resetBlocks := by
  have kept := completeThrough_frame s RecordWork.isReady
  rw [exec_passPortOpen_ready ((opens_iff _).2 (.inl hp)),
    openPort_of_asserted (kept.phase.trans hp) (kept.hrstn.trans hr)]

/-- R175, R181: READY written with no event record before it: what stands behind it stays, and the unread records too. -/
theorem completeReady_keeps {before : List RecordItem} (hl : s.mc.records = before ++ it :: rest)
    (ready : it.work = .status .startWord) (hb : ∀ x ∈ before, x.work ≠ .status .startWord ∧ x.isEvent = false) :
    rest.map (·.work) <+: (s.completeThrough RecordWork.isReady).recordWorks ∧
      UnreadKept s (s.completeThrough RecordWork.isReady) := by
  have through := completeThrough_of_first hl (isReady_iff.2 ready) fun x hx => isReady_eq_false (hb x hx).1
  have works : s.recordWorks = (before.map (·.work) ++ [it.work]) ++ rest.map (·.work) := by
    simp [State.recordWorks, hl]
  have count : (before.map (·.work) ++ [it.work]).length = before.length + 1 := by simp
  rw [through, ← count]
  refine ⟨completeItems_works _ (works ▸ List.prefix_rfl), completeItems_unread _ (works ▸ List.prefix_append _ _)
    fun w hw => ?_⟩
  rcases List.mem_append.1 hw with hw | hw
  · obtain ⟨x, hx, rfl⟩ := List.mem_map.1 hw
    exact isPosting_of_isEvent (hb x hx).2
  · rw [List.mem_singleton.1 hw, ready]; rfl

end Sys2Proof.Machine

namespace Sys2Proof.Proofs

open Sys2Proof.Machine

/-- Settles O13: the order is completed up to READY, which changes memory and the reports alone, and the port opens or the
host reset follows. -/
theorem passPortOpensWhenReady : Obligations.PassPortOpensWhenReady := by
  refine ⟨fun s hp hr => ?_, fun s hp => ?_, fun s u h hu => ?_, fun s before rest it h hl ready hb => ?_,
    fun s u hp hr hu => ?_⟩
  · have kept := completeThrough_frame s RecordWork.isReady
    exact ⟨_, exec_passPortOpen_opens (.inl ⟨hp, hr⟩), rfl, rfl, kept.cb, kept.li, kept.si, kept.se, kept.rw, kept.pp,
      kept.mclk, kept.cu⟩
  · have kept := completeThrough_frame s RecordWork.isReady
    exact ⟨_, exec_passPortOpen_opens (.inr hp), rfl, rfl, kept.cb, kept.li, kept.si, kept.se, kept.rw, kept.pp, kept.cu⟩
  · rw [exec_passPortOpen_opens h, completeReady_eq hu]
  · obtain ⟨⟨more, behind⟩, ring⟩ := completeReady_keeps hl ready hb
    exact ⟨_, exec_passPortOpen_opens h, ⟨more, behind.symm⟩, ring.written, ring.takeMark, ring.unread, ring.attn⟩
  · have hrstn : u.hrstn = true := by
      rw [← completeReady_eq hu, (completeThrough_frame s _).hrstn, hr]
    exact ⟨_, by rw [exec_passPortOpen_resets hp hr, completeReady_eq hu], resetBlocks_hostResetOf hrstn⟩

end Sys2Proof.Proofs
end

-- ==== Proofs of the family 09: the event take mark and ATTN ====
section
/-! The host's take mark and attention mask (R161 to R164). -/

namespace Sys2Proof.Machine

variable {s : State} {m : BitVec 10}

/-- R163: ATTN is asserted while an enabled class has unread records. -/
theorem attnLevel_iff (r : ReportUnit) : r.attnLevel = true ↔ (r.mask.routine = true ∧ r.unread.routine ≠ 0) ∨
    (r.mask.notice = true ∧ r.unread.notice ≠ 0) ∨ (r.mask.fault = true ∧ r.unread.fault ≠ 0) := by
  simp only [ReportUnit.attnLevel, Bool.or_eq_true, Bool.and_eq_true, bne_iff_ne, or_assoc]

/-- R162, R163: the Report Unit after an advance of the take mark to `m` over the `a` oldest unread records. -/
def ReportUnit.taken (r : ReportUnit) (m : BitVec 10) (a : Nat) : ReportUnit :=
  let x := { r with takeMark := m, classes := r.classes.drop a, unread := (r.classes.take a).foldl Unread.sub r.unread }
  { x with attn := x.attnLevel }

/-- R163: the Report Unit under a new attention mask. -/
def ReportUnit.masked (r : ReportUnit) (w : Word) : ReportUnit :=
  let x := { r with mask := ⟨w.getLsbD 0, w.getLsbD 1, w.getLsbD 2⟩ }
  { x with attn := x.attnLevel }

section
variable (s m)

theorem takeMarkWritten_of_same (h : (m - s.ru.takeMark).toNat = 0) :
    s.takeMarkWritten m = s.evalAttn.request .report := if_pos h

theorem takeMarkWritten_of_unread (h : 1 ≤ (m - s.ru.takeMark).toNat)
    (hu : (m - s.ru.takeMark).toNat ≤ (s.ru.written - s.ru.takeMark).toNat) : s.takeMarkWritten m =
      (({ s with ru := s.ru.taken m (m - s.ru.takeMark).toNat } : State).request .report).raiseEventsLost :=
  (if_neg (Nat.ne_of_gt h)).trans (if_pos hu)

theorem takeMarkWritten_of_beyond (h : (s.ru.written - s.ru.takeMark).toNat < (m - s.ru.takeMark).toNat) :
    s.takeMarkWritten m =
      ({ s with ru := { s.ru with refusedTakes := satInc s.ru.refusedTakes } } : State).request .report :=
  (if_neg (Nat.ne_zero_of_lt h)).trans (if_neg (Nat.not_le.2 h))

theorem maskWritten_eq (w : Word) : s.maskWritten w = ({ s with ru := s.ru.masked w } : State).request .report := rfl

end

end Sys2Proof.Machine

namespace Sys2Proof.Proofs

open Sys2Proof.Machine

/-- Settles O24: the take mark by the length of its advance, and ATTN by what the mask enables. -/
theorem takeMarkAndMaskEvaluateAttn : Obligations.TakeMarkAndMaskEvaluateAttn := by
  refine ⟨fun s m => ⟨takeMarkWritten_of_same s m, fun h hu => ?_, takeMarkWritten_of_beyond s m⟩, fun s w => ?_⟩
  · exact ⟨s.ru.taken m (m - s.ru.takeMark).toNat, rfl, rfl, takeMarkWritten_of_unread s m h hu⟩
  · exact ⟨s.ru.masked w, rfl, attnLevel_iff (s.ru.masked w), maskWritten_eq s w⟩

end Sys2Proof.Proofs
end

-- ==== Proofs of the family 10: transactions without a grant ====
section
/-! The host's rows as pass transactions, and what the Pass Port answers without a grant (R168 to R171, R176). -/

namespace Sys2Proof.Machine

variable {s : State} {x : PassTransaction}

/-! ## The host's rows (R168, R170) -/

theorem powered_eq (s : State) (f : State → State) : powered s f = .next (if s.phase = .held then s else f s) := rfl

/-- R168, R170: a write into the block at `offset` is the pass transaction of its words at its address. -/
theorem powered_blockTake (w : BlockWrite) (offset : Nat) (s : State) : powered s (fun s => s.blockTake offset w) =
    exec (.passTransaction ⟨BitVec.ofNat 32 (s.base + offset + 4 * w.start.val), .write w.words⟩ w.waits) s := by
  show _ = powered s (fun u => u.passTake (w.transaction s offset) w.waits)
  rw [powered_eq, powered_eq]
  rfl

/-! ## Presenting a transaction (R168, R171) -/

/-- R168, log 8: the part holds nothing of a transaction that waits at the bridge. -/
theorem passTake_of_busy (h : s.phase ≠ .opened ∨ s.pp.inHand ≠ none) (x : PassTransaction) (waits : Bool) :
    s.passTake x waits = s := if_pos (h.imp_right Option.isSome_iff_ne_none.2)

/-- R168, R178: under PORn the port is closed. -/
theorem exec_passTransaction (x : PassTransaction) (waits : Bool) (s : State) :
    exec (.passTransaction x waits) s = .next (s.passTake x waits) := by
  show powered s (fun s => s.passTake x waits) = _
  rw [powered_eq]
  split
  · next held => rw [passTake_of_busy (.inl (by rw [held]; decide))]
  · rfl

theorem not_busy_of_portFree (h : s.portFree) : ¬ (s.phase ≠ .opened ∨ s.pp.inHand.isSome) := by
  simp [h.1, h.2]

/-- R169: a transaction that needs no grant is answered at once. -/
theorem passTake_of_answered (h : s.portFree) {r : Response} {data : List Word} (hx : s.ungranted x = some (r, data))
    (waits : Bool) : s.passTake x waits = s.answer x r data := by
  rw [State.passTake, if_neg (not_busy_of_portFree h), hx]

theorem exec_passTransaction_answered (h : s.portFree) {r : Response} {data : List Word}
    (hx : s.ungranted x = some (r, data)) (waits : Bool) :
    exec (.passTransaction x waits) s = .next (s.answer x r data) := by
  rw [exec_passTransaction, passTake_of_answered h hx]

/-- R171, log 7: one left waiting for its grant is in hand. -/
theorem exec_passTransaction_waiting (h : s.portFree) (hx : s.ungranted x = none) :
    exec (.passTransaction x true) s = .next { s with pp := { s.pp with inHand := some x } } := by
  rw [exec_passTransaction, State.passTake, if_neg (not_busy_of_portFree h), hx]
  rfl

/-- R171, R176, log 7: one not left waiting takes its turn at the arbitration points. -/
theorem exec_passTransaction_inTurn (h : s.portFree) (hx : s.ungranted x = none) : exec (.passTransaction x false) s =
    .next (({ s with pp := { s.pp with inHand := some x } } : State).grantInTurn Config.grantPoints) := by
  rw [exec_passTransaction, State.passTake, if_neg (not_busy_of_portFree h), hx]
  rfl

/-! ## The tests (R169) -/

theorem ungranted_illShaped (h : x.wellShaped = false) : s.ungranted x = some (.error, []) := if_pos h

theorem ungranted_beyond (h : x.wellShaped = true) (top : s.mc.size.bytes ≤ x.start) :
    s.ungranted x = some (.noMemory, if isRead x then List.replicate x.length 0 else []) := by
  simp [State.ungranted, h, top]

theorem ungranted_enablesNothing (h : x.wellShaped = true) (below : x.start < s.mc.size.bytes)
    (he : x.enablesNothing = true) : s.ungranted x = some (.okay, []) := by
  simp [State.ungranted, h, Nat.not_le.2 below, he]

theorem ungranted_partOwned (hw : isRead x = false) (h : x.wellShaped = true) (below : x.start < s.mc.size.bytes)
    (he : x.enablesNothing = false) (owned : s.partOwnedAt x.start = true) : s.ungranted x = some (.refused, []) := by
  simp [State.ungranted, h, Nat.not_le.2 below, he, hw, owned]

theorem isRead_write {ws : List WriteWord} (hop : x.op = .write ws) : isRead x = false := by
  unfold isRead; rw [hop]

/-- R169: what enables no byte is a write. -/
theorem isRead_of_enablesNothing (h : x.enablesNothing = true) : isRead x = false := by
  obtain ⟨a, _ | ws⟩ := x
  · cases h
  · rfl

/-- R170: a write into a part-owned region never needs a grant. -/
theorem ungranted_partOwned_answered (hw : isRead x = false) (owned : s.partOwnedAt x.start = true) :
    ∃ r data, s.ungranted x = some (r, data) := by
  unfold State.ungranted
  rw [if_pos (⟨hw, owned⟩ : isRead x = false ∧ s.partOwnedAt x.start = true)]
  repeat' split
  all_goals exact ⟨_, _, rfl⟩

/-- R170: a host write into a part-owned region leaves memory as it was. -/
theorem passTake_partOwned_mem (hw : isRead x = false) (owned : s.partOwnedAt x.start = true) (waits : Bool) :
    (s.passTake x waits).mem = s.mem := by
  by_cases busy : s.phase ≠ .opened ∨ s.pp.inHand ≠ none
  · rw [passTake_of_busy busy]
  · have free : s.portFree := by simpa using busy
    obtain ⟨r, data, answered⟩ := ungranted_partOwned_answered hw owned
    rw [passTake_of_answered free answered]
    rfl

/-- R169, R173: an answer OKAY without a read counts a write. -/
theorem answer_okay_of_write (hw : isRead x = false) :
    s.answer x .okay [] = { s with pp := { s.pp with writes := s.pp.writes + 1, answer := some ⟨.okay, []⟩ } } := by
  simp [State.answer, PassPort.count, hw]

end Sys2Proof.Machine

namespace Sys2Proof.Proofs

open Sys2Proof.Machine

/-- Settles O15: the tests of R169 in their order, what waits, the writes refused, and each host row as its pass
transaction. -/
theorem ungrantedTransactionsAreAnswered : Obligations.UngrantedTransactionsAreAnswered := by
  refine ⟨fun x waits s free =>
      ⟨fun h => ?_, fun h top => ?_, fun h below he => ?_, fun ws hop h below he owned => ?_⟩,
    ⟨fun x waits s busy => ?_, fun x s => exec_passTransaction_waiting, fun x s free hx => ?_⟩,
    fun x ws waits s t hop owned he => ?_, fun h r w s p l q => ?_⟩
  · exact exec_passTransaction_answered free (ungranted_illShaped h) waits
  · rw [exec_passTransaction_answered free (ungranted_beyond h top)]
    obtain ⟨a, n | ws⟩ := x <;> rfl
  · rw [exec_passTransaction_answered free (ungranted_enablesNothing h below he),
      answer_okay_of_write (isRead_of_enablesNothing he)]
  · exact exec_passTransaction_answered free (ungranted_partOwned (isRead_write hop) h below he owned) waits
  · rw [exec_passTransaction, passTake_of_busy busy]
  · obtain ⟨n, most, run, before, after⟩ :=
      grantInTurn_point Config.grantPoints { s with pp := { s.pp with inHand := some x } }
    exact ⟨n, most, (exec_passTransaction_inTurn free hx).trans (congrArg _ run), before, after⟩
  · rw [exec_passTransaction] at he
    cases he
    exact passTake_partOwned_mem (isRead_write hop) owned waits
  · have block (offset : Nat) := powered_blockTake w offset s
    exact ⟨rfl, rfl, block _, block _, block _, block _, block _, block _, block _, block _, block _, block _⟩

end Sys2Proof.Proofs
end

-- ==== Proofs of the family 10: a write into a watched block ====
section
/-! The host's writes of the watched blocks of the control area (R168 to R172). -/

namespace Sys2Proof.Machine

variable {s : State} {w : BlockWrite} {offset : Nat}

/-! ## Where a block's words lie (R170, R172, R183) -/

/-- R183: the edges of the part-owned regions are edges of blocks. -/
theorem partOwned_inBlock {o k : Nat} (ho : o % 64 = 0) (hk : k < 64) (h : partOwned o = false) :
    partOwned (o + k) = false := by
  simp only [partOwned, Bool.or_eq_false_iff, Bool.and_eq_false_iff, decide_eq_false_iff_not] at h ⊢
  omega

theorem bytes_le (m : MemSize) : m.bytes ≤ 268435456 := by cases m <;> decide

/-- R4: no ring reaches into the control area. -/
theorem findRing_control (h : s.RingsApart) {a : Nat} (ha : s.base ≤ a) : s.findRing a = none := by
  rw [findRing_none]
  intro i e he r hr holds
  obtain ⟨-, top⟩ := h.within i e he r hr
  simp only [Ring.contains, Bool.and_eq_true, decide_eq_true_eq] at holds
  omega

/-- R168: the 32 bits of a transaction's address hold that of a word of the block. -/
theorem blockTransaction_start (hb : s.base % 64 = 0) (ho : offset % 64 = 0)
    (top : s.base + offset + 64 ≤ s.mc.size.bytes) :
    (w.transaction s offset).start = s.base + offset + 4 * w.start.val := by
  have size := bytes_le s.mc.size
  have start := w.start.isLt
  have held : (s.base + offset + 4 * w.start.val) % 2 ^ 32 = s.base + offset + 4 * w.start.val :=
    Nat.mod_eq_of_lt (by omega)
  rw [PassTransaction.start, BlockWrite.transaction, BitVec.toNat_ofNat, held]
  omega

/-- R169: words that stand within one block, one at least, are well shaped. -/
theorem blockTransaction_wellShaped (hb : s.base % 64 = 0) (ho : offset % 64 = 0)
    (top : s.base + offset + 64 ≤ s.mc.size.bytes) (words : 1 ≤ w.words.length)
    (within : w.start.val + w.words.length ≤ 16) : (w.transaction s offset).wellShaped = true := by
  have length : (w.transaction s offset).length = w.words.length := rfl
  have block : (w.transaction s offset).lastWord / 64 = (w.transaction s offset).start / 64 := by
    rw [lastWord_length, blockTransaction_start hb ho top, length]
    omega
  simp only [PassTransaction.wellShaped, length, block, Bool.and_eq_true, decide_eq_true_eq, beq_self_eq_true, and_true]
  omega

theorem blockTransaction_enables (h : ∃ x ∈ w.words, x.enables ≠ 0) :
    (w.transaction s offset).enablesNothing = false := by
  obtain ⟨x, hx, he⟩ := h
  exact List.all_eq_false.2 ⟨x, hx, by simpa using he⟩

/-! ## The write lands (R170 to R172) -/

/-- R171, R172: a write outside every ring stores its bytes, and its watchers are told. -/
theorem performPassWrite_landed {x : PassTransaction} {ws : List WriteWord} (hop : x.op = .write ws)
    (outside : s.findRing x.start = none) : s.granted.performPassWrite x ws = s.landed x.start ws := by
  have judged : s.granted.judgeWrite x ws = (s.granted, .lands) :=
    judgeWrite_of_plain fun f hf => by cases outside.symm.trans hf
  rw [performPassWrite_lands judged, answer_okay_write hop]
  rfl

/-- R168 to R172: a write that lands in a watched block needs a grant, has it at once, and lies in no ring. -/
theorem powered_blockTake_lands (h : blockWriteLands w s offset) : powered s (fun s => s.blockTake offset w) =
    .next (s.landed (s.base + offset + 4 * w.start.val) w.words) := by
  obtain ⟨ready, apart, now, within, enabled, hb, ho, top, free⟩ := h
  have words : 1 ≤ w.words.length := by
    obtain ⟨x, hx, -⟩ := enabled
    exact List.length_pos_of_mem hx
  have start := blockTransaction_start (w := w) hb ho top
  have hostOwned : s.partOwnedAt (w.transaction s offset).start = false := by
    have inBlock : s.base + offset + 4 * w.start.val - s.base = offset + 4 * w.start.val := by omega
    rw [start, State.partOwnedAt, inBlock, partOwned_inBlock ho (by omega) free, Bool.and_false]
  have needsGrant : s.ungranted (w.transaction s offset) = none :=
    ungranted_write (blockTransaction_wellShaped hb ho top words within) (blockTransaction_enables enabled)
      (by omega) hostOwned
  have outside : s.findRing (w.transaction s offset).start = none := findRing_control apart (by omega)
  calc powered s (fun s => s.blockTake offset w)
      = exec (.passTransaction (w.transaction s offset) false) s := by rw [← now]; exact powered_blockTake w offset s
    _ = .next (s.landed (w.transaction s offset).start w.words) := by
      rw [exec_passTransaction_granted ready needsGrant, performPass_write rfl, performPassWrite_landed rfl outside]
    _ = .next (s.landed (s.base + offset + 4 * w.start.val) w.words) := by rw [start]

/-! ## The touched words (R172) -/

theorem watchWords_cons_touched {x : WriteWord} {a : Nat} (ws : List WriteWord) (he : x.enables ≠ 0)
    (ha : s.base ≤ a) :
    s.watchWords a (x :: ws) = (s.watchWord (a - s.base) (s.mem.readWord a)).watchWords (a + 4) ws := by
  rw [State.watchWords, if_pos ⟨he, ha⟩]

theorem watchWords_cons_untouched {x : WriteWord} {a : Nat} (ws : List WriteWord) (h : x.enables = 0 ∨ a < s.base) :
    s.watchWords a (x :: ws) = s.watchWords (a + 4) ws := by
  rw [State.watchWords, if_neg (by rw [not_and_or, not_not, Nat.not_le]; exact h)]

end Sys2Proof.Machine

namespace Sys2Proof.Proofs

open Sys2Proof.Machine

/-- Settles O17: each of the ten writes is the pass transaction of its block, which lands; its touched words are told
one by one. -/
theorem watchedBlockWritesLand : Obligations.WatchedBlockWritesLand := by
  refine ⟨fun w s p l q => ?_, fun s a x ws => ⟨rfl, watchWords_cons_touched ws, watchWords_cons_untouched ws⟩⟩
  exact ⟨powered_blockTake_lands, fun h => ⟨powered_blockTake_lands h, powered_blockTake_lands h⟩,
    fun h => ⟨powered_blockTake_lands h, powered_blockTake_lands h⟩, powered_blockTake_lands, powered_blockTake_lands,
    powered_blockTake_lands, powered_blockTake_lands, powered_blockTake_lands⟩

end Sys2Proof.Proofs
end

-- ==== Proofs of the family 10: what leaves the block as it was ====
section
/-! An empty queue (log 3), and a command under PORn (R178). -/

namespace Sys2Proof.Machine

/-- R178: each command that does not reach a part under PORn lets its time pass, none where it carries no time, and then
acts if the part is powered. -/
theorem exec_eq_powered {c : Instr} (hc : c.reachesHeld = false) (s : State) :
    ∃ n f, exec c s = powered (s.elapse n) f := by
  cases c with dsimp only [exec]
  | pornAssert | pornRelease | hrstnAssert | hrstnRelease => cases hc
  | cueTake dt | frameBoundary _ dt | switchReference _ dt | stopDomain _ dt | retrainCountdownEnd _ dt
  | wordClockEdge _ dt | inputAbsent _ dt | oscillatorRunning _ dt | settleWindowEnd _ dt | outputRise _ dt
  | outputFall _ dt | inputStatusPeriodic dt | surfaceCounterPeriodic _ dt | refreshInterval dt
  | announce _ _ _ _ _ _ dt | buttons _ _ _ _ dt | faderReport _ _ _ _ _ dt | encoderReport _ _ _ _ dt
  | idleReport _ _ dt | surfaceSilenceTimeout _ dt | sdramBringUp dt => exact ⟨dt, _, rfl⟩
  | _ => exact ⟨0, _, rfl⟩

theorem powered_of_held {s : State} (h : s.phase = .held) (f : State → State) : powered s f = .next s :=
  congrArg _ (if_pos h)

theorem step_of_empty {s : State} (h : s.pending = []) : step s = .next s := by
  unfold step; rw [h]

end Sys2Proof.Machine

namespace Sys2Proof.Proofs

open Sys2Proof.Machine

/-- Settles O2: an empty queue gives no command, and what acts only when powered leaves the held part as it was. -/
theorem nothingHappensWithoutCause : Obligations.NothingHappensWithoutCause := by
  refine ⟨fun s empty => step_of_empty empty, fun c s held hc => ?_⟩
  obtain ⟨n, f, run⟩ := exec_eq_powered hc s
  have held' : (s.elapse n).phase = .held := held
  exact ⟨n, run.trans (powered_of_held held' f)⟩

end Sys2Proof.Proofs
end

-- ==== Proofs of the family 11: the queue and the answer of every command ====
section
/-! A step runs the command at the front of the queue; every command is answered, and the queue is left alone. -/

namespace Sys2Proof.Machine

theorem step_of_front {c : Instr} {rest : List Instr} {s : State} (h : s.pending = c :: rest) :
    step s = exec c { s with pending := rest } := by
  unfold step; rw [h]

/-! ## Every command is answered -/

/-- A row outside the reset pins answers through `powered`, due or not (log 4); the pins' own rows answer in each phase. -/
theorem exec_answers (c : Instr) (s : State) : ∃ t, exec c s = .next t := by
  cases hc : c.reachesHeld with
  | false =>
    obtain ⟨n, f, run⟩ := exec_eq_powered hc s
    exact ⟨_, run⟩
  | true =>
    cases c with
    | pornAssert | pornRelease | hrstnAssert | hrstnRelease => exact ⟨_, rfl⟩
    | _ => cases hc

/-! ## The queue through the reset sequences and the opening of the port (R178 to R182) -/

/-- R180: a host reset leaves the queue alone. -/
theorem resetBlocks_pending (s : State) : s.resetBlocks.pending = s.pending := rfl

theorem openPort_pending (s : State) : s.openPort.pending = s.pending := by
  rcases openPort_cases s with ⟨-, -, e⟩ | ⟨-, e⟩ <;> rw [e]
  exact resetBlocks_pending s

theorem openWhenReady_pending (s : State) : s.openWhenReady.pending = s.pending := by
  unfold State.openWhenReady; split
  · exact openPort_pending s
  · rfl

theorem writeReady_pending (s : State) : s.writeReady.pending = s.pending := by
  unfold State.writeReady; split
  · exact (openPort_pending _).trans (keeps_completeThrough (.refl s) _).pending
  · rfl

theorem completeRow_pending (s : State) (p : RecordWork → Bool) : (s.completeRow p).pending = s.pending := by
  unfold State.completeRow
  refine (keeps_completeThrough (.refl _) p).pending.trans ?_
  split
  · exact writeReady_pending s
  · rfl

theorem powered_pending {s t : State} {f : State → State} (he : powered s f = .next t)
    (hf : (f s).pending = s.pending) : t.pending = s.pending := by
  unfold powered at he
  split at he <;> cases he
  · rfl
  · exact hf

/-- No row of the sequences touches the queue; PORN_ASSERT hands it on to the power-on state. -/
theorem sequence_pending {c : Instr} {s t : State} (hc : mayTurnPhase c = true) (he : exec c s = .next t) :
    t.pending = s.pending := by
  cases c with
    dsimp only [exec, execPornAssert, execPornRelease, execSdramBringUp, execStartUpScrubComplete, execPassPortOpen,
      execMemoryArbitration, execEventRecordWritten, execMeterTableWritten, execSurfaceImageWritten, execHrstnAssert,
      execHrstnRelease, execHostResetScrubComplete] at he
  | pornAssert => cases he; rfl
  | pornRelease | hrstnRelease => split at he <;> cases he <;> rfl
  | sdramBringUp dt =>
    refine (powered_pending he ?_).trans (s.elapse_pending dt)
    split <;> rfl
  | startUpScrubComplete =>
    refine powered_pending he ?_
    split
    · exact (keeps_request (keeps_requestImage (keeps_requestImage
        (keeps_requestAll (.refl (s.scrubbed .records)) rewriteOrder) 0 []) 1 []) .startWord).pending
    · rfl
  | passPortOpen => exact powered_pending he (writeReady_pending s)
  | memoryArbitration =>
    exact powered_pending he ((openWhenReady_pending _).trans (keeps_arbitrate (.refl s)).pending)
  | eventRecordWritten => exact powered_pending he ((completeRow_pending _ _).trans (completeRow_pending s _))
  | meterTableWritten | surfaceImageWritten => exact powered_pending he (completeRow_pending s _)
  | hrstnAssert =>
    split at he <;> cases he
    · exact (resetBlocks_pending _).trans (keeps_finishInHand (.refl _)).pending
    · exact resetBlocks_pending _
    · exact resetBlocks_pending _
    · exact resetBlocks_pending _
    all_goals rfl
  | hostResetScrubComplete =>
    refine powered_pending he ?_
    split
    · exact (keeps_request (keeps_requestAll
        (keeps_restoreMeters (keeps_restoreSurfaces (.refl (s.scrubbed .hostRecords)))) rewriteOrder) .startWord).pending
    · rfl
  | _ => cases hc

/-- No command touches the queue: a row outside the sequences carries it over, as `exec_carries` says of every law. -/
theorem exec_pending {c : Instr} {s t : State} (he : exec c s = .next t) : t.pending = s.pending := by
  cases hc : mayTurnPhase c with
  | true => exact sequence_pending hc he
  | false =>
    obtain ⟨n, kept, -⟩ := exec_carries hc he
    exact kept.pending

end Sys2Proof.Machine

namespace Sys2Proof.Proofs

open Sys2Proof.Machine

/-- Settles O3: every command has an answer, and the state it answers holds the queue it was given. -/
theorem everyCommandIsAnswered : Obligations.EveryCommandIsAnswered := by
  intro c s
  obtain ⟨t, answered⟩ := exec_answers c s
  exact ⟨t, answered, exec_pending answered⟩

/-- Settles O1: with a command at the front, `step` takes its second branch. -/
theorem stepRunsFrontCommand : Obligations.StepRunsFrontCommand := fun _ _ _ front => step_of_front front

end Sys2Proof.Proofs
end
